-- ==== Sys2Proof/Word.lean ====
section
/-! DEFINITION. The word types of the TZ880 (R1, R2, R51, R112). -/
namespace Sys2Proof

/-- A byte of memory (R2). -/
abbrev Byte := BitVec 8
/-- A scalar register or a status register value (R112). -/
abbrev Word := BitVec 64
/-- An instruction word or a literal word: one lane of a line (R2, R98). -/
abbrev Lane := BitVec 32
/-- A row: 64 bytes of memory, or a row register q0 to q7 (R51, R112). -/
abbrev Row := BitVec 512
/-- An accumulator row, which a vector register names (R72, R112). -/
abbrev VRow := BitVec 4096
/-- A lane address: line in [15:3], lane in [2:0] (R98). -/
abbrev LaneAddr := BitVec 16
/-- A tile number: die, cluster and rank (R7). -/
abbrev TileNo := BitVec 8
/-- A scalar or vector register number, five bits in every format (R104). -/
abbrev Reg := BitVec 5
/-- A row register number (R112). -/
abbrev QReg := BitVec 3

end Sys2Proof
end

