-- ==== Sys2Proof/Config.lean ====
section
/-! DEFINITION. What the spec leaves open: free values without a body, so that no proof can see a value of them (log entries 5 to 8). -/
namespace Sys2Proof.Config

/-- A variable time, in tile clocks, of the n-th wait whose length the spec does not fix (R15, R80, R167, R281); log entry 5. -/
opaque freeDelay : Nat → Nat
/-- The outcome that a peer package's memory-side unit reports for the n-th request (R286); log entry 6. -/
opaque freeStatus : Nat → BitVec 3
/-- What a peer package answers to the n-th remote post (R185); log entry 6. -/
opaque freeReply : Nat → BitVec 64
/-- The result of a special function inside the bound of R210: function number, operand bits; log entry 7. -/
opaque freeSpecial : Nat → BitVec 32 → Nat
/-- A choice the spec leaves to the hardware, the n-th one (R254, R380); log entry 5. -/
opaque freeChoice : Nat → Bool
/-- This package's number on the fabric (R284, R297); log entry 6. -/
opaque packageNumber : Fin 1058
/-- The identity key, a private key of P-256, that a fused secret gives (R395); log entry 8. -/
opaque deriveIdentity : BitVec 256 → Nat
/-- The secret number of the device's n-th signature (R395); log entry 8. -/
opaque freeNonce : Nat → Nat
/-- The HBM addresses of the machine-reserved region (R399); log entry 89. -/
opaque machineReserved : Nat → Bool
/-- The responder's half of an SPDM key exchange (R395); log entry 8. -/
opaque keyExchangeReply : BitVec 512 → BitVec 512

end Sys2Proof.Config
end

