-- ==== Sys2Proof/Syntax.lean ====
section
/-! DEFINITION. The steps of the part: every row of the opcode table is one constructor of `Instr` (R104 to R109, and 95_what_each_step_holds). -/
namespace Sys2Proof

/-- The three issue streams of a tile (R9); the order C, V, F is the order of the constructors. -/
inductive Stream where
  | C | V | F
  deriving DecidableEq, Repr, Inhabited

/-- The order a qualifier literal asks for (R106). -/
inductive Order where
  | acquire | release | acqrel
  deriving DecidableEq, Repr, Inhabited

/-- The qualifier literal of an M-format instruction (R106). -/
structure Qual where
  ord : Order
  scope : BitVec 3
  deriving DecidableEq, Repr, Inhabited

/-- The second source of a V3 instruction, chosen by ssel (R105, R203). -/
inductive Src2 where
  | vreg (v : Reg)
  | lit (w : Lane)
  | xreg (x : Reg)
  deriving DecidableEq, Repr, Inhabited

/-- The caller header of a mailbox command (R402): word 0 and the credential. -/
structure Caller where
  part : Word
  cred : Word
  deriving DecidableEq, Repr, Inhabited

/-- A path to another package (R379): its first-hop port, its hops, and the intermediate router of a non-minimal one. -/
structure Path where
  port : Nat
  hops : Nat
  via : Option Nat
  deriving DecidableEq, Repr, Inhabited

/-- What the bring-up finds outside the registers: fuses, self-test and training results, the routing table among them (R379, R391, R396 to R398); the two flash slots
with the bytes of their images (R392), the fused secret and the certificate chain in flash (R395). -/
structure BootEnv where
  fuseTiles : List TileNo
  keyHashes : List (BitVec 256)
  revoked : BitVec 4
  minSvn : BitVec 32
  fuseOk : Bool
  testFailTiles : List TileNo
  hbmFailPch : List Nat
  onePorts : List Nat
  downPorts : List Nat
  slotA : List (List Byte)
  slotB : List (List Byte)
  coresOk : BitVec 2
  routes : List (Nat × List Path)
  ideOk : Bool
  secret : BitVec 256 := 0
  certs : List Byte := []
  deriving DecidableEq, Repr, Inhabited

/-- The particulars of a step that has no encoding. `tile` and `st` name the tile or router and the stream; `id` names a message, a task (by its
acceptance count), a launch, an accumulator row, a port or a queue; `num` and `aux` are further numbers; `w0` and `w1` are register or
record words; `wide` is a key, nonce, mask or row, `rows` are the rows of a record or request of another package; `caller`, `boot` and `images` are
those of the mailbox, the bring-up and a firmware update. -/
structure EvArgs where
  tile : TileNo := 0
  st : Stream := .C
  id : Nat := 0
  num : Nat := 0
  aux : Nat := 0
  w0 : Word := 0
  w1 : Word := 0
  wide : BitVec 512 := 0
  rows : List (BitVec 512) := []
  caller : Caller := ⟨0, 0⟩
  boot : BootEnv := ⟨[], [], 0, 0, true, [], [], [], [], [], [], 3, [], true, 0, []⟩
  images : List (List Byte) := []
  deriving DecidableEq, Repr, Inhabited

/-- The steps of the TZ880. The first part is the encoded instructions, in the order of the opcode map (R108);
the second part is the hardware's, the host's and the management plane's steps of 95_what_each_step_holds. A step of the second
part finds its particulars (which tile, which message, which value) in the field `ev` of the state; `EvArgs` says where. -/
inductive Instr where
  -- three-register arithmetic (R126, R130)
  | add (d a b : Reg) | sub (d a b : Reg) | mul (d a b : Reg) | mulh (d a b : Reg) | mulhu (d a b : Reg)
  | div (d a b : Reg) | divu (d a b : Reg) | rem (d a b : Reg) | remu (d a b : Reg)
  | and (d a b : Reg) | or (d a b : Reg) | xor (d a b : Reg) | andn (d a b : Reg)
  | shl (d a b : Reg) | shr (d a b : Reg) | sar (d a b : Reg) | rotr (d a b : Reg)
  | clz (d a : Reg) | ctz (d a : Reg) | popc (d a : Reg)
  | min (d a b : Reg) | max (d a b : Reg) | minu (d a b : Reg) | maxu (d a b : Reg)
  | slt (d a b : Reg) | sltu (d a b : Reg) | seq (d a b : Reg)
  | sel (d a b c : Reg) | mad (d a b c : Reg) | bfx (d a b : Reg) (s : Bool) | bfi (d a b c : Reg)
  -- immediates and constants (R127 to R129)
  | addi (d a : Reg) (i : BitVec 14) | muli (d a : Reg) (i : BitVec 14) | andi (d a : Reg) (i : BitVec 14)
  | ori (d a : Reg) (i : BitVec 14) | xori (d a : Reg) (i : BitVec 14)
  | shli (d a : Reg) (s : BitVec 6) | shri (d a : Reg) (s : BitVec 6) | sari (d a : Reg) (s : BitVec 6)
  | rotri (d a : Reg) (s : BitVec 6) | slti (d a : Reg) (i : BitVec 14)
  | lui (d : Reg) (i : BitVec 19) | lit (d : Reg) (z : Bool) (l0 : Lane) (l1 : Option Lane)
  -- control (R131 to R141)
  | beq (a b : Reg) (o : BitVec 14) | bne (a b : Reg) (o : BitVec 14) | blt (a b : Reg) (o : BitVec 14)
  | bge (a b : Reg) (o : BitVec 14) | bltu (a b : Reg) (o : BitVec 14) | bgeu (a b : Reg) (o : BitVec 14)
  | j (o : BitVec 24) | call (o : BitVec 24) | ret (a : Reg) | loop (a : Reg) (o : BitVec 14)
  | rep (c : BitVec 5) (a : Reg) (istep : BitVec 6) (s2 s1 sd : Bool)
  | nop | endStream | trap (i : BitVec 19) | brk (i : BitVec 19)
  -- rows and memory (R142 to R153)
  | ldq (q : QReg) (m : BitVec 3) (b : Reg) (i : BitVec 13) (ql : Option Qual)
  | ldqW (q : QReg) (m : BitVec 3) (b : Reg) (i : BitVec 13) (ql : Option Qual)
  | ldqWc (q : QReg) (m : BitVec 3) (b : Reg) (i : BitVec 13) (ql : Option Qual)
  | stq (q : QReg) (m : BitVec 3) (b : Reg) (i : BitVec 13) (ql : Option Qual)
  | ldg (q : QReg) (b : Reg) (i : BitVec 13) (ql : Option Qual)
  | stg (q : QReg) (b : Reg) (i : BitVec 13) (ql : Option Qual)
  | qext (d : Reg) (a : QReg) (k : BitVec 3) | qextX (d : Reg) (a : QReg) (b : Reg)
  | qins (d : QReg) (a : Reg) (k : BitVec 3) | qinsX (d : QReg) (a b : Reg)
  | qrotm (d a b : QReg) (c : Reg) | qmov (d a : QReg)
  | lds (d : Reg) (i : BitVec 14) | sts (a : Reg) (i : BitVec 14) | ldc (d a : Reg) (i : BitVec 14)
  | amo (q : QReg) (m : BitVec 3) (b : Reg) (i : BitVec 13) (op : BitVec 4) (w64 : Bool) (wm : BitVec 8) (ql : Option Qual)
  | cas (q : QReg) (m : BitVec 3) (b : Reg) (i : BitVec 13) (qn : QReg) (wm : BitVec 8) (ql : Option Qual)
  -- circular buffers, fences, barriers, status registers (R148 to R162)
  | cbinit (c : BitVec 3) (a : Reg) | cbwaitf (c : BitVec 3) (n : BitVec 14) | cbwaite (c : BitVec 3) (n : BitVec 14)
  | cbadv (c : BitVec 3) (p : Bool) (k : BitVec 8) | fence (s : BitVec 3) | mark
  | barinit (a : Reg) (s : BitVec 3) (i : BitVec 7) | bararr (a : Reg) (r : Bool) (i : BitVec 7)
  | barwait (d a : Reg) (r : Bool) (i : BitVec 7)
  | csrr (d : Reg) (i : BitVec 14) | csrw (a : Reg) (i : BitVec 14) | evt (a : Reg) (i : BitVec 14)
  -- remote memory and groups (R287 to R292, R298)
  | rldq (q : QReg) (b : Reg) (i : BitVec 13) (ql : Option Qual)
  | rstq (q : QReg) (b : Reg) (i : BitVec 13) (ql : Option Qual)
  | rstqNa (q : QReg) (b : Reg) (i : BitVec 13) (ql : Option Qual)
  | ramo (d a : Reg) (q : QReg) (op : BitVec 4) (w64 : Bool) (wm : BitVec 8)
  | rcas (d : Reg) (a b : QReg) (n : BitVec 2) | renq (d a b : Reg) | rchase (d a b c : Reg)
  | colldef (d a : Reg) | colldefFree (d a : Reg)
  -- the task graph and the hierarchy (R188 to R199)
  | shape (d a b : Reg) | shfree (a : Reg) | post (d a : Reg) | postTry (d a : Reg) | rpost (d a b : Reg) (t : Bool)
  | twait (d a : Reg) | tstat (d a : Reg) | tclr (a : Reg) | tacq (d : Reg) (c : BitVec 3) | tend (a : Reg)
  | launch (d a : Reg) | launchW (d a : Reg) | cancel (a : Reg) (l : BitVec 3)
  | cwait (d a : Reg) (l : BitVec 3) | cread (d a : Reg) (l : BitVec 3)
  | dqpush (d a : Reg) | dqpop (d : Reg) | dqsteal (d a : Reg)
  -- matrix, Roll and Rimshot (R241 to R244, R262 to R267, R279 to R283)
  | wload (a : Reg) | wloadR (a b : Reg) | wswap | topkrd (d : QReg) (a : Reg) | topkrdN (d a : Reg) | topkclr
  | demand (d : Reg) (t : Bool) | feed (d a b : Reg) | drain (d a b : Reg) | coda (a : Reg)
  | rollstat (d a : Reg) (s : BitVec 3)
  | tagalloc (d a : Reg) | tagfree (a : Reg) | shot (d a b : Reg) | catchTag (d a : Reg) (t : Bool)
  | tagstat (d a : Reg) (s : BitVec 3)
  -- privileged (R324, R359)
  | rfe | rfeK | srr (d : Reg) (i : BitVec 14) | srw (a : Reg) (i : BitVec 14) | idle (d a : Reg)
  -- vector with an immediate (R208)
  | vaddi (d : Reg) (i : BitVec 20) | vmuli (d : Reg) (i : BitVec 20) | vmovi (d : Reg) (i : BitVec 20)
  | vmaxi (d : Reg) (i : BitVec 20) | vmini (d : Reg) (i : BitVec 20)
  -- vector (R207, R210 to R219)
  | vadd (d a : Reg) (b : Src2) (p : BitVec 4) (k : BitVec 3) | vsub (d a : Reg) (b : Src2) (p : BitVec 4) (k : BitVec 3)
  | vmul (d a : Reg) (b : Src2) (p : BitVec 4) (k : BitVec 3) | vfma (d a : Reg) (b : Src2) (p : BitVec 4) (k : BitVec 3)
  | vmadd (d a : Reg) (b : Src2) (p : BitVec 4) (k : BitVec 3) | vmin (d a : Reg) (b : Src2) (p : BitVec 4) (k : BitVec 3)
  | vmax (d a : Reg) (b : Src2) (p : BitVec 4) (k : BitVec 3)
  | vabs (d a : Reg) (p : BitVec 4) (k : BitVec 3) | vneg (d a : Reg) (p : BitVec 4) (k : BitVec 3)
  | vrcp (d a : Reg) (p : BitVec 4) (k : BitVec 3) | vrsq (d a : Reg) (p : BitVec 4) (k : BitVec 3)
  | vsqrt (d a : Reg) (p : BitVec 4) (k : BitVec 3) | vexp2 (d a : Reg) (p : BitVec 4) (k : BitVec 3)
  | vlog2 (d a : Reg) (p : BitVec 4) (k : BitVec 3) | vtanh (d a : Reg) (p : BitVec 4) (k : BitVec 3)
  | vsigm (d a : Reg) (p : BitVec 4) (k : BitVec 3)
  | vcmp (d : BitVec 3) (a : Reg) (b : Src2) (p : BitVec 4) (k : BitVec 3) (u : Bool) (cond : BitVec 3)
  | vsel (d a : Reg) (b : Src2) (p : BitVec 4) (k : BitVec 3)
  | viadd (d a : Reg) (b : Src2) (p : BitVec 4) (k : BitVec 3) | visub (d a : Reg) (b : Src2) (p : BitVec 4) (k : BitVec 3)
  | vimul (d a : Reg) (b : Src2) (p : BitVec 4) (k : BitVec 3) | vimin (d a : Reg) (b : Src2) (p : BitVec 4) (k : BitVec 3)
  | vimax (d a : Reg) (b : Src2) (p : BitVec 4) (k : BitVec 3) | viabs (d a : Reg) (p : BitVec 4) (k : BitVec 3)
  | vand (d a : Reg) (b : Src2) (p : BitVec 4) (k : BitVec 3) | vor (d a : Reg) (b : Src2) (p : BitVec 4) (k : BitVec 3)
  | vxor (d a : Reg) (b : Src2) (p : BitVec 4) (k : BitVec 3) | vshl (d a : Reg) (b : Src2) (p : BitVec 4) (k : BitVec 3)
  | vshr (d a : Reg) (b : Src2) (p : BitVec 4) (k : BitVec 3) | vsar (d a : Reg) (b : Src2) (p : BitVec 4) (k : BitVec 3)
  | vcvt (d a : Reg) (p : BitVec 4) (k : BitVec 3) (part rm : BitVec 2) (dst src : BitVec 3)
  | vquant (d a : Reg) (p : BitVec 4) (rm blk : BitVec 2) (fmt : BitVec 5)
  | vdeq (d a : Reg) (k : BitVec 3) (rm blk : BitVec 2) (fmt : BitVec 5)
  | vrsum (d a : Reg) (b : Bool) (p : BitVec 4) (k : BitVec 3) | vrmax (d a : Reg) (b : Bool) (p : BitVec 4) (k : BitVec 3)
  | vrmin (d a : Reg) (b : Bool) (p : BitVec 4) (k : BitVec 3)
  | vscan (d a : Reg) (row : Bool) (op : BitVec 2) (p : BitVec 4) (k : BitVec 3)
  | vmov (d a : Reg) (p : BitVec 4) (k : BitVec 3) | vbcast (d : Reg) (b : Src2) (k : BitVec 3)
  | vext (d a : Reg) (b : Src2) (p : BitVec 4) | vins (d a : Reg) (b : Src2)
  | vaddc (d a : Reg) (c : BitVec 14) | vmulc (d a : Reg) (c : BitVec 14) | vfmac (d a : Reg) (c : BitVec 14)
  | vmaddc (d a : Reg) (c : BitVec 14)
  -- vector memory, masks, conditional queue, vector state (R206, R215, R220 to R225)
  | vld (d a : Reg) (i : BitVec 14) | vst (d a : Reg) (i : BitVec 14) | vlds (d : Reg) (i : BitVec 14) | vsts (d : Reg) (i : BitVec 14)
  | vmand (d a b : BitVec 3) | vmor (d a b : BitVec 3) | vmnot (d a : BitVec 3) | vmpop (d : Reg) (a : BitVec 3)
  | vcqpush (a : Reg) (p : BitVec 4) (k : BitVec 3) | vcqpop (d : Reg) (f : BitVec 3) | vcqbal (a : Reg) | vcqcnt (d : Reg)
  | vsett (e : BitVec 3) | vsetw (a : Reg) (i : BitVec 14) | vpat (d : BitVec 4) (a : Reg) (kind : BitVec 3) (k : BitVec 5)
  | vaclr (d : Reg) (c : BitVec 5)
  -- a lane holding one of the 56 unused opcodes (R110)
  | illegalOpcode (w : Lane)
  -- steps of the tile's hardware
  | lineFetch | resultLand | interlockedResult
  | stretchEnd | storePerformed | loadPerformed
  -- steps of the Carillon and the engines
  | taskAccept | renameAlloc | taskRelease
  | publication | taskExit | taskFail
  | taskCancelStop | copyRow | copySuspend
  | weightLoadComplete | matmulPass | rowFinal | accDrain
  -- steps of Roll mode
  | groupForm | beat | decisionPoint | demandAppend
  | feedStage | rollDrainWrite | rollStop
  -- steps of Rimshot
  | rimshotArrival | bounceResend | orphanTimeout
  | tagPurge | purgeAck | delivery
  -- barriers, channels, the fabric
  | barrierArrival | barrierResend | channelRowArrival | channelResend
  | channelRowAck | remoteRequest | remotePostArrival | remoteReply
  | transactionTimeout | agedDrop | asyncTrap | handlerEntry
  -- collectives
  | collContribution | collCommit | progressTimeout
  | knell | colldefTimeout
  -- translation and links
  | tlbWalk | invalSourceAck | invalidationComplete
  | flitRetry | linkDown
  -- units, dispatch, scheduler cores
  | unitRetire | cancelStop | tailWrite | queueConsume
  | launchAdmit | dispatchRound | unitPlace | preemptTake
  | unitResume | completionWord | coreHalt | heartbeatMiss | schedTakeover
  | planeDiff | planeEnd | planeFlip
  -- observability and the host's registers
  | pcSample | pealRecord | pealctl | pealrd
  | csel | wake | registerWrite
  -- the mailbox
  | queueSet | queueGet | jobEnd
  | jobCancel | tlbInval
  | suspendList | resume | fail
  | stateRead
  | freeze | thaw | setHaltOnBreak
  | clearHaltOnBreak | stateWake
  | mailboxUnsupported
  -- bring-up, security, package
  | firmwareUpdate | getMeasurements | keyExchange
  | keyInstall | powerLimitSet | clockChange | thermalTrip
  | coldReset | warmReset
  | idleTimerExpiry
  | partitionForm | partitionDissolve
  | coreReload
  deriving DecidableEq, Repr, Inhabited

end Sys2Proof
end

