-- ==== Sys2Proof/Machine/State.lean ====
section
/-! DEFINITION. The state of one TZ880 package as plain data, and the state after reset. Each field's docstring names the rule that gives it;
INVENTORY.md lists the reset values that the spec does not give (log entry 3). -/
namespace Sys2Proof.Machine

/-- Sparse storage by key, keys strictly rising; an unlisted key has the default that its reader names. -/
abbrev Map (α : Type) := List (Nat × α)

/-- Why the machine stops for good. -/
inductive Fault where
  /-- Raised by `step` when the fuses could not be read: the device stays in reset (R391, step 1). Safe: the spec lets nothing run then. -/
  | heldInReset
  deriving DecidableEq, Repr

/-- Why a step has no meaning in the model. -/
inductive Refusal where
  /-- Raised by an arm of `exec` whose instruction has no meaning yet. Safe: nothing is claimed of it. -/
  | notModelled (mnemonic : String)
  deriving DecidableEq, Repr

/-! ## Streams -/

/-- Where a result goes (R112, R357); `accs` is a run of `n` accumulator rows from `row`, modulo 256 (R215). -/
inductive Dest where
  | none | x (n : Reg) | q (n : QReg) | acc (row : Nat) | accs (row n : Nat) | mask (n : BitVec 3) | vtype | vwbase | pat (n : BitVec 4)
  deriving DecidableEq, Repr, Inhabited

/-- A result in flight (R12): it writes the bits `bits` of its destination at tick `land`, after every row load in `loads` is performed. -/
structure Flight where
  id : Nat := 0
  dest : Dest := .none
  data : VRow := 0
  bits : VRow := BitVec.allOnes 4096
  land : Nat := 0
  flags : BitVec 6 := 0
  lane : LaneAddr := 0
  loads : List Nat := []
  deriving DecidableEq, Repr, Inhabited

/-- A register write that takes effect at a later tick: CSRW of FLAGS (R161) and SRW (R324). -/
inductive Delayed where
  | flags (v : Word) (at_ : Nat)
  | sreg (n : Nat) (v : Word) (sel : Nat) (at_ : Nat)
  deriving DecidableEq, Repr, Inhabited

/-- What a load waits for at its row (R62, R63). -/
inductive FullEmpty where
  | plain | full | fullClear
  deriving DecidableEq, Repr, Inhabited

/-- The indivisible operations at a row (R151 to R153). -/
inductive Rmw where
  | amo (op : BitVec 4) (w64 : Bool) (wm : BitVec 8) (operand : Row)
  | cas (wm : BitVec 8) (expect new : Row)
  deriving DecidableEq, Repr, Inhabited

/-- An arrival at a barrier (R158). -/
structure Arrival where
  home : TileNo := 0
  idx : Nat := 0
  launch : Nat := 0
  tile : TileNo := 0
  st : Stream := .C
  deriving DecidableEq, Repr, Inhabited

/-- A row access of a stream that has issued and is not yet performed (R78 to R86), in program order; `id` numbers it. `key` is the row's key in
the memory of the state. A load delivers the row as row `part` of the result numbered `sink`. An entry that is neither load nor store is the
mark that a trap entry or a return leaves (R94). `arrive` is a barrier arrival, which acts as a store with release (R158). `more` are the further
rows that an indivisible operation writes, and `chase` marks one whose later rows its target finds (R86, R292). `due` is the clock in which a load
of a fixed latency is performed when nothing delays it (R144); `atHome` is the number in order of arrival of a load that has reached its row and waits there for full granules (R63). -/
structure Access where
  id : Nat := 0
  isLoad : Bool := true
  isStore : Bool := false
  key : Nat := 0
  ownDie : Bool := true
  data : Row := 0
  sink : Option Nat := none
  part : Nat := 0
  fe : FullEmpty := .plain
  rmw : Option Rmw := none
  acq : Bool := false
  rel : Option (BitVec 3) := none
  bridged : Bool := false
  arrive : Option Arrival := none
  more : List Nat := []
  chase : Bool := false
  due : Option Nat := none
  atHome : Option Nat := none
  lane : LaneAddr := 0
  addr : Word := 0
  deriving DecidableEq, Repr, Inhabited

/-- An interlocked result (R15): it is written when every row load in `loads` is performed, `ready` holds and tick `minLand` has come. `isLoad` marks
an interlocked load, which completes before a trap frame is written (R95, R117), and `isPost` the result of an RPOST (R190). -/
structure Await where
  id : Nat := 0
  dests : List Dest := []
  vals : List VRow := []
  loads : List Nat := []
  ready : Bool := true
  isLoad : Bool := false
  isPost : Bool := false
  minLand : Nat := 0
  lane : LaneAddr := 0
  addr : Word := 0
  deriving DecidableEq, Repr, Inhabited

/-- The state of a REP prefix (R137, R139). -/
structure Rep where
  count : Nat := 0
  idx : Nat := 0
  istep : BitVec 6 := 0
  s2 : Bool := false
  s1 : Bool := false
  sd : Bool := false
  deriving DecidableEq, Repr, Inhabited

/-- A taken branch whose target line has not arrived: the stream takes its check with that line (R103, R132). `fails` says that the check will
fail, so that the branch has had no effect. -/
structure BranchCheck where
  target : LaneAddr := 0
  after : Bool := false
  lane : LaneAddr := 0
  fails : Bool := false
  deriving DecidableEq, Repr, Inhabited

/-- What a stream does (R9, R29, R355). -/
inductive Mode where
  | noEntry | running | ended | held
  deriving DecidableEq, Repr, Inhabited

/-- An asynchronous fault waiting for the stream's next issue, from tick `due` on (R286, R363). -/
structure Async where
  due : Nat := 0
  code : BitVec 16 := 0
  addr : Word := 0
  info : Word := 0
  deriving DecidableEq, Repr, Inhabited

/-- A trap frame (R357). -/
structure Frame where
  valid : Bool := false
  ppriv : BitVec 2 := 0
  resumeNext : Bool := false
  rep : Option Rep := none
  async : Bool := false
  cause : BitVec 16 := 0
  tpc : BitVec 16 := 0
  taddr : Word := 0
  tinfo : Word := 0
  scratch : Map Word := []
  recSel : BitVec 4 := 0
  wordSel : BitVec 6 := 0
  flights : List Flight := []
  /-- Asynchronous faults whose landing tick had not come when the stream stopped (R363); they keep their distance from its next issue as results do. -/
  asyncs : List Async := []
  stopTick : Nat := 0
  deriving DecidableEq, Repr, Inhabited

/-- A G-space access that has issued and whose translation is not resolved (R362): its address and the row registers as it read them. -/
structure GHold where
  va : Word := 0
  q1 : Row := 0
  q2 : Row := 0
  deriving DecidableEq, Repr, Inhabited

/-- One issue stream (R9 to R18, R112). -/
structure Strm where
  /-- R9, R29, R355. -/
  mode : Mode := .noEntry
  /-- The lane from which the walk to the next instruction starts (R9, R102). -/
  pc : LaneAddr := 0
  /-- The line buffer: line number and eight words (R10). -/
  buf : Option (Nat × List Lane) := none
  /-- A requested line and, once the fetch unit has read it, the tick from which it is usable (R10). -/
  fetch : Option (Nat × Option Nat) := none
  /-- The requested line was read with an uncorrectable error (R363). -/
  fetchBad : Bool := false
  /-- A taken branch that waits for its target line (R103). -/
  check : Option BranchCheck := none
  /-- x1 to x31 (R112). -/
  x : Map Word := []
  /-- q0 to q7 (R112). -/
  q : Map Row := []
  /-- FLAGS [5:0] (R47). -/
  flags : BitVec 6 := 0
  /-- Destinations with their pending bit set (R15). -/
  pending : List Dest := []
  /-- Results in flight, in order of issue (R12 to R14). -/
  flights : List Flight := []
  /-- Writes that take effect at the next tick (R161, R324). -/
  delayed : List Delayed := []
  /-- Interlocked results outstanding (R15). -/
  awaits : List Await := []
  /-- Row accesses not yet performed, in program order (R80 to R86). -/
  accs : List Access := []
  /-- REP active (R137). -/
  rep : Option Rep := none
  /-- Privilege (R323). -/
  priv : BitVec 2 := 0
  /-- The numbers of the unacknowledged RSTQ.NA (R287) and of the other remote requests with an acknowledgment to come (R84). -/
  naOut : List Nat := []
  remoteOut : List Nat := []
  /-- Stall reason of R384 in the last clock. -/
  stall : BitVec 5 := 31
  /-- The acceptance count of the task the stream holds (R194). -/
  heldTask : Option Nat := none
  /-- Asynchronous faults not yet taken (R286, R363). -/
  asyncs : List Async := []
  /-- A wait in progress: the first-phase number of TWAIT (R191), a buffer, barrier, group or balance that an instruction waits on, or IDLE's mark (R324). -/
  waitN : Option Nat := none
  /-- The access or result that the stream's last instruction, which has issued, still waits for (R143, R190, R288). -/
  issuedWait : Option Nat := none
  /-- The G-space access that waits for its translation (R362). -/
  gHold : Option GHold := none
  /-- Interlocked loads outstanding at the stream's trap: its frame is written when they are complete (R95, R117). -/
  frameWait : List Nat := []
  /-- The stream's own trap waits while the handler runs for another stream (R356). -/
  ownTrap : Bool := false
  /-- The trap frame (R357). -/
  frame : Frame := {}
  /-- Tick at which the stream was held by its trap (R356). -/
  heldAt : Nat := 0
  deriving DecidableEq, Repr, Inhabited

/-! ## Buffers, barriers, planes, patterns -/

/-- A lane pattern (R205). -/
structure Pat where
  kind : BitVec 3 := 0
  k : BitVec 5 := 0
  sel : BitVec 24 := 0
  deriving DecidableEq, Repr, Inhabited

/-- A circular buffer (R73). -/
structure CircBuf where
  slotRows : BitVec 8 := 0
  nSlots : BitVec 8 := 0
  prod : BitVec 9 := 0
  cons : BitVec 9 := 0
  baseRow : BitVec 17 := 0
  valid : Bool := false
  deriving DecidableEq, Repr, Inhabited

/-- A named barrier (R155). -/
structure Barrier where
  valid : Bool := false
  scope : BitVec 3 := 0
  expect : BitVec 16 := 0
  count : BitVec 16 := 0
  phase : BitVec 16 := 0
  deriving DecidableEq, Repr, Inhabited

/-! ## The Carillon (R163 to R185) -/

/-- A shape record (R64). -/
structure Shape where
  space : Nat := 0
  rename : Bool := false
  dims : Nat := 1
  layout : Bool := false
  blk : Nat := 0
  scaled : Bool := false
  fmt : Nat := 0
  window : Nat := 0
  base : Nat := 0
  scaleBase : Nat := 0
  stride1 : Nat := 0
  stride2 : Nat := 0
  ext0 : Nat := 0
  ext1 : Nat := 0
  ext2 : Nat := 0
  bound : Nat := 0
  deriving DecidableEq, Repr, Inhabited

/-- Half-open intervals in three dimensions (R164, R171). -/
structure Ivl where
  l0 : Nat := 0
  h0 : Nat := 1
  l1 : Nat := 0
  h1 : Nat := 1
  l2 : Nat := 0
  h2 : Nat := 1
  deriving DecidableEq, Repr, Inhabited

/-- A box slot (R164). -/
structure Box where
  handle : Nat := 0
  write : Bool := false
  idim : Nat := 0
  iaddr : Nat := 0
  iv : Ivl := {}
  deriving DecidableEq, Repr, Inhabited

/-- A task record (R163): header fields and four box slots. -/
structure TaskRec where
  eng : Nat := 0
  op : Nat := 0
  pri : Nat := 0
  rmv : Bool := false
  rm : BitVec 2 := 0
  prows : Nat := 0
  pblk : Nat := 0
  p0 : Word := 0
  p1 : Word := 0
  p2 : Word := 0
  p3 : Word := 0
  act0 : Word := 0
  act1 : Word := 0
  boxes : List (Option Box) := []
  deriving DecidableEq, Repr, Inhabited

/-- The three edge kinds (R174). -/
inductive EdgeKind where
  | raw | waw | war
  deriving DecidableEq, Repr, Inhabited

/-- An edge from a newer task's box to an older task (R174). -/
structure Edge where
  older : Nat
  box : Nat
  kind : EdgeKind
  deriving DecidableEq, Repr, Inhabited

/-- Who posted a task remotely: package, tile, launch, unit index and the number of the RPOST (R184, R185). -/
structure Origin where
  pkg : Nat := 0
  tile : TileNo := 0
  launch : Nat := 0
  unit : Nat := 0
  post : Nat := 0
  deriving DecidableEq, Repr, Inhabited

/-- A destination row that an engine has written and that others do not see yet (R91): writes as key, mask and value, and the granules that they fill. -/
structure LateRow where
  writes : List (Nat × Byte × Byte) := []
  grans : List Nat := []
  deriving DecidableEq, Repr, Inhabited

/-- A task in the window (R169 to R179). `bases` holds the bound version of each slot (R176), `ivs` the boxes with their indirect ends (R172). -/
structure Task where
  acc : Nat := 0
  /-- A number that no other task bears (the model's own). -/
  uid : Nat := 0
  seq : BitVec 32 := 0
  record : TaskRec := {}
  st : BitVec 3 := 1
  edges : List Edge := []
  newVer : List (Nat × Nat) := []
  bases : List Nat := []
  ivs : List Ivl := []
  fault : BitVec 16 := 0
  flags : BitVec 6 := 0
  origin : Option Origin := none
  accsBefore : Nat := 0
  prog : Nat := 0
  blkDone : Nat := 0
  /-- Rows written of the slice that a copy is at, and the destination slices it has written (R62, R167). -/
  rowIdx : Nat := 0
  written : List Nat := []
  /-- Source rows as its engine has read them, each once (R90), and rows written that are not seen yet (R91). -/
  cache : Map Row := []
  late : List LateRow := []
  suspended : Bool := false
  cancel : Bool := false
  readyAt : Nat := 0
  holder : Option Stream := none
  channel : Nat := 0
  marked : List Nat := []
  /-- The end its engine has reached, 0 for DONE or a fault code, and the engine clock from which it counts (R179). -/
  ended : Option (BitVec 16) := none
  endAt : Nat := 0
  deriving DecidableEq, Repr, Inhabited

/-- A POST that has reserved an entry and waits to be accepted (R169). -/
structure PendingPost where
  id : Nat := 0
  due : Nat := 0
  record : TaskRec := {}
  accsBefore : Nat := 0
  deriving DecidableEq, Repr, Inhabited

/-- A remote instruction's kind (R287 to R292). -/
inductive RemoteKind where
  | rldq | rstq | rstqNa | ramo | rcas | renq | rchase | rpost | chanRow
  deriving DecidableEq, Repr, Inhabited

/-- A request on the fabric (R284 to R292, R376). -/
structure Request where
  kind : RemoteKind := .rldq
  tile : TileNo := 0
  st : Stream := .C
  await : Nat := 0
  launch : Nat := 0
  unit : Nat := 0
  handle : Nat := 0
  entry : BitVec 256 := 0
  offset : Nat := 0
  offs : List Nat := []
  data : Row := 0
  amoOp : BitVec 4 := 0
  w64 : Bool := false
  wm : BitVec 8 := 0
  n : Nat := 0
  key : Word := 0
  ctl : Word := 0
  lane : LaneAddr := 0
  addr : Word := 0
  rows : List Row := []
  target : TileNo := 0
  try_ : Bool := false
  tag : Nat := 0
  gen : BitVec 4 := 0
  time : Nat := 0
  srcPkg : Nat := 0
  /-- The access that stands for it in its stream's order (R80 to R86). -/
  acc : Nat := 0
  /-- What its target will say of it, a free value drawn as it leaves (R286, log entry 6). -/
  fate : BitVec 3 := 0
  /-- The key under which it was sealed; none when it was not (R383). -/
  sealKey : Option (BitVec 256) := none
  /-- The path that its first router has chosen (R380); none to the package itself, and where no path remains. -/
  path : Option Path := none
  deriving DecidableEq, Repr, Inhabited

/-- A record in the remote-post queue (R184). -/
structure RemotePost where
  record : TaskRec := {}
  origin : Origin := {}
  req : Request := {}
  deriving DecidableEq, Repr, Inhabited

/-- The record of a task that has left the window (R188). -/
structure DoneTask where
  acc : Nat := 0
  seq : BitVec 32 := 0
  st : BitVec 3 := 0
  fault : BitVec 16 := 0
  flags : BitVec 6 := 0
  deriving DecidableEq, Repr, Inhabited

/-- A live handle (R66, R68, R181): shape, current version's base, whether that version lies in the pool, poison box. -/
structure Handle where
  shape : Shape := {}
  cur : Nat := 0
  inPool : Bool := false
  poison : Option Ivl := none
  deriving DecidableEq, Repr, Inhabited

/-- A pool version in one of the eight rename slots (R68). -/
structure PoolVer where
  handle : Nat := 0
  base : Nat := 0
  rows : Nat := 0
  deriving DecidableEq, Repr, Inhabited

/-! ## Matrix engine and Roll mode -/

/-- One weight plane (R226): format, block length, read precision, sparsity; what is read of element k of column n under key 256·n + k, scale of
block b of column n under 64·n + b; logical groups with a bad metadata nibble (R229), under the key of their first position. -/
structure WPlane where
  fmt : Nat := 0x09
  blk : Nat := 8
  prec : Nat := 2
  sparse : Bool := false
  elems : Map (BitVec 16) := []
  scales : Map Byte := []
  bad : List Nat := []
  /-- The tile lies partly in scale rows, which no task may decode as elements (R57). -/
  inScales : Bool := false
  deriving DecidableEq, Repr, Inhabited

/-- A weight tile on its way into the shadow plane (R236, R241). -/
structure WLoad where
  plane : WPlane := {}
  roll : Bool := false
  isTask : Bool := false
  deriving DecidableEq, Repr, Inhabited

/-- An accumulator row in the array's pipeline (R236): its value after its pass, and where it drains. -/
structure PipeRow where
  row : Nat := 0
  value : VRow := 0
  step : Nat := 0
  idx : Nat := 0
  drain : Bool := false
  dm : Int := 0
  dn : Int := 0
  col : BitVec 32 := 0
  final : Bool := false
  deriving DecidableEq, Repr, Inhabited

/-- A MATMUL task in progress (R233, R236): parameter rows as read at release, the counters of the six levels from the innermost, passes done,
rows in the pipeline, waits (R390) and the engine clock of the last row drained. -/
structure MatProg where
  acc : Nat := 0
  rows : List Row := []
  counters : List Nat := []
  passes : Nat := 0
  finished : Bool := false
  pipe : List PipeRow := []
  wWait : Nat := 0
  dWait : Nat := 0
  drainedAt : Option Nat := none
  deriving DecidableEq, Repr, Inhabited

/-- An operand slot: the rows staged for one step, element k of row r under key 256·r + k, block scales likewise (R252). -/
structure OpSlot where
  step : Nat := 0
  rows : List Nat := []
  elems : Map (BitVec 16) := []
  scales : Map Byte := []
  freeAt : Nat := 0
  deriving DecidableEq, Repr, Inhabited

/-- A drain slot (R253). -/
structure DrainSlot where
  step : Nat := 0
  captured : Map VRow := []
  written : Nat := 0
  /-- The engine clock in which its last row was written: the slot is free from the next. -/
  doneAt : Option Nat := none
  deriving DecidableEq, Repr, Inhabited

/-- A FEED on its way to the array (R263). -/
structure FeedOp where
  id : Nat := 0
  step : Nat := 0
  row : Nat := 0
  elems : Map (BitVec 16) := []
  scales : Map Byte := []
  epoch : BitVec 8 := 0
  tile : TileNo := 0
  st : Stream := .C
  deriving DecidableEq, Repr, Inhabited

/-- A DRAIN at the array (R264). -/
structure DrainOp where
  id : Nat := 0
  step : Nat := 0
  addr : Nat := 0
  pitch : Nat := 0
  tile : TileNo := 0
  st : Stream := .C
  lastAt : Option Nat := none
  deriving DecidableEq, Repr, Inhabited

/-- A demand word that an array has raised and no queue has accepted (R251): the engine clock from which it is offered, the roll's launch, the tile. -/
structure Demand where
  due : Nat := 0
  launch : Nat := 0
  tile : TileNo := 0
  word : Word := 0
  deriving DecidableEq, Repr, Inhabited

/-- A roll on a tile's array (R245 to R259, R267). STATE as ROLLSTAT gives it. `raised*` is the next step whose demand of a kind may be raised,
`n*` counts the demands of a kind, `*Targets` names the tile to which the demand of a step went; `demands` are raised and not yet accepted, those of
earlier rolls among them; `late` the reminders that a rest beat sends (R254); `coda` a CODA that came between a pre-emption's decision and its
boundary (R257). -/
structure Roll where
  acc : Nat := 0
  uid : Nat := 0
  launch : Nat := 0
  p0 : Word := 0
  p1 : Word := 0
  p2 : Word := 0
  rmv : Bool := false
  rm : BitVec 2 := 0
  pattern : List (BitVec 32) := []
  state : BitVec 3 := 0
  epoch : BitVec 8 := 0
  beats : Nat := 0
  step : Nat := 0
  miss : Nat := 0
  rests : Nat := 0
  raisedO : Nat := 0
  raisedW : Nat := 0
  raisedD : Nat := 0
  nO : Nat := 0
  nW : Nat := 0
  nD : Nat := 0
  oTargets : List (Nat × TileNo) := []
  wTargets : List (Nat × TileNo) := []
  dTargets : List (Nat × TileNo) := []
  wDelivered : Nat := 0
  drained : List Nat := []
  demands : List Demand := []
  late : List (TileNo × Word) := []
  coda : Bool := false
  slots : List OpSlot := [{}, {}]
  drSlots : List DrainSlot := []
  feeds : List FeedOp := []
  drains : List DrainOp := []
  pipe : List PipeRow := []
  stopping : Option (BitVec 16) := none
  deriving DecidableEq, Repr, Inhabited

/-- What a decision point chose (R254, R255, R257 to R259). -/
inductive BeatKind where
  | rest | compute | coda | starved | stop
  deriving DecidableEq, Repr, Inhabited

/-- The group on a beat bus (R249): launch, members' tiles, the next beat's number and kind, CODA's arrival, a member lost (R258). -/
structure Bus where
  launch : Nat := 0
  members : List TileNo := []
  formed : Bool := false
  beat : Nat := 0
  kind : BeatKind := .rest
  coda : Bool := false
  lost : Bool := false
  /-- The clock of the last beat boundary. -/
  beatAt : Option Nat := none
  deriving DecidableEq, Repr, Inhabited

/-! ## Rimshot, barriers, channels -/

/-- A live or free tag (R268). -/
structure Tag where
  gen : BitVec 4 := 0
  live : Bool := false
  holder : TileNo := 0
  launch : Nat := 0
  unitIdx : Nat := 0
  binding : Word := 0
  flags : BitVec 6 := 0
  purging : Bool := false
  outstanding : Bool := false
  deriving DecidableEq, Repr, Inhabited

/-- Rows under a tag on their way or at rest (R272): operand, result or orphan. `holder` is the sending tile or the router whose entry holds it. -/
structure Shot where
  tagw : Word := 0
  rows : List VRow := []
  origin : TileNo := 0
  orphan : Bool := false
  leaves : Nat := 1
  launch : Nat := 0
  part : Nat := 0
  fromRouter : Bool := false
  holder : TileNo := 0
  entry : Nat := 0
  /-- The number of the operand in its sender's shot unit. -/
  op : Nat := 0
  bounces : Nat := 0
  /-- Waiting at its destination's edge as this clock began: it may be written in it, or it waits for the queue alone (R276). -/
  ready : Bool := false
  full : Bool := false
  deriving DecidableEq, Repr, Inhabited

/-- An entry of a matching store (R272): waiting for a partner, or outgoing until accepted. -/
structure MatchEntry where
  shot : Shot := {}
  waiting : Bool := true
  since : Nat := 0
  /-- The clock from which the entry is free: that after acceptance. -/
  freeAt : Option Nat := none
  deriving DecidableEq, Repr, Inhabited

/-- A router's store and its counters per partition: MATCH, ORPHAN, STALE, BOUNCE under keys 4·p to 4·p + 3 (R272, R283). -/
structure Router where
  entries : Map MatchEntry := []
  counts : Map Nat := []
  deriving DecidableEq, Repr, Inhabited

/-- An operand in a shot unit (R281), of unit `unit` of its launch. -/
structure ShotOp where
  id : Nat := 0
  unit : Nat := 0
  shot : Shot := {}
  st : Stream := .C
  deriving DecidableEq, Repr, Inhabited

/-- A delivery record (R276). -/
structure DelivRec where
  tagw : Word := 0
  orphan : Bool := false
  nm1 : Nat := 0
  origin : TileNo := 0
  leaves : Nat := 0
  deriving DecidableEq, Repr, Inhabited

/-- What mesh edge logic parks for a launch (R158, R277). -/
inductive Parked where
  | delivery (s : Shot)
  | arrival (a : Arrival)
  deriving DecidableEq, Repr, Inhabited

/-- A channel (R293, R295, R296): state 0 FREE, 1 OPEN, 2 POISONED. -/
structure Channel where
  state : BitVec 2 := 0
  wm : Nat := 0
  start : Nat := 0
  rows : Nat := 0
  filled : List Nat := []
  acc : Nat := 0
  sender : Option Nat := none
  /-- Poisoned by a wrong count of rows, which its SEND's rows are told (R295). -/
  miscount : Bool := false
  deriving DecidableEq, Repr, Inhabited

/-! ## Units and tiles -/

/-- The resident unit of a tile (R20, R28). `tasksOut` holds the numbers of the RPOSTs whose tasks are its members (R185), and `stopped` says that
steps 2 and 3 of R23 have been applied to it. -/
structure UnitRes where
  launch : Nat := 0
  idx : Nat := 0
  tasksOut : List Nat := []
  failed : Bool := false
  cancelled : Bool := false
  stopped : Bool := false
  deriving DecidableEq, Repr, Inhabited

/-- A cached translation (R373): context, first address, log2 of the size, leaf entry. -/
structure TlbEntry where
  ctx : Nat := 0
  va : Nat := 0
  log2 : Nat := 16
  leaf : Word := 0
  deriving DecidableEq, Repr, Inhabited

/-- One top-k entry (R238). -/
structure TopEntry where
  v : BitVec 32 := 0x7FC00000
  i : BitVec 32 := 0xFFFFFFFF
  deriving DecidableEq, Repr, Inhabited

/-- A step and its particulars, as the agenda and the timers hold it. -/
structure Act where
  op : Instr
  ev : EvArgs := {}
  deriving DecidableEq, Repr, Inhabited

/-- One tile (R7 to R29 and the chapters of its engines). -/
structure Tile where
  c : Strm := {}
  v : Strm := {}
  f : Strm := {}
  /-- TTICK (R11). -/
  ttick : Nat := 0
  /-- Soft errors in the tile's own memories, by the keys of `eccSpill` and its like: true an uncorrectable one (R363, log entry 64). -/
  ecc : Map Bool := []
  /-- Tile clocks that the tile's engines have counted (R16, R336). -/
  eclk : Nat := 0
  /-- A fixed-latency access is late: the tick is stretched (R16). -/
  stretched : Bool := false
  /-- The late access is complete: the next clock is a tick again (R16). -/
  stretchOver : Bool := false
  /-- Frozen through the state port (R336); halt-on-break (R337). -/
  frozen : Bool := false
  haltBrk : Bool := false
  /-- The tile freezes at the end of this clock (R336, R337). -/
  freezeReq : Bool := false
  /-- The resident unit, if any (R28). -/
  unit : Option UnitRes := none
  /-- The tile's scratchpad has been filled for the current partition (R28). -/
  zeroed : Bool := false
  /-- Requests waiting for the fetch unit, oldest first, and the tick in which it last read a line (R10). -/
  fetchQ : List Stream := []
  fetchedAt : Option Nat := none
  /-- Instruction memory: line number to eight words (R98, R342). -/
  imem : Map (List Lane) := []
  /-- Constant bank (R71). -/
  cbank : Map Lane := []
  /-- Spill memory by byte (R70) and the stores of the current tick. -/
  spill : Map Byte := []
  spillPend : List (Nat × Nat × VRow) := []
  /-- Tile offsets / 16 of the granules that are empty (R62). -/
  emptyGr : List Nat := []
  /-- Accumulator rows (R72) and the claims of banks 0 and 1. -/
  acc : Map VRow := []
  claim0 : Option Nat := none
  claim1 : Option Nat := none
  /-- Vector state (R200, R72, R112, R205). -/
  vtype : BitVec 3 := 0
  vwbase : BitVec 8 := 0
  masks : Map (BitVec 512) := []
  pats : Map Pat := []
  /-- Circular buffers as the current tick found them: a wait resumes in the tick after the update (R150). -/
  cbs0 : Map CircBuf := []
  /-- Circular buffers (R73), barriers (R155) and arrivals in the barrier message queue, held for a barrier that is not VALID (R158, R331). -/
  cbs : Map CircBuf := []
  bars : Map Barrier := []
  barQ : List Arrival := []
  /-- Configuration planes by register number (R329, R332, R333) and the pending end record. -/
  plane : Map Word := []
  plane2 : Map Word := []
  planeEnd : Option (Nat × BitVec 32) := none
  /-- Handle table and rename slots (R66, R68). -/
  handles : Map Handle := []
  pool : List PoolVer := []
  /-- Window, pending posts, remote-post queue (R169, R184). -/
  window : List Task := []
  posts : List PendingPost := []
  remoteQ : List RemotePost := []
  /-- Sequence counter and acceptance count (R170); record of finished tasks (R188); earliest bad task (R191). -/
  seqCtr : BitVec 32 := 0
  accCtr : Nat := 0
  done : List DoneTask := []
  firstBad : Option (Nat × BitVec 32) := none
  /-- TACQ has reported DRAINED for VECTOR and SOFT (R185, R194). -/
  drainedV : Bool := false
  drainedS : Bool := false
  /-- Matrix engine (R226, R233, R241). -/
  planeA : WPlane := {}
  planeS : WPlane := {}
  shadowFull : Bool := false
  wload : Option WLoad := none
  mat : Option MatProg := none
  topk : Map (List TopEntry) := []
  /-- Roll mode (R245 to R267). -/
  roll : Roll := {}
  epochs : Nat := 0
  demandQ : List Word := []
  /-- The clock in which a SOFT task was last released (R177). -/
  softAt : Option Nat := none
  /-- The deque was empty when the clock began (R199). -/
  dequeEmpty : Bool := true
  /-- Work deque (R199), bottom last; conditional queue, oldest first (R223). -/
  deque : List Word := []
  condQ : List (BitVec 32) := []
  /-- Rimshot: shot unit, delivery queue, results waiting at the edge, parked messages (R276, R277, R281). -/
  shots : List ShotOp := []
  delivQ : List DelivRec := []
  edgeWait : List Shot := []
  parked : List Parked := []
  /-- Peal staging queue (R331). -/
  pealQ : List (Nat × BitVec 256) := []
  /-- Channels (R293). -/
  chans : Map Channel := []
  /-- Trap state shared by the tile (R355 to R357). -/
  tsel : BitVec 2 := 0
  tvec : BitVec 16 := 0xFFFF
  handling : Option Stream := none
  /-- A wake has arrived (R324); a queue entry has been added since IDLE issued; the time IDLE waits for, 0 for none, and whether it has come. -/
  woken : Bool := false
  queueAdded : Bool := false
  idleUntil : Nat := 0
  idleTimer : Bool := false
  /-- TLB (R373). -/
  tlb : List TlbEntry := []
  /-- Steps held at the edge of a frozen tile (R336). -/
  held : List Act := []
  /-- A pre-emption request waits to be taken (R348, R360); the unit whose LAUNCH.W asked for it and still waits for quota (R197). -/
  preemptAsk : Bool := false
  preemptFor : Option Nat := none
  /-- The request has been taken: the unit issues nothing and is being saved (R366). -/
  preemptReq : Bool := false
  /-- The tile clock, as its engines count them, in which it was taken (R384). -/
  stopAt : Nat := 0
  /-- Launch and index of the unit that the dispatcher places here, and whether the tile holds its plane (R333, R346). -/
  placing : Option (Nat × Nat) := none
  flipped : Bool := false
  deriving DecidableEq, Repr, Inhabited

/-! ## Hub -/

/-- A reply on the fabric (R286, R288), and the key under which it was sealed (R383). -/
structure Reply where
  req : Request := {}
  sealKey : Option (BitVec 256) := none
  status : BitVec 3 := 0
  value : Word := 0
  row : Row := 0
  /-- The path of one that leaves the package (R380). -/
  path : Option Path := none
  deriving DecidableEq, Repr, Inhabited

/-- A row of a channel (R295, R296). -/
structure ChanRow where
  target : TileNo := 0
  chan : Nat := 0
  index : Nat := 0
  total : Nat := 0
  data : Row := 0
  srcTile : TileNo := 0
  srcAcc : Nat := 0
  deriving DecidableEq, Repr, Inhabited

/-- A contribution to a chunk of this member's destination (R302, R303): its index g, its values and the clock it arrived in. -/
structure Contribution where
  chunk : Nat := 0
  g : Nat := 0
  at_ : Nat := 0
  vals : List Nat := []
  deriving DecidableEq, Repr, Inhabited

/-- What travels between agents. A row's acknowledgment says stored (0), refused (1), BADPARAM (2) or CHANNEL_POISONED (3). -/
inductive Msg where
  | shot (s : Shot) (dest : TileNo)
  | deliver (s : Shot) (dest : TileNo)
  | arrival (a : Arrival)
  | chanRow (r : ChanRow)
  | chanAck (r : ChanRow) (out : Nat)
  | request (r : Request)
  | reply (r : Reply)
  deriving DecidableEq, Repr, Inhabited

/-- A transaction tag (R376). -/
structure TxTag where
  gen : BitVec 4 := 0
  busy : Option Request := none
  deriving DecidableEq, Repr, Inhabited

/-- A launch (R20, R21, R341 to R348). -/
structure Launch where
  host : Option (Nat × Nat) := none
  parent : Option Nat := none
  parentUnit : Nat := 0
  part : Nat := 0
  ctx : Nat := 0
  prog : Nat := 0
  args : Nat := 0
  plane : Nat := 0
  doneAddr : Nat := 0
  irq : Bool := false
  quota : Nat := 0
  share : Nat := 0
  nunits : Nat := 0
  cls : Nat := 0
  pri : Nat := 0
  place : Nat := 0
  list : Nat := 0
  /-- The tiles of LIST as read at admission (R346). -/
  listTiles : List TileNo := []
  deps : List Nat := []
  depmode : Bool := false
  admitted : Bool := false
  /-- The launch holds 1 + QUOTA entries of the pool (R345). -/
  pooled : Bool := false
  order : Nat := 0
  placed : Nat := 0
  waiting : List Nat := []
  unitsLeft : Nat := 0
  childrenLeft : Nat := 0
  status : BitVec 3 := 0
  worst : BitVec 3 := 1
  cancelled : Bool := false
  graph : Nat := 0
  phase : Nat := 0
  job : Nat := 0
  deriving DecidableEq, Repr, Inhabited

/-- A graph, phase or job (R20, R343): members left, the extra member held until it closes, status. -/
structure Level where
  members : Nat := 0
  isOpen : Bool := true
  cancelled : Bool := false
  status : BitVec 3 := 0
  worst : BitVec 3 := 1
  parent : Nat := 0
  deriving DecidableEq, Repr, Inhabited

/-- A host launch queue (R338, R339, R343). -/
structure HostQ where
  base : Nat := 0
  log2n : Nat := 0
  pri : Nat := 0
  part : Nat := 0
  ctx : Nat := 0
  job : Nat := 0
  enable : Bool := false
  tail : BitVec 32 := 0
  head : BitVec 32 := 0
  graph : Option Nat := none
  phase : Option Nat := none
  hist : List Nat := []
  deriving DecidableEq, Repr, Inhabited

/-- An entry of a suspension list (R364). -/
structure Suspend where
  tile : TileNo := 0
  seq : BitVec 32 := 0
  uid : Nat := 0
  subcause : Nat := 0
  addr : Nat := 0
  ctx : Nat := 0
  channel : Nat := 0
  deriving DecidableEq, Repr, Inhabited

/-- A partition (R327, R328) with its Peal registers (R386), counters (R390), suspension list (R364) and dispatch state (R347). -/
structure Part where
  formed : Bool := false
  clusters : BitVec 32 := 0
  groups : BitVec 32 := 0
  ctxs : BitVec 64 := 0
  cred : Word := 0
  suspends : List Suspend := []
  rr : Map Nat := []
  reservation : Option Nat := none
  pealDrops : BitVec 32 := 0
  pealPeriod : BitVec 16 := 0
  pealSrc : BitVec 8 := 0
  pealBase : Word := 0
  pealSize : BitVec 5 := 0
  pealWr : Word := 0
  pealRd : Word := 0
  pealRdNext : Word := 0
  pealLost : Word := 0
  sampleFrom : Nat := 0
  cnt : Map Word := []
  csel : Map Word := []
  /-- The clock in which a CSEL was last written, plus 1 (R390). -/
  cselAt : Map Nat := []
  /-- Records of the hub's own sources waiting to be written (R387, R389). -/
  hubPeal : List (Nat × BitVec 256) := []
  deriving DecidableEq, Repr, Inhabited

/-- A collective task at this package's sequencer (R299 to R308): contributions that have arrived, chunks written with the order in which
their contributions were combined, and the fabric time of its last progress. -/
structure CollRun where
  tile : TileNo := 0
  acc : Nat := 0
  seq : BitVec 32 := 0
  got : List Contribution := []
  chunks : List (Nat × List Nat) := []
  flags : BitVec 6 := 0
  inpath : Bool := false
  running : Bool := false
  progress : Nat := 0
  /-- Writes to destination rows that another chunk completes (R302): address, mask and value. -/
  pend : List (Nat × Byte × Byte) := []
  deriving DecidableEq, Repr, Inhabited

/-- A collective group of a fabric context (R297, R298). Until it is live, `peersAt` is the clock in which its other members have defined it, `defUnit`
launch and index of the unit that waits on `defTile`, and `since` the fabric time at which it began to. `dropped` counts late arrivals, `aborted`
holds the numbers of the collectives that have been aborted here (R307), and `doomed` those of which a Knell came before their task was released here,
each with its cause and detector. -/
structure Group where
  live : Bool := false
  desc : Row := 0
  members : List Nat := []
  own : Nat := 0
  ax0 : Nat := 1
  ax1 : Nat := 1
  ax2 : Nat := 1
  seq : BitVec 32 := 0
  peersAt : Nat := 0
  mismatch : Bool := false
  timedOut : Bool := false
  defTile : TileNo := 0
  defUnit : Nat × Nat := (0, 0)
  since : Nat := 0
  aborted : List (BitVec 32) := []
  doomed : List (BitVec 32 × Nat × Nat) := []
  runs : List CollRun := []
  dropped : Nat := 0
  pendingCause : Nat := 0
  deriving DecidableEq, Repr, Inhabited

/-- A fabric context (R327, R370): descriptor and groups. -/
structure Ctx where
  root : Nat := 0
  enable : Bool := false
  groups : Map Group := []
  deriving DecidableEq, Repr, Inhabited

/-- A key slot (R382, R383). -/
structure KeySlot where
  current : Option (BitVec 256) := none
  previous : Option (BitVec 256) := none
  epoch : Bool := false
  counter : Nat := 0
  deriving DecidableEq, Repr, Inhabited

/-- An invalidation in progress (R374): the sources that have not acknowledged, a tile by its number and the hub's from 256 on. -/
structure Inval where
  ctx : Nat := 0
  whole : Bool := false
  first : Nat := 0
  count : Nat := 0
  /-- The number of its sources, which the progress that the mailbox reports counts from (R402). -/
  total : Nat := 0
  waiting : List Nat := []
  deriving DecidableEq, Repr, Inhabited

/-- A scheduler journal record (R350): kind, launch, value (a queue's new HEAD, a unit, a number of tiles). -/
structure Journal where
  kind : Nat := 0
  id : Nat := 0
  val : Nat := 0
  done : Bool := false
  deriving DecidableEq, Repr, Inhabited

/-- The tables of the active scheduler core at its last checkpoint (R350). -/
structure SchedTables where
  launches : Map Launch := []
  hostQs : Map HostQ := []
  kickmap : BitVec 64 := 0
  poolFree : Nat := 4096
  deriving DecidableEq, Repr, Inhabited

/-- A pre-empted unit (R366 to R368): its tile's saved state, its footprint's bytes and empty granules. -/
structure Saved where
  launch : Nat := 0
  idx : Nat := 0
  tileNo : TileNo := 0
  tile : Tile := {}
  cells : List Host.Cell := []
  /-- The unit whose LAUNCH.W waits for quota, when the gang left its tiles for that (R27, R197). -/
  quota : Option Nat := none
  /-- Steps of the unit that waited at the save. -/
  acts : List Act := []
  deriving DecidableEq, Repr, Inhabited

/-- An error report to the management plane (R361, R400): code and a particular. -/
structure Report where
  code : BitVec 16 := 0
  info : Nat := 0
  deriving DecidableEq, Repr, Inhabited

/-- A request to the management plane's outputs: mailbox return code, result word and output payload (R402). -/
structure MboxOut where
  invalid : Bool := false
  unsupported : Bool := false
  result : Word := 0
  words : List Word := []
  background : Bool := false
  deriving DecidableEq, Repr, Inhabited

/-- A DQSTEAL that waits for the end of its clock (R199). -/
structure Steal where
  thief : TileNo := 0
  st : Stream := .C
  id : Nat := 0
  victim : TileNo := 0
  deriving DecidableEq, Repr, Inhabited

/-- One TZ880 package. -/
structure State where
  /-- The tile and the stream that the current instruction belongs to (the model's own cursor; log entry 1). -/
  ct : TileNo := 0
  cs : Stream := .C
  /-- Particulars of the step being performed (the model's own; log entry 1). -/
  ev : EvArgs := {}
  /-- Steps due now, in order (the model's own; log entry 1). -/
  agenda : List Act := []
  /-- Issue slots left in this clock (the model's own; log entry 1). -/
  slots : List (TileNo × Stream) := []
  /-- The part of the clock after the slots, in which the Carillon works (R183, R360), and what the slots leave to it (the model's own; log entry 1). -/
  late : Bool := false
  lateQ : List Act := []
  /-- Steps of this clock that put entries into a queue of a tile's pool, after the owners' DQPUSH of the slots (R330; the model's own, log entry 1). -/
  queueQ : List Act := []
  /-- Steals of this clock, served in order of tile number after the owners (R199). -/
  steals : List Steal := []
  /-- Steps due at a later clock (the model's own; log entry 1). -/
  timers : List (Nat × Act) := []
  /-- Steps whose conditions did not hold when they were tried, in order of arrival: tried again in the next clock (the model's own; log entry 1). -/
  waiters : List Act := []
  /-- Tile clocks since reset (R16, R236); fabric clock in ns (R378). -/
  clock : Nat := 0
  fabric : Nat := 0
  /-- Part of a ns that the fabric clock has passed, times the tile clock in MHz (the model's own). -/
  fabFrac : Nat := 0
  /-- Counter behind the free values (log entry 5) and the next message, access and result number (the model's own). -/
  fresh : Nat := 0
  nextId : Nat := 16
  /-- Scratchpad, HBM, host and peer memory by byte (R48, R75, R76); `Mem` gives the keys. -/
  mem : List Host.Cell := []
  /-- Soft errors in rows of scratchpad and HBM, by the row's key: true an uncorrectable one (R363, log entry 64). -/
  ecc : Map Bool := []
  /-- Scratchpad banks in which an engine or a delivery works, and those that a stream's load wins, each with the clock (R17; the model's own, log entry 57). -/
  bankUse : List (Nat × Nat) := []
  bankWon : List (Nat × Nat) := []
  tiles : Map Tile := []
  routers : Map Router := []
  tags : Map Tag := []
  buses : Map Bus := []
  msgs : Map Msg := []
  /-- Dispatch (R338 to R353). -/
  launches : Map Launch := []
  nextLaunch : Nat := 1
  graphs : Map Level := []
  phases : Map Level := []
  jobs : Map Level := []
  nextLevel : Nat := 1
  hostQs : Map HostQ := []
  kickmap : BitVec 64 := 0
  poolFree : Nat := 4096
  admitCtr : Nat := 0
  saved : List Saved := []
  takeovers : BitVec 16 := 0
  gate : Bool := false
  active : Bool := false
  standby : Bool := false
  halted0 : Bool := false
  halted1 : Bool := false
  heldWords : List Nat := []
  journal : List Journal := []
  checkpoint : Nat := 0
  tables : SchedTables := {}
  /-- The firmware in the 256 KiB instruction memories of cores 0 and 1, and their words with an uncorrectable error, each with its core (R350, R352). -/
  coreMem0 : List Byte := []
  coreMem1 : List Byte := []
  coreBad : List (Nat × Nat) := []
  /-- Partitions, contexts, translation, fabric (R327, R370 to R383). -/
  parts : Map Part := []
  ctxs : Map Ctx := []
  hubTlbs : Map (List TlbEntry) := []
  invals : Map Inval := []
  bias : BitVec 8 := 32
  ttimeout : BitVec 16 := 200
  txTags : Map TxTag := []
  keys : Map KeySlot := []
  /-- Routing table (R379): the paths to each destination package that use no link that is down; an unlisted package has none. -/
  routes : Map (List Path) := []
  flitRetries : Map Nat := []
  /-- Replies that have left for other packages, the latest last (R378 to R380). -/
  outReplies : List Reply := []
  portLanes : Map Nat := []
  /-- Fences, fuses, boot, security (R391 to R397). -/
  fenced : List TileNo := []
  pchFenced : List Nat := []
  fuses : BootEnv := {fuseTiles := [], keyHashes := [], revoked := 0, minSvn := 0, fuseOk := true, testFailTiles := [], hbmFailPch := [],
                      onePorts := [], downPorts := [], slotA := [], slotB := [], coresOk := 3, routes := [], ideOk := false}
  inReset : Bool := false
  recovery : Bool := false
  /-- Whether IDE protects the CXL link: without it the host's accesses are not answered (R391, R399). -/
  ide : Bool := false
  measure : Map (BitVec 256) := []
  slotUsed : Bool := false
  session : Bool := false
  spdmOut : List (BitVec 512) := []
  /-- The identity key that the last cold reset derived (R395). -/
  identity : Nat := 0
  /-- Host side: MSI-X vectors raised, the vector table by its 64-bit words with the pending vectors (R399, R401, log entry 90), reports, mailbox output
  (R400, R402), the Background Command Status register, and the row that the host's last load read (R399). -/
  irqs : List Nat := []
  msix : Map Word := []
  msixPend : List Nat := []
  bgStatus : Word := 0
  hostData : Option Row := none
  reports : List Report := []
  mbox : MboxOut := {}
  mboxBusy : Bool := false
  /-- Power, clock, temperature (R403, R404). -/
  powerLimit : Nat := 1800
  mhz : Nat := 1100
  thermal : Bool := false
  deriving DecidableEq, Repr, Inhabited

/-- The state after reset: the Reset columns of the spec, and the values of log entries 2 and 3 where the spec gives none. Steps 1 to 8 of
R391 are the step COLD_RESET; what they leave is every field at its default. -/
def State.reset : State := {}

end Sys2Proof.Machine
end

