-- ==== Sys2Proof/Machine/Bits.lean ====
section
/-! DEFINITION. Bit fields, sign extension, sparse maps and checksums, shared by every meaning (R1, R2, R5, R333). -/
namespace Sys2Proof.Machine

/-! ## Sparse maps -/

/-- The value under a key, or the default. -/
def Map.get {α : Type} (d : α) : Map α → Nat → α
  | [], _ => d
  | (k, v) :: rest, n => if k = n then v else Map.get d rest n

/-- Sets the value under a key; keys stay strictly rising. -/
def Map.set {α : Type} : Map α → Nat → α → Map α
  | [], n, v => [(n, v)]
  | (k, w) :: rest, n, v =>
    if n < k then (n, v) :: (k, w) :: rest
    else if n = k then (n, v) :: rest
    else (k, w) :: Map.set rest n v

/-- Whether a key is listed. -/
def Map.has {α : Type} : Map α → Nat → Bool
  | [], _ => false
  | (k, _) :: rest, n => k == n || Map.has rest n

/-- Removes a key. -/
def Map.del {α : Type} (m : Map α) (n : Nat) : Map α := m.filter fun p => p.1 != n

/-- The value under a key, if it is listed. -/
def Map.find {α : Type} : Map α → Nat → Option α
  | [], _ => none
  | (k, v) :: rest, n => if k = n then some v else Map.find rest n

/-- A sorted list of numbers without repeats, with `n` added. -/
def insertNat (n : Nat) : List Nat → List Nat
  | [] => [n]
  | k :: rest => if n < k then n :: k :: rest else if n = k then k :: rest else k :: insertNat n rest

/-- The smallest number from `n` on, within `fuel` tries, that satisfies a test. -/
def findFrom (p : Nat → Bool) (n : Nat) : Nat → Option Nat
  | 0 => none
  | fuel + 1 => if p n then some n else findFrom p (n + 1) fuel

/-- Floor of the base-2 logarithm, or of the square root, found bit by bit. -/
def isqrtGo (n : Nat) : Nat → Nat → Nat
  | 0, r => r
  | b + 1, r => let c := r + 2 ^ b; isqrtGo n b (if c * c ≤ n then c else r)

/-- The integer square root. -/
def isqrt (n : Nat) : Nat := isqrtGo n (n.log2 / 2 + 1) 0

/-! ## Fields -/

/-- [hi:lo] of a value as a number (R1). -/
def bits {n : Nat} (v : BitVec n) (hi lo : Nat) : Nat := (v.toNat >>> lo) % 2 ^ (hi + 1 - lo)
/-- One bit of a value (R1). -/
def bitAt {n : Nat} (v : BitVec n) (i : Nat) : Bool := v.getLsbD i
/-- Writes a number into [hi:lo] of a value. -/
def setBits {n : Nat} (v : BitVec n) (hi lo x : Nat) : BitVec n :=
  let m := (2 ^ (hi + 1 - lo) - 1) <<< lo
  (v &&& ~~~(BitVec.ofNat n m)) ||| BitVec.ofNat n ((x % 2 ^ (hi + 1 - lo)) <<< lo)

/-- sext(x, 64) (R5). -/
def sext64 {n : Nat} (v : BitVec n) : Word := v.signExtend 64
/-- zext(x, 64) (R5). -/
def zext64 {n : Nat} (v : BitVec n) : Word := v.setWidth 64

/-- A Boolean as a register value. -/
def ofBool (b : Bool) : Word := if b then 1 else 0

/-- Word j of a row register (R125). -/
def rowWord (r : Row) (j : Nat) : Word := r.extractLsb' (64 * j) 64
/-- Replaces word j of a row register. -/
def setRowWord (r : Row) (j : Nat) (w : Word) : Row := setBits r (64 * j + 63) (64 * j) w.toNat
/-- Byte b of a row (R2). -/
def rowByte (r : Row) (b : Nat) : Byte := r.extractLsb' (8 * b) 8
/-- A row of eight words, word 0 first. -/
def rowOfWords (ws : List Word) : Row :=
  BitVec.ofNat 512 ((ws.take 8).foldr (fun w a => a * 2 ^ 64 + w.toNat) 0)

/-- Lane i of width w of an accumulator row (R201). -/
def laneBits (r : VRow) (w i : Nat) : Nat := (r.toNat >>> (w * i)) % 2 ^ w
/-- A row from its lanes, lane 0 first; each is cut to w bits (R201). -/
def rowOfLanes (w : Nat) (ls : List Nat) : VRow :=
  BitVec.ofNat 4096 (ls.foldr (fun v a => a * 2 ^ w + v % 2 ^ w) 0)
/-- The eight scratchpad rows of an accumulator row, in order (R220, R269). -/
def vrowRows (v : VRow) : List Row := (List.range 8).map fun k => v.extractLsb' (512 * k) 512
/-- An accumulator row from eight scratchpad rows. -/
def rowsVRow (rs : List Row) : VRow :=
  BitVec.ofNat 4096 ((rs.take 8).foldr (fun r a => a * 2 ^ 512 + r.toNat) 0)

/-- A w-bit value read as two's complement. -/
def sgn (w v : Nat) : Int := if v % 2 ^ w < 2 ^ (w - 1) then (v % 2 ^ w : Nat) else ((v % 2 ^ w : Nat) : Int) - 2 ^ w
/-- wrap(x, n) as the n bits of the value (R5). -/
def wrapInt (n : Nat) (x : Int) : Nat := (x % (2 ^ n : Nat)).toNat
/-- sat(x, lo, hi) (R5). -/
def sat (x lo hi : Int) : Int := if x < lo then lo else if hi < x then hi else x

/-- ceil(a / b). -/
def ceilDiv (a b : Nat) : Nat := (a + b - 1) / b

/-! ## CRC-32C (R333) -/

/-- One bit of the reflected CRC with polynomial 0x82F63B78. -/
def crcBit (c : Nat) : Nat := if c % 2 = 1 then (c / 2) ^^^ 0x82F63B78 else c / 2
/-- One byte. -/
def crcByte (c : Nat) (b : Nat) : Nat :=
  crcBit (crcBit (crcBit (crcBit (crcBit (crcBit (crcBit (crcBit (c ^^^ b))))))))
/-- CRC-32C of a byte string: initial value and final exclusive-or 0xFFFF_FFFF. -/
def crc32c (bs : List Nat) : BitVec 32 := BitVec.ofNat 32 ((bs.foldl crcByte 0xFFFFFFFF) ^^^ 0xFFFFFFFF)

/-- The n low bytes of a value, lowest first (R2). -/
def leBytes (n v : Nat) : List Byte := (List.range n).map fun i => BitVec.ofNat 8 (v >>> (8 * i))

end Sys2Proof.Machine
end

