-- ==== Sys2Proof/Machine/Crypto.lean ====
section
/-! DEFINITION. The functions that verified boot names (R392, R393, R395): SHA-256 (FIPS 180-4) and ECDSA on the curve P-256 (FIPS 186), over bytes and
natural numbers. The spec names the two and the standards define them; how the header's fields stand in them is log entry 8. -/
namespace Sys2Proof.Machine

/-! ## SHA-256 -/

/-- The 64 round constants. -/
def shaK : List (BitVec 32) :=
  [0x428a2f98, 0x71374491, 0xb5c0fbcf, 0xe9b5dba5, 0x3956c25b, 0x59f111f1, 0x923f82a4, 0xab1c5ed5, 0xd807aa98, 0x12835b01, 0x243185be, 0x550c7dc3,
   0x72be5d74, 0x80deb1fe, 0x9bdc06a7, 0xc19bf174, 0xe49b69c1, 0xefbe4786, 0x0fc19dc6, 0x240ca1cc, 0x2de92c6f, 0x4a7484aa, 0x5cb0a9dc, 0x76f988da,
   0x983e5152, 0xa831c66d, 0xb00327c8, 0xbf597fc7, 0xc6e00bf3, 0xd5a79147, 0x06ca6351, 0x14292967] ++
  [0x27b70a85, 0x2e1b2138, 0x4d2c6dfc, 0x53380d13, 0x650a7354, 0x766a0abb, 0x81c2c92e, 0x92722c85, 0xa2bfe8a1, 0xa81a664b, 0xc24b8b70, 0xc76c51a3,
   0xd192e819, 0xd6990624, 0xf40e3585, 0x106aa070, 0x19a4c116, 0x1e376c08, 0x2748774c, 0x34b0bcb5, 0x391c0cb3, 0x4ed8aa4a, 0x5b9cca4f, 0x682e6ff3,
   0x748f82ee, 0x78a5636f, 0x84c87814, 0x8cc70208, 0x90befffa, 0xa4506ceb, 0xbef9a3f7, 0xc67178f2]
/-- The initial hash value. -/
def shaInit : List (BitVec 32) := [0x6a09e667, 0xbb67ae85, 0x3c6ef372, 0xa54ff53a, 0x510e527f, 0x9b05688c, 0x1f83d9ab, 0x5be0cd19]
/-- A number's bytes, most significant first. -/
def beBytes (n v : Nat) : List Byte := (leBytes n v).reverse
/-- The number that bytes are, the first the most significant. -/
def ofBeBytes (bs : List Byte) : Nat := bs.foldl (fun a b => a * 256 + b.toNat) 0
/-- The number that bytes are, the first the least significant. -/
def ofLeBytes (bs : List Byte) : Nat := ofBeBytes bs.reverse
/-- A message with its padding: a whole number of 64-byte blocks. -/
def shaPad (m : List Byte) : List Byte := m ++ 0x80 :: List.replicate ((119 - m.length % 64) % 64) 0 ++ beBytes 8 (8 * m.length)
/-- The message schedule from its last sixteen words, newest first: `n` further words before what stands. -/
def shaExpand : Nat → List (BitVec 32) → List (BitVec 32)
  | 0, w => w
  | n + 1, w =>
    let x (i : Nat) : BitVec 32 := w.getD (i - 1) 0
    let s0 (v : BitVec 32) : BitVec 32 := v.rotateRight 7 ^^^ v.rotateRight 18 ^^^ v >>> 3
    let s1 (v : BitVec 32) : BitVec 32 := v.rotateRight 17 ^^^ v.rotateRight 19 ^^^ v >>> 10
    shaExpand n ((s1 (x 2) + x 7 + s0 (x 15) + x 16) :: w)
/-- One round of the compression with the sum of its constant and its schedule word. -/
def shaRound (v : List (BitVec 32)) (kw : BitVec 32) : List (BitVec 32) :=
  match v with
  | [a, b, c, d, e, f, g, h] =>
    let t1 := h + (e.rotateRight 6 ^^^ e.rotateRight 11 ^^^ e.rotateRight 25) + ((e &&& f) ^^^ (~~~e &&& g)) + kw
    let t2 := (a.rotateRight 2 ^^^ a.rotateRight 13 ^^^ a.rotateRight 22) + ((a &&& b) ^^^ (a &&& c) ^^^ (b &&& c))
    [t1 + t2, a, b, c, d + t1, e, f, g]
  | _ => v
/-- The hash value after one block of 64 bytes. -/
def shaBlock (h : List (BitVec 32)) (block : List Byte) : List (BitVec 32) :=
  let w := (List.range 16).map fun i => BitVec.ofNat 32 (ofBeBytes ((block.drop (4 * i)).take 4))
  let ws := (shaExpand 48 w.reverse).reverse
  List.zipWith (· + ·) h ((List.zipWith (· + ·) shaK ws).foldl shaRound h)
/-- The hash value after `n` blocks. -/
def shaBlocks : Nat → List (BitVec 32) → List Byte → List (BitVec 32)
  | 0, h, _ => h
  | n + 1, h, m => shaBlocks n (shaBlock h (m.take 64)) (m.drop 64)
/-- SHA-256: the 32 bytes of a message's digest. -/
def shaBytes (m : List Byte) : List Byte :=
  let p := shaPad m
  (shaBlocks (p.length / 64) shaInit p).flatMap fun w => beBytes 4 w.toNat
/-- A digest as a register or a header field holds it: its first byte lowest (log entry 8). -/
def sha256 (m : List Byte) : BitVec 256 := BitVec.ofNat 256 (ofLeBytes (shaBytes m))

/-! ## ECDSA P-256 -/

def ecP : Nat := 0xffffffff00000001000000000000000000000000ffffffffffffffffffffffff
def ecN : Nat := 0xffffffff00000000ffffffffffffffffbce6faada7179e84f3b9cac2fc632551
def ecB : Nat := 0x5ac635d8aa3a93e7b3ebbd55769886bc651d06b0cc53b0f63bce3c3e27d2604b
def ecGx : Nat := 0x6b17d1f2e12c4247f8bce6e563a440f277037d812deb33a0f4a13945d898c296
def ecGy : Nat := 0x4fe342e2fe1a7f9b8ee7eb4a7c0f9e162bce33576b315ececbb6406837bf51f5
/-- b to the power e modulo m, with e below 2^n. -/
def powMod (m : Nat) : Nat → Nat → Nat → Nat
  | 0, _, _ => 1 % m
  | n + 1, b, e => let r := powMod m n (b * b % m) (e / 2); if e % 2 = 1 then r * b % m else r
/-- The inverse modulo a prime below 2^256. -/
def invMod (m a : Nat) : Nat := powMod m 256 (a % m) (m - 2)
/-- A point of the curve; none is the point at infinity. -/
abbrev EcPoint := Option (Nat × Nat)
/-- The sum of two points. -/
def ecAdd (p q : EcPoint) : EcPoint :=
  match p, q with
  | none, _ => q
  | _, none => p
  | some (x1, y1), some (x2, y2) =>
    if x1 = x2 && (y1 + y2) % ecP = 0 then none
    else
      let l := if x1 = x2 then (3 * x1 * x1 + (ecP - 3)) * invMod ecP (2 * y1) % ecP else (y2 + (ecP - y1)) * invMod ecP (x2 + (ecP - x1)) % ecP
      let x3 := (l * l + (ecP - x1) + (ecP - x2)) % ecP
      some (x3, (l * (x1 + (ecP - x3)) + (ecP - y1)) % ecP)
/-- k times a point, with k below 2^n. -/
def ecMul : Nat → Nat → EcPoint → EcPoint
  | 0, _, _ => none
  | n + 1, k, p => let r := ecMul n (k / 2) (ecAdd p p); if k % 2 = 1 then ecAdd r p else r
/-- Whether coordinates are those of a point of the curve. -/
def ecOn (x y : Nat) : Bool := x < ecP && y < ecP && y * y % ecP = (x * x * x + (ecP - 3) * x + ecB) % ecP
/-- ECDSA over SHA-256: whether a signature, r low and s high, verifies over a message under a public key, x low and y high (R392). -/
def ecdsaVerify (key : BitVec 512) (m : List Byte) (sig : BitVec 512) : Bool :=
  let qx := key.toNat % 2 ^ 256
  let qy := key.toNat / 2 ^ 256
  let r := sig.toNat % 2 ^ 256
  let s := sig.toNat / 2 ^ 256
  let e := ofBeBytes (shaBytes m)
  0 < r && r < ecN && 0 < s && s < ecN && ecOn qx qy
    && match ecAdd (ecMul 256 (e * invMod ecN s % ecN) (some (ecGx, ecGy))) (ecMul 256 (r * invMod ecN s % ecN) (some (qx, qy))) with
      | none => false
      | some p => p.1 % ecN = r
/-- The signature of a message under private key `d` with the secret number `k`, r low and s high. -/
def ecdsaSign (d k : Nat) (m : List Byte) : BitVec 512 :=
  let r := match ecMul 256 (k % ecN) (some (ecGx, ecGy)) with
    | none => 0
    | some p => p.1 % ecN
  BitVec.ofNat 512 (r + 2 ^ 256 * (invMod ecN k * (ofBeBytes (shaBytes m) + r * d) % ecN))
/-- The public key of a private one, x low and y high. -/
def ecPublic (d : Nat) : BitVec 512 :=
  match ecMul 256 (d % ecN) (some (ecGx, ecGy)) with
  | none => 0
  | some p => BitVec.ofNat 512 (p.1 + 2 ^ 256 * p.2)

end Sys2Proof.Machine
end

