-- ==== Sys2Proof/Machine/Flags.lean ====
section
/-! DEFINITION. The sticky flags and every rule that raises one (R45, R47). -/
namespace Sys2Proof.Machine

/-- Sticky flags in the order of R47: NV, DZ, OF, UF, NX, SAT at bits 0 to 5. -/
abbrev Flags := BitVec 6

/-- Invalid (R45). -/
def fNV : Flags := 1
/-- An exact infinity from a finite operand. -/
def fDZ : Flags := 2
/-- The rounded magnitude exceeded the largest finite value. -/
def fOF : Flags := 4
/-- Tiny and inexact. -/
def fUF : Flags := 8
/-- Inexact. -/
def fNX : Flags := 16
/-- A conversion saturated. -/
def fSAT : Flags := 32

/-- A flag raised when a condition holds. -/
def flagIf (c : Bool) (f : Flags) : Flags := if c then f else 0

/-- Flags of a floating-point result (R47): `beyond` the rounded magnitude exceeds the largest finite value, `inexact` the delivered result
differs, `tiny` the magnitude rounded with an unbounded exponent is below the smallest normal, `saturates` the format has no infinity. -/
def fpFlags (beyond inexact tiny saturates : Bool) : Flags :=
  flagIf beyond (fOF ||| fNX) ||| flagIf (beyond && saturates) fSAT ||| flagIf inexact fNX ||| flagIf (tiny && inexact) fUF

/-- Flags of a conversion to MXINT or a raw integer (R47): saturation sets SAT and NX, inexactness NX, never OF or UF. -/
def intFlags (saturated inexact : Bool) : Flags :=
  flagIf saturated (fSAT ||| fNX) ||| flagIf inexact fNX

end Sys2Proof.Machine
end

