-- ==== Sys2Proof/Machine/Fp.lean ====
section
/-! DEFINITION. Number formats, rounding, conversions and floating-point arithmetic (02_number_formats, R30 to R46). -/
namespace Sys2Proof.Machine

/-! ## Values -/

/-- A decoded number: NaN, infinity, or the finite value (-1)^neg · m · 2^e. -/
inductive FpNum where
  | nan
  | inf (neg : Bool)
  | fin (neg : Bool) (m : Nat) (e : Int)
  deriving DecidableEq, Repr, Inhabited

/-- A floating-point format (R30): exponent and fraction bits, bias, whether it has infinities and NaNs. -/
structure FFmt where
  ebits : Nat
  mbits : Nat
  bias : Nat
  hasInf : Bool
  hasNan : Bool
  deriving DecidableEq, Repr

def fp32 : FFmt := ⟨8, 23, 127, true, true⟩
def fp16 : FFmt := ⟨5, 10, 15, true, true⟩
def bf16 : FFmt := ⟨8, 7, 127, true, true⟩
def e4m3 : FFmt := ⟨4, 3, 7, false, true⟩
def e5m2 : FFmt := ⟨5, 2, 15, true, true⟩
def e2m3 : FFmt := ⟨2, 3, 1, false, false⟩
def e3m2 : FFmt := ⟨3, 2, 3, false, false⟩
def e2m1 : FFmt := ⟨2, 1, 1, false, false⟩

/-- The width of a format in bits. -/
def FFmt.width (f : FFmt) : Nat := 1 + f.ebits + f.mbits
/-- The largest biased exponent of a finite value: all ones is special where the format has infinities (R31). -/
def FFmt.maxE (f : FFmt) : Nat := if f.hasInf then 2 ^ f.ebits - 2 else 2 ^ f.ebits - 1
/-- emax (R30). -/
def FFmt.emax (f : FFmt) : Int := (f.maxE : Int) - f.bias
/-- The magnitude code of the largest finite value: E4M3 gives up its all-ones code to NaN (R31). -/
def FFmt.maxCode (f : FFmt) : Nat :=
  f.maxE * 2 ^ f.mbits + (2 ^ f.mbits - 1) - (if f.hasNan && !f.hasInf then 1 else 0)
/-- The canonical NaN (R31); a format without NaN never asks for it. -/
def FFmt.canon (f : FFmt) : Nat :=
  if f.hasInf then (2 ^ f.ebits - 1) * 2 ^ f.mbits + 2 ^ (f.mbits - 1)
  else if f.hasNan then 2 ^ (f.ebits + f.mbits) - 1 else 0
/-- The code of an infinity. -/
def FFmt.infCode (f : FFmt) : Nat := (2 ^ f.ebits - 1) * 2 ^ f.mbits

/-- The value of a code (R30, R31). -/
def FFmt.decode (f : FFmt) (code : Nat) : FpNum :=
  let neg := (code >>> (f.ebits + f.mbits)) % 2 = 1
  let e := (code >>> f.mbits) % 2 ^ f.ebits
  let m := code % 2 ^ f.mbits
  if f.hasInf && e == 2 ^ f.ebits - 1 then (if m = 0 then .inf neg else .nan)
  else if f.hasNan && !f.hasInf && e == 2 ^ f.ebits - 1 && m == 2 ^ f.mbits - 1 then .nan
  else if e = 0 then .fin neg m (1 - (f.bias : Int) - f.mbits)
  else .fin neg (m + 2 ^ f.mbits) ((e : Int) - f.bias - f.mbits)

/-! ## Rounding (R36, R37) -/

/-- Whether a magnitude cut to an integer is raised by one: rounding mode, sign, oddness, and the remainder against one half
(`half` the first discarded bit, `rest` whether anything nonzero follows). -/
def roundUp (rm : BitVec 2) (neg odd half rest : Bool) : Bool :=
  match rm.toNat with
  | 0 => half && (rest || odd)
  | 1 => false
  | 2 => neg && (half || rest)
  | _ => !neg && (half || rest)

/-- m·2^e (plus a nonzero rest below, when `sticky`) rounded to a multiple of 2^q: the multiple, and whether it is inexact. -/
def roundAt (rm : BitVec 2) (neg : Bool) (m : Nat) (e q : Int) (sticky : Bool) : Nat × Bool :=
  if q ≤ e then (m <<< (e - q).toNat, sticky)
  else
    let s := (q - e).toNat
    let k := m >>> s
    let half := (m >>> (s - 1)) % 2 = 1
    let rest := sticky || m % 2 ^ (s - 1) != 0
    (if roundUp rm neg (k % 2 = 1) half rest then k + 1 else k, half || rest)

/-- The exponent of the leading bit of m·2^e, for m ≠ 0 (R5 floor_log2). -/
def topExp (m : Nat) (e : Int) : Int := (m.log2 : Int) + e

/-- Rounds the exact (-1)^neg·m·2^e, plus a nonzero rest when `sticky`, to a format: code and flags (R37, R47). Directed rounding of an
overflow in a format with infinities follows IEEE 754: toward zero from the infinity's side gives the largest finite value. -/
def FFmt.round (f : FFmt) (rm : BitVec 2) (neg : Bool) (m : Nat) (e : Int) (sticky : Bool) : Nat × Flags :=
  let sgnBit := if neg then 2 ^ (f.ebits + f.mbits) else 0
  if m = 0 && !sticky then (sgnBit, 0)
  else
    let emin : Int := 1 - f.bias
    let t := if m = 0 then emin - 1 else topExp m e
    let q := (if t < emin then emin else t) - f.mbits
    let r := roundAt rm neg m e q sticky
    -- tiny: rounded to full precision with an unbounded exponent, the magnitude stays below the smallest normal
    let u := roundAt rm neg m e (t - f.mbits) sticky
    let tiny := m = 0 || (t < emin && !(t = emin - 1 && u.1 = 2 ^ (f.mbits + 1)))
    -- code of the multiple r.1 of 2^q: adding the fraction to the exponent field carries as needed
    let code := if t < emin then r.1 else ((t + f.bias).toNat - 1) * 2 ^ f.mbits + r.1
    if f.maxCode < code then
      if f.hasInf then
        let toInf := rm = 0 || (rm = 3 && !neg) || (rm = 2 && neg)
        (sgnBit + (if toInf then f.infCode else f.maxCode), fpFlags true true false false)
      else (sgnBit + f.maxCode, fpFlags true true false true)
    else (sgnBit + code, fpFlags false r.2 tiny false)

/-- Converts a value to an unscaled floating-point format (R37): NaN canonical; infinities kept, or saturated with NV and SAT in E4M3. DESIGN CHOICE
(log entry 71): R37 gives E2M3, E3M2 and E2M1 in a block only; unscaled, a NaN gives 0 with NV and an infinity saturates as in E4M3. -/
def FFmt.ofNum (f : FFmt) (rm : BitVec 2) : FpNum → Nat × Flags
  | .nan => if f.hasNan then (f.canon, 0) else (0, fNV)
  | .inf neg =>
    let s := if neg then 2 ^ (f.ebits + f.mbits) else 0
    if f.hasInf then (s + f.infCode, 0) else (s + f.maxCode, fNV ||| fSAT)
  | .fin neg m e => f.round rm neg m e false

/-- An integer in the range [lo, hi] from a value (R37, R47): NaN gives 0 with NV, infinities the nearest end with NV and SAT. DESIGN CHOICE (log entry
71): so does an MXINT outside a block, which R37 does not give. -/
def intOfNum (rm : BitVec 2) (lo hi : Int) : FpNum → Int × Flags
  | .nan => (0, fNV)
  | .inf neg => (if neg then lo else hi, fNV ||| fSAT)
  | .fin neg m e =>
    let r := roundAt rm neg m e 0 false
    let v : Int := if neg then -(r.1 : Int) else r.1
    if v < lo then (lo, intFlags true false) else if hi < v then (hi, intFlags true false) else (v, intFlags false r.2)

/-- An integer as a value; zero is +0. -/
def FpNum.ofInt (v : Int) : FpNum := .fin (v < 0) v.natAbs 0

/-- Multiplies by 2^k exactly. -/
def FpNum.scale (k : Int) : FpNum → FpNum
  | .fin n m e => .fin n m (e + k)
  | x => x

/-! ## Arithmetic (R43 to R45); every result is rounded once with RNE -/

/-- A sum of finite values exactly; under RNE the sum of opposite zeros and x - x is +0 (R44). -/
def finAdd (n1 : Bool) (m1 : Nat) (e1 : Int) (n2 : Bool) (m2 : Nat) (e2 : Int) : FpNum :=
  let e := if e1 < e2 then e1 else e2
  let a : Int := (if n1 then -1 else 1) * ((m1 <<< (e1 - e).toNat : Nat) : Int)
  let b : Int := (if n2 then -1 else 1) * ((m2 <<< (e2 - e).toNat : Nat) : Int)
  let s := a + b
  if s = 0 then .fin (n1 && n2) 0 0 else .fin (s < 0) s.natAbs e

/-- x + y exactly, with NV for infinities of opposite signs (R45). -/
def FpNum.add : FpNum → FpNum → FpNum × Flags
  | .nan, _ => (.nan, 0)
  | _, .nan => (.nan, 0)
  | .inf a, .inf b => if a = b then (.inf a, 0) else (.nan, fNV)
  | .inf a, _ => (.inf a, 0)
  | _, .inf b => (.inf b, 0)
  | .fin n1 m1 e1, .fin n2 m2 e2 => (finAdd n1 m1 e1 n2 m2 e2, 0)

/-- -x. -/
def FpNum.neg : FpNum → FpNum
  | .nan => .nan
  | .inf a => .inf (!a)
  | .fin n m e => .fin (!n) m e

/-- x · y exactly, with NV for 0 × ∞ (R45). -/
def FpNum.mul : FpNum → FpNum → FpNum × Flags
  | .nan, _ => (.nan, 0)
  | _, .nan => (.nan, 0)
  | .inf a, .inf b => (.inf (a != b), 0)
  | .inf a, .fin n m _ => if m = 0 then (.nan, fNV) else (.inf (a != n), 0)
  | .fin n m _, .inf b => if m = 0 then (.nan, fNV) else (.inf (n != b), 0)
  | .fin n1 m1 e1, .fin n2 m2 e2 => (.fin (n1 != n2) (m1 * m2) (e1 + e2), 0)

/-- a · b + c exactly; 0 × ∞ is invalid even when the addend is NaN (R45). -/
def FpNum.fma (a b c : FpNum) : FpNum × Flags :=
  let p := a.mul b
  let s := p.1.add c
  (s.1, p.2 ||| s.2)

/-- x < y for numbers that are not NaN; `zeros` orders -0 below +0 (R44). -/
def FpNum.lt (zeros : Bool) : FpNum → FpNum → Bool
  | .inf a, .inf b => a && !b
  | .inf a, .fin _ _ _ => a
  | .fin _ _ _, .inf b => !b
  | .fin n1 m1 e1, .fin n2 m2 e2 =>
    if m1 = 0 && m2 = 0 then zeros && n1 && !n2
    else
      let e := if e1 < e2 then e1 else e2
      let a : Int := (if n1 then -1 else 1) * ((m1 <<< (e1 - e).toNat : Nat) : Int)
      let b : Int := (if n2 then -1 else 1) * ((m2 <<< (e2 - e).toNat : Nat) : Int)
      a < b
  | _, _ => false

/-- Whether a value is NaN. -/
def FpNum.isNan : FpNum → Bool
  | .nan => true
  | _ => false

/-- The lesser or greater of two values: NaN when either is NaN, and -0 below +0 (R44). -/
def FpNum.minMax (isMax : Bool) (a b : FpNum) : FpNum :=
  if a.isNan || b.isNan then .nan
  else if isMax then (if a.lt true b then b else a) else (if b.lt true a then b else a)

/-- A value rounded once with RNE to a format that has NaNs: code and flags. -/
def FFmt.rne (f : FFmt) (v : FpNum) : Nat × Flags := f.ofNum 0 v

/-- A result in a format: flags of the exact operation and of its one rounding. -/
def FFmt.result (f : FFmt) (r : FpNum × Flags) : Nat × Flags :=
  let c := f.rne r.1
  (c.1, r.2 ||| c.2)

/-! ## Special functions (R210) -/

/-- 1/x correctly rounded: a quotient with 64 extra bits and a sticky rest. -/
def recip (f : FFmt) : FpNum → Nat × Flags
  | .nan => (f.canon, 0)
  | .inf n => (if n then 2 ^ (f.ebits + f.mbits) else 0, 0)
  | .fin n m e =>
    if m = 0 then ((if n then 2 ^ (f.ebits + f.mbits) else 0) + f.infCode, fDZ)
    else
      let k := m.log2 + 64
      f.round 0 n (2 ^ k / m) (-e - k) (2 ^ k % m != 0)

/-- √x correctly rounded. -/
def sqrtNum (f : FFmt) : FpNum → Nat × Flags
  | .nan => (f.canon, 0)
  | .inf n => if n then (f.canon, fNV) else (f.infCode, 0)
  | .fin n m e =>
    if m = 0 then (if n then 2 ^ (f.ebits + f.mbits) else 0, 0)
    else if n then (f.canon, fNV)
    else
      let m2 := if e % 2 = 0 then m else 2 * m
      let e2 := if e % 2 = 0 then e else e - 1
      let big := m2 <<< 128
      let r := isqrt big
      f.round 0 false r (e2 / 2 - 64) (r * r != big)

/-- Fixed point with 256 fraction bits, so many that no result lies nearer to a code or to the middle of two than the working tells apart. -/
def fxOne : Nat := 2 ^ 256
/-- ln 2 in fixed point, cut. -/
def fxLn2 : Nat := 80260960185991308862233904206310070533990667611589946606122867505419956976171
/-- e^t for 0 ≤ t < 1 in fixed point: Σ t^k/k! by Horner's rule over `n` terms, cut. -/
def fxExp (t : Nat) : Nat → Nat
  | 0 => fxOne
  | n + 1 => fxExpGo t (n + 1) fxOne
where
  fxExpGo (t : Nat) : Nat → Nat → Nat
    | 0, a => a
    | k + 1, a => fxExpGo t k (fxOne + t * a / fxOne / (k + 1))
/-- 2^(k/2^256) for 0 ≤ k < 2^256, in fixed point. -/
def fxExp2 (k : Nat) : Nat := fxExp (k * fxLn2 / fxOne) 64
/-- The fraction bits of log2 x for 1 ≤ x < 2 in fixed point: `n` bits by repeated squaring. -/
def fxLog2 (x : Nat) : Nat → Nat → Nat
  | 0, acc => acc
  | n + 1, acc =>
    let y := x * x / fxOne
    if 2 * fxOne ≤ y then fxLog2 (y / 2) n (2 * acc + 1) else fxLog2 y n (2 * acc)

/-- How far v·2^e may lie from the exact result that it stands for, in units of 2^e. -/
def fxSlack (v : Int) : Nat := v.natAbs / 2 ^ 200 + 2 ^ 12
/-- The FP32 code that a function answers within a bound of `n`·2^q around the exact result, near v·2^e: a free code if it lies within the bound, else the
rounded result (R210, log entry 7). A code so near to the edge of the bound that the working does not tell its side counts as outside. -/
def nearCode (fn : Nat) (x : BitVec 32) (v e : Int) (n : Nat) (q : Int) : Nat :=
  let rounded := (fp32.ofNum 0 (.fin (v < 0) v.natAbs e)).1
  let c := Config.freeSpecial fn x % 2 ^ 32
  match fp32.decode c with
  | .fin s m k =>
    let low := min e (min k q)
    let scale (a p : Int) : Int := a * 2 ^ (p - low).toNat
    let a := scale (if s then -(m : Int) else m) k
    let slack := scale n q - scale (fxSlack v) e
    if (m ≠ 0 || s = decide (v < 0)) && scale v e - slack ≤ a && a ≤ scale v e + slack then c else rounded
  | _ => rounded
/-- As `nearCode`, within `n` units in the last place of the exact result. -/
def nearUlps (fn : Nat) (x : BitVec 32) (v e : Int) (n : Nat) : Nat := nearCode fn x v e n (max (topExp (v.natAbs - fxSlack v) e - 23) (-149))

/-- The flags of a finite result that R210 does not list as exact: NX, and UF when the exact result, near v·2^e, is tiny: rounded to 24 bits of an
unbounded exponent range it lies below 2^-126 (R47). -/
def specialFlags (v e : Int) : Flags :=
  let m := v.natAbs
  let t := topExp m e
  fNX ||| flagIf (t < -126 && !(t = -127 && (roundAt 0 false m e (t - 23) true).1 = 2 ^ 24)) fUF

/-- VRSQ on FP32 (R210). -/
def rsqFp32 (x : BitVec 32) : Nat × Flags :=
  match fp32.decode x.toNat with
  | .nan => (fp32.canon, 0)
  | .inf n => if n then (fp32.canon, fNV) else (0, 0)
  | .fin n m e =>
    if m = 0 then ((if n then 2 ^ 31 else 0) + fp32.infCode, fDZ)
    else if n then (fp32.canon, fNV)
    else if m = 2 ^ m.log2 && (e + m.log2) % 2 = 0 then fp32.round 0 false 1 (-((e + m.log2) / 2)) false
    else
      let m2 := if e % 2 = 0 then m else 2 * m
      let e2 := if e % 2 = 0 then e else e - 1
      let r := isqrt (2 ^ 400 / m2)
      let c := nearUlps 0 x r (-(e2 / 2) - 200) 1
      (c, specialFlags r (-(e2 / 2) - 200))

/-- VEXP2 on FP32 (R210). -/
def exp2Fp32 (x : BitVec 32) : Nat × Flags :=
  match fp32.decode x.toNat with
  | .nan => (fp32.canon, 0)
  | .inf n => if n then (0, 0) else (fp32.infCode, 0)
  | .fin n m e =>
    if m = 0 then (0x3F800000, 0)
    else
      -- the value in fixed point
      let a : Int := (if n then -1 else 1) * ((m <<< (e + 256).toNat : Nat) : Int)
      let k := a / (fxOne : Int)
      let fr := (a % (fxOne : Int)).toNat
      if 128 ≤ k then (fp32.infCode, fOF ||| fNX)
      else if k < -150 || (k = -150 && fr = 0) then (0, fUF ||| fNX)
      else if fr = 0 then fp32.round 0 false 1 k false
      else
        let c := nearUlps 1 x (fxExp2 fr) (k - 256) 2
        (c, specialFlags (fxExp2 fr) (k - 256))

/-- VLOG2 on FP32 (R210): the bound is 2 ulps, or 2^-22 absolute for x in [0.5, 2]. -/
def log2Fp32 (x : BitVec 32) : Nat × Flags :=
  match fp32.decode x.toNat with
  | .nan => (fp32.canon, 0)
  | .inf n => if n then (fp32.canon, fNV) else (fp32.infCode, 0)
  | .fin n m e =>
    if m = 0 then (2 ^ 31 + fp32.infCode, fDZ)
    else if n then (fp32.canon, fNV)
    else
      let k := topExp m e
      let fr := fxLog2 (m * fxOne / 2 ^ m.log2) 160 0
      if m = 2 ^ m.log2 then fp32.ofNum 0 (FpNum.ofInt k)
      else
        let v : Int := k * 2 ^ 160 + fr
        let c := if -1 ≤ k && k < 1 then nearCode 2 x v (-160) 1 (-22) else nearUlps 2 x v (-160) 2
        (c, specialFlags v (-160))

/-- VTANH on FP32 (R210): tanh |x| = (1 - t)/(1 + t) with t = 2^(-2|x|/ln 2). -/
def tanhFp32 (x : BitVec 32) : Nat × Flags :=
  let s := (if x.msb then 2 ^ 31 else 0 : Nat)
  match fp32.decode x.toNat with
  | .nan => (fp32.canon, 0)
  | .inf _ => (s + 0x3F800000, 0)
  | .fin _ m e =>
    if m = 0 then (s, 0)
    else if (FpNum.fin false m e).lt false (.fin false 1 (-12)) then (x.toNat, 0)
    else if !((FpNum.fin false m e).lt false (.fin false 10 0)) then (s + 0x3F800000, 0)
    else
      let u := 2 * (m <<< (e + 256).toNat) * fxOne / fxLn2
      let t := fxExp2 (fxOne - 1 - u % fxOne) >>> (u / fxOne + 1)
      let v := (fxOne - t) * fxOne / (fxOne + t)
      let c := nearUlps 3 x (if x.msb then -(v : Int) else v) (-256) 2
      (c, specialFlags v (-256))

/-- VSIGM on FP32 (R210): 1/(1 + e^-x). -/
def sigmFp32 (x : BitVec 32) : Nat × Flags :=
  match fp32.decode x.toNat with
  | .nan => (fp32.canon, 0)
  | .inf n => (if n then 0 else 0x3F800000, 0)
  | .fin n m e =>
    if m = 0 then (0x3F000000, 0)
    else if !n && !((FpNum.fin false m e).lt false (.fin false 18 0)) then (0x3F800000, 0)
    else if n && !((FpNum.fin false m e).lt false (.fin false 104 0)) then (0, 0)
    else
      let u := (m <<< (e + 256).toNat) * fxOne / fxLn2
      -- t = e^-|x| with 256 more bits kept below, so that small results keep their precision
      let t := (fxExp2 (fxOne - 1 - u % fxOne) <<< 256) >>> (u / fxOne + 1)
      let one := fxOne <<< 256
      let v := if n then t * one / (one + t) else one * one / (one + t)
      let c := nearUlps 4 x v (-512) 2
      (c, specialFlags v (-512))

/-! ## Elements, blocks and scales (R32 to R40, R54) -/

/-- What an element code holds. -/
inductive Elem where
  | raw
  | float (f : FFmt)
  | mxint (w : Nat)
  | sint (w : Nat)
  | uint (w : Nat)
  | reserved
  deriving DecidableEq, Repr

/-- The format codes of R54. -/
def elemOf (fmt : Nat) : Elem :=
  match fmt with
  | 0x00 => .raw
  | 0x01 => .float fp32 | 0x02 => .float fp16 | 0x03 => .float bf16 | 0x04 => .float e4m3 | 0x05 => .float e5m2
  | 0x06 => .float e2m3 | 0x07 => .float e3m2 | 0x08 => .float e2m1
  | 0x09 => .mxint 2 | 0x0A => .mxint 4 | 0x0B => .mxint 6 | 0x0C => .mxint 8 | 0x0D => .mxint 12 | 0x0E => .mxint 16
  | 0x0F => .sint 8 | 0x10 => .uint 8 | 0x11 => .sint 16 | 0x12 => .uint 16 | 0x13 => .sint 32 | 0x14 => .uint 32
  | _ => .reserved

/-- The container of R54 in bits. -/
def container (fmt : Nat) : Nat :=
  match fmt with
  | 0x01 => 32 | 0x02 => 16 | 0x03 => 16 | 0x08 => 4 | 0x09 => 2 | 0x0A => 4 | 0x0D => 16 | 0x0E => 16
  | 0x11 => 16 | 0x12 => 16 | 0x13 => 32 | 0x14 => 32 | _ => 8

/-- The width of an element's own code. -/
def elemWidth (fmt : Nat) : Nat :=
  match elemOf fmt with
  | .float f => f.width
  | .mxint w => w
  | .sint w => w
  | .uint w => w
  | _ => 8

/-- The width w of an MXINT code, 0 for any other (R34). -/
def mxWidth (fmt : Nat) : Nat := match elemOf fmt with | .mxint w => w | _ => 0

/-- The block length of a BLK code (R53). -/
def blkLen (blk : Nat) : Nat := 8 <<< blk

/-- emax of a scaled element format; 0 for the MXINT family (R30, R34). -/
def elemEmax (fmt : Nat) : Int := match elemOf fmt with | .float f => f.emax | _ => 0

/-- The value of an element's code with X = 1 (R30, R34, R35). -/
def elemNum (fmt code : Nat) : FpNum :=
  match elemOf fmt with
  | .float f => f.decode (code % 2 ^ f.width)
  | .mxint w => let v := sgn w code; .fin (v < 0) v.natAbs (2 - (w : Int))
  | .sint w => FpNum.ofInt (sgn w code)
  | .uint w => FpNum.ofInt (code % 2 ^ w : Nat)
  | _ => FpNum.ofInt (code % 256 : Nat)

/-- The value of an element under an E8M0 scale byte (R32); `none` is no scale. -/
def scaledNum (fmt code : Nat) : Option Nat → FpNum
  | none => elemNum fmt code
  | some e => if e = 0xFF then .nan else (elemNum fmt code).scale ((e : Int) - 127)

/-- A value rounded into an element's own code, by R37; the value is already divided by the block's scale. -/
def encodeElem (fmt : Nat) (rm : BitVec 2) (v : FpNum) : Nat × Flags :=
  match elemOf fmt with
  | .float f => f.ofNum rm v
  | .mxint w =>
    let r := intOfNum rm (-(2 ^ (w - 1) - 1)) (2 ^ (w - 1) - 1) (v.scale ((w : Int) - 2))
    (wrapInt w r.1, r.2)
  | .sint w => let r := intOfNum rm (-(2 ^ (w - 1))) (2 ^ (w - 1) - 1) v; (wrapInt w r.1, r.2)
  | .uint w => let r := intOfNum rm 0 (2 ^ w - 1) v; (wrapInt w r.1, r.2)
  | _ => (0, 0)

/-- The container bits of an element code: bits [7:6] of a 6-bit element's byte are its sign extension for MXINT6 and zero otherwise (R55). DESIGN CHOICE (log entry 76): of the upper four bits of an MXINT12 element's 16-bit container the spec says nothing for the
image it writes (R54, R217); they are written as zeros, and reads ignore them. -/
def containerBits (fmt code : Nat) : Nat :=
  if fmt = 0x0B then wrapInt 8 (sgn 6 code) else code % 2 ^ elemWidth fmt

/-- Whether an element format lacks infinities (R39). -/
def noInf (fmt : Nat) : Bool := match elemOf fmt with | .float f => !f.hasInf | _ => true

/-- Compares the magnitudes of finite values. -/
def magLt (m1 : Nat) (e1 : Int) (m2 : Nat) (e2 : Int) : Bool :=
  (FpNum.fin false m1 e1).lt false (.fin false m2 e2)

/-- The largest magnitude among finite values (R39). -/
def amax : List FpNum → Nat × Int
  | [] => (0, 0)
  | .fin _ m e :: rest => let r := amax rest; if magLt r.1 r.2 m e then (m, e) else r
  | _ :: rest => amax rest

/-- The shared exponent of a block and its elements (R39): scale byte, codes, flags. -/
def encodeBlock (fmt : Nat) (rm : BitVec 2) (vs : List FpNum) : Nat × List Nat × Flags :=
  let bad := vs.any fun v => match v with
    | .nan => true
    | .inf _ => noInf fmt
    | _ => false
  if bad then (0xFF, vs.map fun _ => 0, fNV)
  else
    let a := amax vs
    let scale := if a.1 = 0 then 0 else (sat (topExp a.1 a.2 - elemEmax fmt) (-127) 127 + 127).toNat
    let es := vs.map fun v => encodeElem fmt rm (v.scale (127 - (scale : Int)))
    (scale, es.map (·.1), es.foldl (fun f e => f ||| e.2) 0)

/-- Reading fewer bit planes (R40): the top p of w planes as a two's-complement integer. -/
def planeRead (w p code : Nat) : Int := sgn w code / 2 ^ (w - p)

/-- One segment of a matrix sum (R42): the exact integer d times 2^e added to an FP32 accumulator with one rounding. -/
def accSegment (acc : Nat) (nanScale : Bool) (d e : Int) : Nat × Flags :=
  if nanScale then (fp32.canon, 0)
  else
    let t : FpNum := .fin (d < 0) d.natAbs e
    let t := if d = 0 then .fin false 0 0 else t
    fp32.result ((fp32.decode acc).add t)

end Sys2Proof.Machine
end

