-- ==== Sys2Proof/Machine/Mem.lean ====
section
/-! DEFINITION. Memory by byte in one canonical form, its keys, address checks and translation (R48 to R51, R62, R75, R371 to R373, R405). -/
namespace Sys2Proof.Machine

/-! ## Bytes: addresses strictly rising, no listed byte zero (log entry 2: an unlisted byte reads as 0) -/

/-- What an unlisted address reads as (log entry 2). -/
def memDefault : Byte := 0

/-- The canonical form: addresses strictly rising above `lo`, no entry equal to the default. -/
def Mem.wfFrom (lo : Nat) : List Host.Cell → Bool
  | [] => true
  | (a, b) :: rest => lo ≤ a && b != memDefault && Mem.wfFrom (a + 1) rest

/-- The canonical form of a memory. -/
def Mem.wf (m : List Host.Cell) : Bool := Mem.wfFrom 0 m

/-- One byte. -/
def Mem.read : List Host.Cell → Nat → Byte
  | [], _ => memDefault
  | (a, b) :: rest, n => if a = n then b else if n < a then memDefault else Mem.read rest n

/-- Writes one byte; the default byte removes its entry. -/
def Mem.write : List Host.Cell → Nat → Byte → List Host.Cell
  | [], n, v => if v = memDefault then [] else [(n, v)]
  | (a, b) :: rest, n, v =>
    if n < a then (if v = memDefault then (a, b) :: rest else (n, v) :: (a, b) :: rest)
    else if n = a then (if v = memDefault then rest else (n, v) :: rest)
    else (a, b) :: Mem.write rest n v

/-- The `n` bytes from an address as a number, lowest address in the low bits (R2). -/
def Mem.readN (m : List Host.Cell) (a : Nat) : Nat → Nat
  | 0 => 0
  | n + 1 => (Mem.read m a).toNat + 256 * Mem.readN m (a + 1) n

/-- Writes `n` bytes from an address (R2). -/
def Mem.writeN (m : List Host.Cell) (a : Nat) (v : Nat) : Nat → List Host.Cell
  | 0 => m
  | n + 1 => Mem.writeN (Mem.write m a (BitVec.ofNat 8 v)) (a + 1) (v / 256) n

/-- A row of 64 bytes (R51). -/
def Mem.row (m : List Host.Cell) (a : Nat) : Row := BitVec.ofNat 512 (Mem.readN m a 64)
/-- Writes a row (R51). -/
def Mem.setRow (m : List Host.Cell) (a : Nat) (r : Row) : List Host.Cell := Mem.writeN m a r.toNat 64
/-- A 64-bit word (R371). -/
def Mem.word (m : List Host.Cell) (a : Nat) : Word := BitVec.ofNat 64 (Mem.readN m a 8)

/-- Zeroes the bytes of a range by dropping their entries. -/
def Mem.clear (m : List Host.Cell) (a n : Nat) : List Host.Cell := m.filter fun c => c.1 < a || a + n ≤ c.1

/-! ## Keys: S-space addresses are their own keys; the other memories lie above -/

/-- Key of an HBM physical address (R405). -/
def keyHbm (pa : Nat) : Nat := 2 ^ 40 + pa
/-- Key of a host physical address (R75). -/
def keyHost (pa : Nat) : Nat := 2 ^ 60 + pa
/-- Key of an address in a peer package's context (R76, R284). -/
def keyPeer (pkg ctx va : Nat) : Nat := 2 ^ 80 + (pkg * 256 + ctx) * 2 ^ 56 + va
/-- Whether a key names a scratchpad byte. -/
def keyIsS (k : Nat) : Bool := k < 2 ^ 31
/-- The tile that owns a scratchpad key (R7, R48). -/
def keyTile (k : Nat) : TileNo := BitVec.ofNat 8 (k >>> 23)
/-- The offset in its tile of a scratchpad key. -/
def keyOff (k : Nat) : Nat := k % 2 ^ 23
/-- The S-space address of an offset in a tile (R48). -/
def tileKey (t : TileNo) (off : Nat) : Nat := t.toNat * 2 ^ 23 + off % 2 ^ 23
/-- row(a) (R5). -/
def rowOf (a : Nat) : Nat := a - a % 64
/-- The die of a tile (R7). -/
def dieOf (t : TileNo) : Nat := t.toNat / 64
/-- The global cluster number of a tile (R7). -/
def clusterOf (t : TileNo) : Nat := t.toNat / 8
/-- The rank of a tile in its cluster (R7). -/
def rankOf (t : TileNo) : Nat := t.toNat % 8
/-- The tile of a cluster at a rank. -/
def tileAt (cluster rank : Nat) : TileNo := BitVec.ofNat 8 (cluster * 8 + rank % 8)

/-! ## Tiles, partitions, fences -/

/-- A tile; one that nothing has touched is as after reset. -/
def State.tile (s : State) (t : TileNo) : Tile := Map.get {} s.tiles t.toNat
/-- Replaces a tile. -/
def State.setTile (s : State) (t : TileNo) (v : Tile) : State := { s with tiles := Map.set s.tiles t.toNat v }
/-- Changes a tile. -/
def State.modTile (s : State) (t : TileNo) (f : Tile → Tile) : State := s.setTile t (f (s.tile t))

/-- Changes a unit of a tile, resident there or saved from there. -/
def State.modUnitOf (s : State) (t : TileNo) (l i : Nat) (f : UnitRes → UnitRes) : State :=
  { s.modTile t (fun u => { u with unit := u.unit.map fun r => if r.launch = l && r.idx = i then f r else r }) with
    saved := s.saved.map fun (x : Saved) => if x.tileNo = t && x.launch = l && x.idx = i then { x with tile := { x.tile with unit := x.tile.unit.map f } } else x }

/-- The tile of a unit, resident there or saved from there. -/
def State.unitTile (s : State) (t : TileNo) (l i : Nat) : Option Tile :=
  if (s.tile t).unit.any fun r => r.launch = l && r.idx = i then some (s.tile t)
  else (s.saved.find? fun x => x.tileNo = t && x.launch = l && x.idx = i).map Saved.tile
/-- Changes the tile of a unit, resident there or saved from there. -/
def State.modTileOf (s : State) (t : TileNo) (l i : Nat) (f : Tile → Tile) : State :=
  if (s.tile t).unit.any fun r => r.launch = l && r.idx = i then s.modTile t f
  else { s with saved := s.saved.map fun (x : Saved) => if x.tileNo = t && x.launch = l && x.idx = i then { x with tile := f x.tile } else x }

/-- A partition. -/
def State.part (s : State) (p : Nat) : Part := Map.get {} s.parts p
/-- Changes a partition. -/
def State.modPart (s : State) (p : Nat) (f : Part → Part) : State := { s with parts := Map.set s.parts p (f (s.part p)) }
/-- The partition that owns a tile's cluster (R327). -/
def State.partOf (s : State) (t : TileNo) : Option Nat :=
  findFrom (fun p => (s.part p).formed && (s.part p).clusters.getLsbD (clusterOf t)) 0 8
/-- R8: a fenced tile. -/
def State.isFenced (s : State) (t : TileNo) : Bool := s.fenced.contains t

/-- Fault codes (R361). -/
def cILLEGAL_LINE : BitVec 16 := 0x0001
def cILLEGAL_OPCODE : BitVec 16 := 0x0002
def cILLEGAL_STREAM : BitVec 16 := 0x0003
def cPRIVILEGE : BitVec 16 := 0x0004
def cILLEGAL_ENCODING : BitVec 16 := 0x0005
def cILLEGAL_USE : BitVec 16 := 0x0006
def cBRANCH_TO_HEADER : BitVec 16 := 0x0007
def cBRANCH_TO_LITERAL : BitVec 16 := 0x0008
def cBRANCH_TO_FOREIGN : BitVec 16 := 0x0009
def cUSER_TRAP : BitVec 16 := 0x000A
def cBREAKPOINT : BitVec 16 := 0x000B
def cDOUBLE_FAULT : BitVec 16 := 0x000C
def cENTRY : BitVec 16 := 0x000D
def cSPACE_RESERVED : BitVec 16 := 0x0010
def cTILE_FENCED : BitVec 16 := 0x0011
def cPARTITION : BitVec 16 := 0x0012
def cTRANSLATION : BitVec 16 := 0x0013
def cHANDLE_INVALID : BitVec 16 := 0x0014
def cHANDLE_RANGE : BitVec 16 := 0x0015
def cCB_RANGE : BitVec 16 := 0x0016
def cWINDOW_RANGE : BitVec 16 := 0x0017
def cWINDOW_INVALID : BitVec 16 := 0x0018
def cWINDOW_PERM : BitVec 16 := 0x0019
def cWINDOW_LIMIT : BitVec 16 := 0x001A
def cREMOTE_ERROR : BitVec 16 := 0x001B
def cCHANNEL_POISONED : BitVec 16 := 0x001C
def cMEM_UNCORRECTABLE : BitVec 16 := 0x001D
def cBAD_RECORD : BitVec 16 := 0x001E
def cFORMAT_MISMATCH : BitVec 16 := 0x001F
def cBADPARAM : BitVec 16 := 0x0020
def cEXTENT : BitVec 16 := 0x0021
def cINDEX_RANGE : BitVec 16 := 0x0022
def cTASK_SOFT : BitVec 16 := 0x0023
def cTASK_ABANDONED : BitVec 16 := 0x0024
def cSTARVED : BitVec 16 := 0x0025
def cGROUP_LOST : BitVec 16 := 0x0026
def cABORTED : BitVec 16 := 0x0027
def cCANCEL_DEP : BitVec 16 := 0x0030
def cCANCEL_POISON : BitVec 16 := 0x0031
def cCANCEL_LEVEL : BitVec 16 := 0x0032
def cCFG_INVALID : BitVec 16 := 0x0040
def cCFG_MISMATCH : BitVec 16 := 0x0041
def cQUEUE_OVERRUN : BitVec 16 := 0x0042
def cSCHED_TAKEOVER : BitVec 16 := 0x0043
def cMEM_CORRECTED : BitVec 16 := 0x0044
def cTHERMAL_TRIP : BitVec 16 := 0x0045
def cFUSE : BitVec 16 := 0x0046
def cLINK_DOWN : BitVec 16 := 0x0047

/-- R49 for a tile named by an access of another tile: fenced first, then another partition. -/
def State.tileFault (s : State) (me t : TileNo) : Option (BitVec 16) :=
  if s.isFenced t then some cTILE_FENCED
  else if s.partOf t ≠ s.partOf me then some cPARTITION
  else none

/-- R49 for an S-space address used by a tile. -/
def State.sFault (s : State) (me : TileNo) (a : Nat) : Option (BitVec 16) :=
  if 2 ^ 31 ≤ a || 0x600000 ≤ a % 2 ^ 23 then some cSPACE_RESERVED else s.tileFault me (keyTile a)

/-! ## Rows and granules of the state's memory -/

/-- Sets the granules full that hold bytes [a, a + n) of scratchpad (R62). -/
def State.fillGranules (s : State) (a n : Nat) : State :=
  if keyIsS a && (s.tile (keyTile a)).emptyGr ≠ [] then
    s.modTile (keyTile a) fun t =>
      { t with emptyGr := t.emptyGr.filter fun g => g < keyOff a / 16 || (keyOff a + n + 15) / 16 ≤ g }
  else s

/-- Whether the four granules of a scratchpad row are full (R63). -/
def State.rowFull (s : State) (a : Nat) : Bool :=
  !keyIsS a || !((s.tile (keyTile a)).emptyGr.any fun g => keyOff (rowOf a) / 16 ≤ g && g < keyOff (rowOf a) / 16 + 4)

/-- Sets the four granules of a row empty (R63). -/
def State.emptyRow (s : State) (a : Nat) : State :=
  s.modTile (keyTile a) fun t =>
    { t with emptyGr := (List.range 4).foldl (fun l i => insertNat (keyOff (rowOf a) / 16 + i) l) t.emptyGr }

/-! ## Counters and error reports (R361, R390, R400) -/

/-- The launch of a tile's resident unit, 0 when there is none. -/
def Tile.launchNo (u : Tile) : Nat := match u.unit with | some r => r.launch | none => 0

/-- Launch and index of a tile's resident unit. -/
def Tile.unitNo (u : Tile) : Nat × Nat := match u.unit with | some r => (r.launch, r.idx) | none => (0, 0)
/-- Adds to every counter of a partition that selects an event of a tile or router (R390). -/
def State.countArg (s : State) (p : Nat) (event tile n : Nat) (arg : Nat → Bool) : State :=
  s.modPart p fun q =>
    { q with cnt := q.csel.foldl (fun m c =>
        if bits c.2 7 0 = event && (bitAt c.2 23 || bits c.2 31 24 = tile) && arg (bits c.2 15 8) && Map.get 0 q.cselAt c.1 ≠ s.clock + 1
        then Map.set m c.1 (Map.get 0 m c.1 + BitVec.ofNat 64 n) else m) q.cnt }
/-- Counts an event at a tile in the partition that owns it. -/
def State.countAt (s : State) (t : TileNo) (event n : Nat) : State :=
  match s.partOf t with
  | some p => s.countArg p event t.toNat n fun _ => true
  | none => s

/-- A word of the MSI-X vector table (R401): of entry v the message address at 2·v, its data and Vector Control at 2·v + 1. PRESUMED (log entry 90): PCI
Express's layout, and its reset value, which is every vector masked. -/
def State.msixWord (s : State) (i : Nat) : Word := Map.get (if i % 2 = 1 then 2 ^ 32 else 0) s.msix i
/-- Raises a vector: its message goes to the host, or while the vector is masked its pending bit is set (R399). -/
def State.interrupt (s : State) (v : Nat) : State :=
  if (s.msixWord (2 * v + 1)).getLsbD 32 then { s with msixPend := if s.msixPend.contains v then s.msixPend else s.msixPend ++ [v] }
  else { s with irqs := s.irqs ++ [v] }
/-- The host writes a word of the vector table; a vector that is pending and no more masked is raised. -/
def State.msixWrite (s : State) (i : Nat) (w : Word) : State :=
  let s := { s with msix := Map.set s.msix i (if i % 2 = 1 then w &&& 0x1FFFFFFFF else w &&& ~~~3) }
  if s.msixPend.contains (i / 2) && !(s.msixWord (2 * (i / 2) + 1)).getLsbD 32 then
    { s with msixPend := s.msixPend.erase (i / 2), irqs := s.irqs ++ [i / 2] }
  else s
/-- The Background Command Status register (R402): TLB_INVAL's opcode in [15:0], the percentage complete in [22:16], return code 0 in [47:32]. PRESUMED
(log entry 90): CXL 3.1's layout; the percentage is that of the sources which have acknowledged. -/
def bgWord (pct : Nat) : Word := BitVec.ofNat 64 (0xC004 + pct % 128 * 2 ^ 16)
/-- An error report (R361, R400). -/
def State.report (s : State) (c : BitVec 16) (info : Nat) : State := { s with reports := s.reports ++ [{ code := c, info := info : Report }] }

/-! ## Soft errors (R363): they come from outside, as entries of `ecc` (log entry 64) -/

/-- Keys of a tile's own words: a 64-bit word of spill memory, a word of the constant bank, an accumulator row, a line of instruction memory. -/
def eccSpill (w : Nat) : Nat := w
def eccConst (w : Nat) : Nat := 2 ^ 20 + w
def eccAcc (r : Nat) : Nat := 2 ^ 21 + r
def eccLine (n : Nat) : Nat := 2 ^ 22 + n
/-- A corrected error is reported and counted. -/
def State.corrected (s : State) (t : TileNo) : State := (s.report cMEM_CORRECTED t.toNat).countAt t 11 1
/-- A read, for tile `t`, of words with the given keys of its own memories: a corrected error is reported and gone; whether one is uncorrectable. -/
def State.readOwn (s : State) (t : TileNo) (ks : List Nat) : State × Bool :=
  ks.foldl (fun r k => match Map.find (r.1.tile t).ecc k with
    | none => r
    | some true => (r.1, true)
    | some false => ((r.1.modTile t fun u => { u with ecc := Map.del u.ecc k }).corrected t, r.2)) (s, false)
/-- A read, for tile `t`, of rows at the given keys. -/
def State.readRows (s : State) (t : TileNo) (ks : List Nat) : State × Bool :=
  ks.foldl (fun r k => match Map.find r.1.ecc (rowOf k) with
    | none => r
    | some true => (r.1, true)
    | some false => (({ r.1 with ecc := Map.del r.1.ecc (rowOf k) } : State).corrected t, r.2)) (s, false)

/-- The row at a key. -/
def State.row (s : State) (k : Nat) : Row := Mem.row s.mem k
/-- Writes the row at a key, which then holds no error; a scratchpad row's four granules become full (R62). -/
def State.putRow (s : State) (k : Nat) (r : Row) : State :=
  State.fillGranules { s with mem := Mem.setRow s.mem k r, ecc := Map.del s.ecc (rowOf k) } k 64
/-- The number of a scratchpad key's bank among the banks of all tiles (R48). -/
def bankNo (k : Nat) : Nat := k / 2 ^ 18
/-- An engine or a delivery works in the banks of some keys in this clock, or in the next when the clock is in its late part (R16, R17). -/
def State.usesBanks (s : State) (ks : List Nat) : State :=
  { s with bankUse := s.bankUse ++ (((ks.filter keyIsS).map bankNo).eraseDups).map fun b => (if s.late then s.clock + 1 else s.clock, b) }
/-- Writes n bytes at a key without touching granules: an engine's partial row write (R173). -/
def State.putBytes (s : State) (k n v : Nat) : State := { s with mem := Mem.writeN s.mem k v n }

/-! ## Translation (R371 to R373, R405) -/

/-- Usable pseudo-channels of a group (R405). -/
def State.groupPch (s : State) (g : Nat) : Nat :=
  ((List.range 16).filter fun i => !s.pchFenced.contains (16 * g + i)).length
/-- R405: an address in the populated part of a group; the rest of a group's range is outside HBM. -/
def State.inHbm (s : State) (pa : Nat) : Bool :=
  let g := pa / (12 * 2 ^ 30)
  g < 32 && pa % (12 * 2 ^ 30) < s.groupPch g * (768 * 2 ^ 20)
/-- R405: an HBM address in a group that the partition owns. -/
def State.hbmOwned (s : State) (p : Nat) (pa : Nat) : Bool := (s.part p).groups.getLsbD (pa / (12 * 2 ^ 30)) && s.inHbm pa

/-- The partition that owns a fabric context (R327). -/
def State.ctxPart (s : State) (c : Nat) : Option Nat :=
  findFrom (fun p => (s.part p).formed && (s.part p).ctxs.getLsbD c) 0 8
/-- A fabric context. -/
def State.ctx (s : State) (c : Nat) : Ctx := Map.get {} s.ctxs c

/-- A translated address: key of its byte, and whether it is host memory. -/
structure Phys where
  key : Nat
  host : Bool
  deriving DecidableEq, Repr

/-- A nonzero reserved bit of a table entry (R371). -/
def pteReserved (e : Word) : Bool := bits e 63 60 != 0 || bits e 15 6 != 0 || bitAt e 2
/-- HOST, WR or RD set (R371). -/
def pteAttrs (e : Word) : Bool := bits e 5 3 != 0

/-- A leaf used for an access (R372): permission, then the partition's HBM. -/
def State.useLeaf (s : State) (c va log2 : Nat) (leaf : Word) (rd wr : Bool) : Except Nat Phys :=
  let pa := ((bits leaf 59 16) <<< 16) / 2 ^ log2 * 2 ^ log2 + va % 2 ^ log2
  if (rd && !bitAt leaf 3) || (wr && !bitAt leaf 4) then .error 3
  else if bitAt leaf 5 then .ok ⟨keyHost pa, true⟩
  else match s.ctxPart c with
    | some p => if s.hbmOwned p pa then .ok ⟨keyHbm pa, false⟩ else .error 4
    | none => .error 4

/-- The walk of R372 to a leaf: its entry and the log2 of its size, or the subcause. -/
def State.tableWalk (s : State) (c : Nat) (va : Word) : Except Nat (Word × Nat) :=
  if bits va 63 56 ≠ 0 then .error 0
  else if !(s.ctx c).enable then .error 6
  else
    let a0 := (s.ctx c).root + 8 * bits va 55 42
    if !s.inHbm a0 then .error 5 else
    let e0 := Mem.word s.mem (keyHbm a0)
    if !bitAt e0 0 then .error 1
    else if bitAt e0 1 || pteReserved e0 || pteAttrs e0 then .error 2
    else
      let a1 := (bits e0 59 16) <<< 16 ||| 0
      let a1 := a1 + 8 * bits va 41 29
      if !s.inHbm a1 then .error 5 else
      let e1 := Mem.word s.mem (keyHbm a1)
      if !bitAt e1 0 then .error 1
      else if pteReserved e1 then .error 2
      else if bitAt e1 1 then (if bits e1 28 16 ≠ 0 then .error 2 else .ok (e1, 29))
      else if pteAttrs e1 then .error 2
      else
        let a2 := (bits e1 59 16) <<< 16
        let a2 := a2 + 8 * bits va 28 16
        if !s.inHbm a2 then .error 5 else
        let e2 := Mem.word s.mem (keyHbm a2)
        if !bitAt e2 0 then .error 1
        else if !bitAt e2 1 || pteReserved e2 then .error 2
        else .ok (e2, 16)

/-- A TLB entry that matches (R373). -/
def tlbFind (tlb : List TlbEntry) (c va : Nat) : Option TlbEntry :=
  tlb.find? fun e => e.ctx = c && e.va = va / 2 ^ e.log2 * 2 ^ e.log2

/-- Translates through a TLB, walking on a miss (R370, R372, R373). -/
def State.translate (s : State) (tlb : List TlbEntry) (c : Nat) (va : Word) (rd wr : Bool) : Except Nat Phys :=
  if bits va 63 56 ≠ 0 then .error 0
  else if !(s.ctx c).enable then .error 6
  else match tlbFind tlb c va.toNat with
    | some e => s.useLeaf c va.toNat e.log2 e.leaf rd wr
    | none => match s.tableWalk c va with
      | .ok (leaf, l) => s.useLeaf c va.toNat l leaf rd wr
      | .error e => .error e

/-- The entry that a walk leaves in a TLB of 64 entries; the oldest makes room (R373). -/
def tlbInsert (tlb : List TlbEntry) (c va log2 : Nat) (leaf : Word) : List TlbEntry :=
  (tlb ++ [{ ctx := c, va := va / 2 ^ log2 * 2 ^ log2, log2 := log2, leaf := leaf : TlbEntry }]).drop (tlb.length + 1 - 64)

/-- What a translation leaves in a TLB: a walk that faults, or whose access faults, caches nothing (R373). -/
def State.learn (s : State) (tlb : List TlbEntry) (c : Nat) (va : Word) (rd wr : Bool) : List TlbEntry :=
  match tlbFind tlb c va.toNat, s.tableWalk c va with
  | none, .ok (leaf, l) => (match s.useLeaf c va.toNat l leaf rd wr with
    | .ok _ => tlbInsert tlb c va.toNat l leaf
    | .error _ => tlb)
  | _, _ => tlb
/-- The hub's translating units (R373): the collective sequencer, the dispatcher, and the memory-side unit, one to a package (log entry 66). -/
def hubSeq : Nat := 0
def hubDisp : Nat := 1
def hubMem : Nat := 2
/-- The TLB of a hub unit. -/
def State.hubTlb (s : State) (n : Nat) : List TlbEntry := Map.get [] s.hubTlbs n
/-- Translates for a hub unit. -/
def State.hubTranslate (s : State) (n c : Nat) (va : Word) (rd wr : Bool) : Except Nat Phys := s.translate (s.hubTlb n) c va rd wr
/-- A hub unit has used an address: its TLB holds the leaf, or the fault's subcause is reported (R372, R373). -/
def State.hubUsed (s : State) (n c : Nat) (va : Word) (rd wr : Bool) : State :=
  match s.hubTranslate n c va rd wr with
  | .ok _ => { s with hubTlbs := Map.set s.hubTlbs n (s.learn (s.hubTlb n) c va rd wr) }
  | .error sub => s.report cTRANSLATION sub

/-- The fabric context of a tile's resident unit (R75, R284). -/
def State.tileCtx (s : State) (t : TileNo) : Nat :=
  match (s.tile t).unit with
  | some u => (Map.get {} s.launches u.launch).ctx
  | none => 0

/-- Translates an engine's G-space address in the context of a tile's unit. -/
def State.gKey (s : State) (t : TileNo) (va : Nat) (rd wr : Bool) : Except Nat Phys :=
  s.translate (s.tile t).tlb (s.tileCtx t) (BitVec.ofNat 64 va) rd wr

end Sys2Proof.Machine
end

