-- ==== Sys2Proof/Machine/Boot.lean ====
section
/-! DEFINITION. Firmware images, their verification and their measurement (R392, R393). -/
namespace Sys2Proof.Machine

/-- One firmware image: the fields of its 192-byte header, the header's bits [511:0] as bytes, and the body (R392). -/
structure Image where
  pubkey : BitVec 512
  sig : BitVec 512
  digest : BitVec 256
  reserved : BitVec 120
  keyidx : BitVec 8
  length : BitVec 32
  target : BitVec 32
  svn : BitVec 32
  magic : BitVec 32
  signed : List Byte
  body : List Byte
  deriving DecidableEq, Repr, Inhabited

/-- The image that bytes of flash are; none when they are fewer than a header. Bit n of the header is bit n modulo 8 of its byte n / 8. -/
def decodeImage (bs : List Byte) : Option Image :=
  if bs.length < 192 then none
  else
    let h := BitVec.ofNat 1536 (ofLeBytes (bs.take 192))
    some
      { pubkey := h.extractLsb' 1024 512, sig := h.extractLsb' 512 512, digest := h.extractLsb' 256 256, reserved := h.extractLsb' 136 120
        keyidx := h.extractLsb' 128 8, length := h.extractLsb' 96 32, target := h.extractLsb' 64 32, svn := h.extractLsb' 32 32
        magic := h.extractLsb' 0 32, signed := bs.take 64, body := bs.drop 192 }
/-- Whether an image is accepted (R392). -/
def imageAccepted (m : Image) (b : BootEnv) : Bool :=
  m.magic = 0x5A543838 && m.reserved = 0 && m.keyidx.toNat < 4
    && b.keyHashes[m.keyidx.toNat]? = some (sha256 (leBytes 64 m.pubkey.toNat)) && !b.revoked.getLsbD m.keyidx.toNat
    && b.minSvn.toNat ≤ m.svn.toNat && m.body.length = m.length.toNat && sha256 m.body = m.digest && ecdsaVerify m.pubkey m.signed m.sig
/-- Whether a slot is used: it holds images for all four targets and every one is accepted. -/
def slotOk (slot : List (List Byte)) (b : BootEnv) : Bool :=
  let ms := slot.filterMap decodeImage
  ms.length = slot.length && (List.range 4).all (fun t => ms.any fun m => m.target.toNat = t) && ms.all fun m => m.target.toNat < 4 && imageAccepted m b
/-- Measurement register TARGET after an image is measured (R393). -/
def extend (m : Map (BitVec 256)) (i : Image) : Map (BitVec 256) :=
  Map.set m i.target.toNat (sha256 (leBytes 32 (Map.get 0 m i.target.toNat).toNat ++ leBytes 32 i.digest.toNat ++ leBytes 4 i.svn.toNat))
/-- The measurements that a slot leaves (R392, R393): the boot ROM verifies the management firmware, measures it and runs it; that measures the images
of the other targets once the whole slot is accepted, since those of a slot that is not used do not run (log entry 91). -/
def measureSlot (m : Map (BitVec 256)) (slot : List (List Byte)) (b : BootEnv) : Map (BitVec 256) :=
  let ms := slot.filterMap decodeImage
  if slotOk slot b then ((ms.filter fun i => i.target = 0) ++ ms.filter fun i => i.target ≠ 0).foldl extend m
  else match ms.find? fun i => i.target = 0 with
    | some i => if imageAccepted i b then extend m i else m
    | none => m

end Sys2Proof.Machine
end

