-- ==== Sys2Proof/Machine/Ops.lean ====
section
/-! DEFINITION. The named operations that every meaning shares: registers, results in flight, interlocks, row accesses and their order, the queue
pool, timers, taking a trap and returning from one (R9 to R18, R78 to R86, R112 to R117, R330, R354 to R359). -/
namespace Sys2Proof.Machine

/-- The answer of a meaning. -/
abbrev Out := Host.Outcome State Fault Refusal

/-! ## Stall reasons (R384) -/

def rISSUED : BitVec 5 := 0
def rFETCH : BitVec 5 := 1
def rTICK_FREEZE : BitVec 5 := 2
def rINTERLOCK : BitVec 5 := 3
def rCB_WAIT : BitVec 5 := 4
def rFE_WAIT : BitVec 5 := 5
def rWINDOW_FULL : BitVec 5 := 6
def rTWAIT : BitVec 5 := 7
def rBARRIER : BitVec 5 := 8
def rDEMAND_WAIT : BitVec 5 := 9
def rCATCH_WAIT : BitVec 5 := 10
def rTASK_IDLE : BitVec 5 := 11
def rFENCE : BitVec 5 := 12
def rMARK : BitVec 5 := 13
def rREMOTE_ACK : BitVec 5 := 14
def rLAUNCH_QUOTA : BitVec 5 := 15
def rSLEEP : BitVec 5 := 16
def rHELD : BitVec 5 := 30
def rNONE : BitVec 5 := 31

/-! ## Streams of a tile -/

/-- A stream of a tile. -/
def Tile.strm (t : Tile) : Stream → Strm
  | .C => t.c
  | .V => t.v
  | .F => t.f
/-- Replaces a stream. -/
def Tile.setStrm (t : Tile) (st : Stream) (z : Strm) : Tile :=
  match st with
  | .C => { t with c := z }
  | .V => { t with v := z }
  | .F => { t with f := z }
/-- Changes a stream. -/
def Tile.modStrm (t : Tile) (st : Stream) (f : Strm → Strm) : Tile := t.setStrm st (f (t.strm st))
/-- Changes all three streams. -/
def Tile.modAll (t : Tile) (f : Strm → Strm) : Tile := { t with c := f t.c, v := f t.v, f := f t.f }
/-- The order C, V, F. -/
def allStreams : List Stream := [.C, .V, .F]
/-- The number of a stream (R160, CSR 0x003). -/
def streamNo : Stream → Nat
  | .C => 0
  | .V => 1
  | .F => 2
/-- The stream of a number; 3 reads as C. -/
def streamOf (n : Nat) : Stream := if n = 1 then .V else if n = 2 then .F else .C

/-- A stream of a tile in the state. -/
def State.strmOf (s : State) (t : TileNo) (st : Stream) : Strm := (s.tile t).strm st
/-- Changes a stream of a tile. -/
def State.modStrmOf (s : State) (t : TileNo) (st : Stream) (f : Strm → Strm) : State := s.modTile t fun u => u.modStrm st f
/-- The tile of the current instruction. -/
def State.me (s : State) : Tile := s.tile s.ct
/-- The stream of the current instruction. -/
def State.cur (s : State) : Strm := s.me.strm s.cs
/-- Changes the current tile. -/
def State.modMe (s : State) (f : Tile → Tile) : State := s.modTile s.ct f
/-- Changes the current stream. -/
def State.modCur (s : State) (f : Strm → Strm) : State := s.modStrmOf s.ct s.cs f
/-- The current tick (R11). -/
def State.now (s : State) : Nat := s.me.ttick

/-! ## Registers (R112, R113) -/

/-- x[n]; x0 reads as zero. -/
def Strm.xr (z : Strm) (n : Reg) : Word := if n = 0 then 0 else Map.get 0 z.x n.toNat
/-- q[n]. -/
def Strm.qr (z : Strm) (n : QReg) : Row := Map.get 0 z.q n.toNat
/-- x[n] of the current stream. -/
def State.x (s : State) (n : Reg) : Word := s.cur.xr n
/-- q[n] of the current stream. -/
def State.q (s : State) (n : QReg) : Row := s.cur.qr n
/-- The accumulator row that a vector register names (R72). -/
def State.accRow (s : State) (v : Reg) : Nat := (s.me.vwbase.toNat + v.toNat) % 256
/-- A row of the accumulators. -/
def Tile.accAt (t : Tile) (r : Nat) : VRow := Map.get 0 t.acc r
/-- A vector register. -/
def State.v (s : State) (v : Reg) : VRow := s.me.accAt (s.accRow v)
/-- A mask; m0 is all true. -/
def Tile.mask (t : Tile) (n : BitVec 3) : BitVec 512 := if n = 0 then BitVec.allOnes 512 else Map.get 0 t.masks n.toNat
/-- A pattern; pt0 is the identity. -/
def Tile.pat (t : Tile) (n : BitVec 4) : Pat := if n = 0 then {} else Map.get {} t.pats n.toNat

/-- Keeps `old` where `bits` is 0 and takes `new` where it is 1. -/
def mergeBits (old new bits : VRow) : VRow := (old &&& ~~~bits) ||| (new &&& bits)

/-- Writes the bits `bits` of a destination; x0, m0 and pt0 discard (R113). -/
def State.writeDest (s : State) (t : TileNo) (st : Stream) (d : Dest) (data bits : VRow) : State :=
  match d with
  | .none => s
  | .x n =>
    if n = 0 then s
    else s.modStrmOf t st fun z => { z with x := Map.set z.x n.toNat ((mergeBits ((z.xr n).setWidth 4096) data bits).setWidth 64) }
  | .q n => s.modStrmOf t st fun z => { z with q := Map.set z.q n.toNat ((mergeBits ((z.qr n).setWidth 4096) data bits).setWidth 512) }
  | .acc r => s.modTile t fun u =>
    { u with acc := Map.set u.acc r (mergeBits (u.accAt r) data bits), ecc := if bits = BitVec.allOnes 4096 then Map.del u.ecc (eccAcc r) else u.ecc }
  | .accs r n => s.modTile t fun u =>
    { u with acc := (List.range n).foldl (fun m k => Map.set m ((r + k) % 256) data) u.acc
             ecc := (List.range n).foldl (fun m k => Map.del m (eccAcc ((r + k) % 256))) u.ecc }
  | .mask n =>
    if n = 0 then s
    else s.modTile t fun u => { u with masks := Map.set u.masks n.toNat ((mergeBits ((u.mask n).setWidth 4096) data bits).setWidth 512) }
  | .vtype => s.modTile t fun u => { u with vtype := data.setWidth 3 }
  | .vwbase => s.modTile t fun u => { u with vwbase := data.setWidth 8 }
  | .pat n =>
    if n = 0 then s
    else s.modTile t fun u =>
      { u with pats := Map.set u.pats n.toNat { kind := data.extractLsb' 0 3, k := data.extractLsb' 3 5, sel := data.extractLsb' 8 24 : Pat } }

/-! ## Numbers, timers, messages -/

/-- A step due now, after those already due. -/
def State.post (s : State) (a : Act) : State := { s with agenda := s.agenda ++ [a] }
/-- A step for the late part of this clock (R183, R360). -/
def State.postLate (s : State) (a : Act) : State := { s with lateQ := s.lateQ ++ [a] }
/-- A step due at a clock. -/
def State.atClock (s : State) (c : Nat) (a : Act) : State := { s with timers := s.timers ++ [(c, a)] }
/-- A step due after a finite time that the spec does not fix (log entry 5). -/
def State.later (s : State) (a : Act) : State :=
  { s with timers := s.timers ++ [(s.clock + 1 + Config.freeDelay s.fresh, a)], fresh := s.fresh + 1 }
/-- A step whose conditions do not hold yet: tried again in the next clock. -/
def State.retry (s : State) (op : Instr) : State := { s with waiters := s.waiters ++ [{ op := op, ev := s.ev }] }
/-- A step due now, before those already due. -/
def State.postFirst (s : State) (a : Act) : State := { s with agenda := a :: s.agenda }
/-- R17: a step of an engine, which leaves state `t`, waits for the next clock when it would work in a bank that a stream's load wins in this one. -/
def State.giveWay (s : State) (op : Instr) (t : State) : Out :=
  .next (if (t.bankUse.drop s.bankUse.length).any s.bankWon.contains then s.retry op else t)
/-- Takes the next free value. -/
def State.bumpFresh (s : State) : State := { s with fresh := s.fresh + 1 }
/-- Takes the next number. -/
def State.bump (s : State) : State := { s with nextId := s.nextId + 1 }
/-- Sends a message: it arrives with the step `op` at a tile or router after a finite time (log entry 5). -/
def State.send (s : State) (m : Msg) (op : Instr) (t : TileNo) : State :=
  ({ s with msgs := Map.set s.msgs s.nextId m }).bump.later { op := op, ev := { tile := t, id := s.nextId } }
/-- Removes a message. -/
def State.unsend (s : State) (n : Nat) : State := { s with msgs := Map.del s.msgs n }

/-! ## Issue: advance, wait, take a trap -/

/-- The current instruction has issued: the stream goes on behind it, or to the next repetition of REP (R102, R137). -/
def State.advance (s : State) : State :=
  s.modCur fun z =>
    match z.rep with
    | some r =>
      if r.idx + 1 < r.count then { z with rep := some { r with idx := r.idx + 1 }, stall := rISSUED, waitN := none, issuedWait := none, gHold := none }
      else { z with rep := none, pc := z.pc + 1, stall := rISSUED, waitN := none, issuedWait := none, gHold := none }
    | none => { z with pc := z.pc + 1, stall := rISSUED, waitN := none, issuedWait := none, gHold := none }

/-- The instruction is complete. -/
def State.done (s : State) : Out := .next s.advance
/-- The instruction does not issue in this tick; the stream tries it again in the next (R15, R384). -/
def State.stall (s : State) (r : BitVec 5) : Out := .next (s.modCur fun z => { z with stall := r })

/-- The full/empty load that a stream waits for, when it has not been performed (R143). -/
def Strm.feLoad (z : Strm) (a : Access) : Bool := some a.id = z.issuedWait && a.fe ≠ .plain
/-- An instruction that has issued and taken effect is not issued again: one that waits for a remote result to x0 (R288), or a full/empty load that
has been performed (R143). The stream goes on behind it. -/
def Strm.skipIssued (z : Strm) : Strm :=
  if z.issuedWait = none || z.accs.any z.feLoad then z
  else match z.rep with
    | some r => if r.idx + 1 < r.count then { z with rep := some { r with idx := r.idx + 1 } } else { z with rep := none, pc := z.pc + 1 }
    | none => { z with pc := z.pc + 1 }
/-- Abandons the wait that a stream is in; a full/empty load that it waits for and that has not been performed leaves nothing (R143, R355, R366). -/
def Strm.abandon (y : Strm) : Strm :=
  let z := y.skipIssued
  let ids := (z.accs.filter z.feLoad).map Access.id
  let gone := z.awaits.filter fun w => w.loads.any ids.contains
  { z with
    waitN := none
    issuedWait := none
    gHold := none
    accs := z.accs.filter fun a => !ids.contains a.id
    awaits := z.awaits.filter fun w => !(w.loads.any ids.contains)
    pending := z.pending.filter fun d => !(gone.any fun w => w.dests.contains d) }

/-- Stops the unit on a tile as an unrecoverable trap does: its streams issue no more and steps 2 to 4 of R23 follow with FAILED (R354). -/
def State.failUnit (s : State) (t : TileNo) : State :=
  (s.modTile t fun u =>
    { u.modAll (fun z => { z with mode := if z.mode = .noEntry then .noEntry else .ended, rep := none, waitN := none }) with
      unit := u.unit.map fun r => { r with failed := true }
      handling := none }).postLate { op := .cancelStop, ev := { tile := t } }

/-- Whether a stream's results in flight at tick `t` include row loads not yet performed. -/
def Flight.late (f : Flight) (t : Nat) : Bool := f.land ≤ t && f.loads ≠ []

/-- TAKING A TRAP (R354 to R358): stream `st` of tile `t` meets fault `code` at lane `lane`, with fault address `addr` and TINFO `info`.
The frame is written, the stream is held and the error is reported (R361, R400); an unrecoverable trap stops the unit. HANDLER_ENTRY follows. -/
def State.takeTrap (s : State) (t : TileNo) (st : Stream) (code : BitVec 16) (lane : LaneAddr) (addr info : Word) (next async : Bool) : State :=
  let u := s.tile t
  let z := u.strm st
  let double := st = .C && z.priv ≠ 0
  let fr : Frame :=
    if double then
      { z.frame with cause := cDOUBLE_FAULT, tpc := lane, taddr := addr, tinfo := zext64 code ||| zext64 z.frame.cause <<< 16 }
    else
      { z.frame with
        valid := true, ppriv := z.priv, resumeNext := next, rep := z.rep, async := async, cause := code, tpc := lane, taddr := addr
        tinfo := info, flights := z.flights, asyncs := z.asyncs.filter fun a => u.ttick < a.due, stopTick := u.ttick }
  let s := s.modStrmOf t st fun z =>
    let w := z.abandon
    { w with mode := .held, frame := fr, frameWait := (w.awaits.filter Await.isLoad).map Await.id, check := none, ownTrap := false
             flights := if double then z.flights else [], asyncs := if double then z.asyncs else z.asyncs.filter fun a => !(u.ttick < a.due)
             rep := none, stall := rHELD, heldAt := u.ttick, pc := lane }
  let s := { s with reports := s.reports ++ [{ code := if double then cDOUBLE_FAULT else code, info := t.toNat : Report }] }
  if double || u.tvec = 0xFFFF || (u.c.mode ≠ .running && u.c.mode ≠ .held) then s.failUnit t else s

/-- A synchronous trap of the current instruction with a fault address and TINFO (R111, R117, R355). -/
def State.trapWith (s : State) (code : BitVec 16) (addr info : Word) (next : Bool) : Out :=
  .next (s.takeTrap s.ct s.cs code s.cur.pc addr info next false)
/-- A synchronous trap whose fault address is a given address. -/
def State.trapAddr (s : State) (code : BitVec 16) (addr : Word) : Out := s.trapWith code addr 0 false
/-- A synchronous trap whose fault address is the instruction's own lane (R111). -/
def State.trap (s : State) (code : BitVec 16) : Out := s.trapWith code (zext64 s.cur.pc) 0 false

/-- Stream legality (R114). -/
def onAll : Stream → Bool := fun _ => true
def onCF : Stream → Bool := fun st => st ≠ .V
def onC : Stream → Bool := fun st => st = .C
def onV : Stream → Bool := fun st => st = .V

/-- Destinations whose results are discarded: x0, m0 and pt0 (R113). -/
def Dest.discards (d : Dest) : Bool := d = .none || d = .x 0 || d = .mask 0 || d = .pat 0
/-- Whether a result to destination `f` is a result to `d`. -/
def Dest.covers (f d : Dest) : Bool :=
  !f.discards && (f = d || match f, d with | .accs r n, .acc k => (k + 256 - r) % 256 < n | _, _ => false)

/-- A register with its pending bit set (R15), or an accumulator row of a claimed bank (R72). -/
def State.busy (s : State) (d : Dest) : Bool :=
  s.cur.pending.contains d ||
    match d with
    | .acc r => if r % 256 < 128 then s.me.claim0.isSome else s.me.claim1.isSome
    | _ => false

/-- The soft errors in the accumulator rows that an instruction reads (R363). -/
def State.accErrors (s : State) (reads : List Dest) : List Nat :=
  reads.filterMap fun d => match d with
    | .acc r => if Map.has s.me.ecc (eccAcc r) then some (eccAcc r) else none
    | _ => none
/-- An instruction whose read has met an uncorrectable error (R363): its results do not land and its stores write nothing; at the landing tick its
stream takes MEM_UNCORRECTABLE. `old` is the state before it and `s` the state that it would leave. -/
def State.voidRead (s old : State) (addr : Word) : State :=
  let z := old.cur
  let lat := ((s.cur.flights.drop z.flights.length).map Flight.land).foldl Nat.max (old.now + 1)
  (s.modCur fun y => { y with flights := z.flights, awaits := z.awaits, accs := z.accs, pending := z.pending
                              asyncs := y.asyncs ++ [{ due := lat, code := cMEM_UNCORRECTABLE, addr := addr, info := zext64 z.pc : Async }] }).modMe fun u =>
    { u with spillPend := old.me.spillPend }
/-- What an instruction does when a word that it reads from the tile's own memories, among those with the keys `ks`, may hold a soft error. -/
def State.reading (s : State) (ks : List Nat) (addr : Word) (k : State → Out) : Out :=
  match s.readOwn s.ct ks with
  | (r, false) => k r
  | (r, true) => match k r with
    | .next t => .next (t.voidRead r addr)
    | o => o
/-- As `reading`, of the accumulator rows among the named registers; without an error there it is the instruction alone. -/
def State.readingAccs (s : State) (reads : List Dest) (k : State → Out) : Out :=
  match s.accErrors reads with
  | [] => k s
  | e :: es => s.reading (e :: es) (zext64 s.cur.pc) k

/-- The reason of a wait for a pending register: one that an RPOST will write waits for the remote acknowledgment (R190, R384). -/
def State.pendingReason (s : State) (names : List Dest) : BitVec 5 :=
  if s.cur.awaits.any fun w => w.isPost && w.dests.any names.contains then rREMOTE_ACK else rINTERLOCK
/-- The checks before an instruction acts: its stream (R114), then the pending bits of the registers it names (R15, R116). -/
def State.guard (s : State) (legal : Stream → Bool) (names : List Dest) (k : State → Out) : Out :=
  if !legal s.cs then s.trap cILLEGAL_STREAM
  else if names.any s.busy then s.stall (s.pendingReason names)
  else k s
/-- As `guard`, for an instruction with a result of an exposed-latency class: at most 16 in flight (R14). `names` begins with the destination, and
the accumulator rows among `reads` are read; a result that is discarded is not in flight (R113). -/
def State.guardR (s : State) (legal : Stream → Bool) (names reads : List Dest) (k : State → Out) : Out :=
  s.guard legal names fun s =>
    if 16 ≤ s.cur.flights.length && !(names.headD .none).discards then s.stall rINTERLOCK else s.readingAccs reads k
/-- As `guardR`, for one that reads all it names but its destination. -/
def State.guardX (s : State) (legal : Stream → Bool) (names : List Dest) (k : State → Out) : Out := s.guardR legal names names.tail k
/-- As `guard`, for an interlocked result: none in flight to its destinations (R116). -/
def State.guardI (s : State) (legal : Stream → Bool) (names dsts : List Dest) (k : State → Out) : Out :=
  s.guard legal (names ++ dsts) fun s => if s.cur.flights.any fun f => dsts.any f.dest.covers then s.stall rINTERLOCK else k s
/-- As `guard`, for a privileged instruction (R111, R323). -/
def State.guardP (s : State) (names dsts : List Dest) (k : State → Out) : Out :=
  if !onC s.cs then s.trap cILLEGAL_STREAM
  else if s.cur.priv = 0 then s.trap cPRIVILEGE
  else s.guardI onC names dsts k

/-! ## Results (R12 to R15) -/

/-- A result of an exposed-latency class: it lands `lat` ticks after the current one. A result to x0, m0 or pt0 is discarded (R113). -/
def State.result (s : State) (d : Dest) (lat : Nat) (data bits : VRow) (flags : Flags) : State :=
  if d.discards then s.bump else
  (s.modCur fun z =>
    { z with flights := z.flights ++ [{ id := s.nextId, dest := d, data := data, bits := bits, land := s.now + lat, flags := flags, lane := z.pc }] }).bump
/-- A scalar result. -/
def State.setX (s : State) (d : Reg) (lat : Nat) (w : Word) : State := s.result (.x d) lat (w.setWidth 4096) (BitVec.allOnes 4096) 0
/-- A row result. -/
def State.setQ (s : State) (d : QReg) (lat : Nat) (r : Row) : State := s.result (.q d) lat (r.setWidth 4096) (BitVec.allOnes 4096) 0

/-- Destinations that take a pending bit: x0 and m0 never do (R113). -/
def pendable (ds : List Dest) : List Dest := ds.filter fun d => !d.discards

/-- An interlocked result becomes outstanding (R15); it is numbered `s.nextId`. -/
def State.await (s : State) (ds : List Dest) (loads : List Nat) (ready : Bool) (minLand : Nat) (addr : Word) : State :=
  (s.modCur fun z =>
    { z with
      pending := z.pending ++ pendable ds
      awaits := z.awaits ++ [{ id := s.nextId, dests := ds, vals := [], loads := loads, ready := ready, isLoad := loads ≠ [], minLand := minLand
                               lane := z.pc, addr := addr }] }).bump

/-- Interlocked results whose values are known when the instruction issues, written after a time that the spec does not fix. -/
def State.answers (s : State) (ds : List Dest) (vals : List VRow) : State :=
  ((s.modCur fun z =>
    { z with pending := z.pending ++ pendable ds, awaits := z.awaits ++ [{ id := s.nextId, dests := ds, vals := vals, lane := z.pc }] }).bump).later
      { op := .interlockedResult, ev := { tile := s.ct, st := s.cs, id := s.nextId } }
/-- A scalar interlocked result. -/
def State.answer (s : State) (d : Reg) (w : Word) : State := s.answers [.x d] [w.setWidth 4096]

/-- The value of an outstanding result arrives: it may be written now (R15). -/
def State.resolve (s : State) (t : TileNo) (st : Stream) (id : Nat) (vals : List VRow) : State :=
  (s.modStrmOf t st fun z =>
    { z with awaits := z.awaits.map fun a => if a.id = id then { a with vals := vals, ready := true } else a }).post
      { op := .interlockedResult, ev := { tile := t, st := st, id := id } }

/-- As `resolve`, written after a time that the spec does not fix. -/
def State.resolveLater (s : State) (t : TileNo) (st : Stream) (id : Nat) (vals : List VRow) : State :=
  (s.modStrmOf t st fun z =>
    { z with awaits := z.awaits.map fun a => if a.id = id then { a with vals := vals, ready := true } else a }).later
      { op := .interlockedResult, ev := { tile := t, st := st, id := id } }

/-! ## Row accesses and their order (R78 to R86) -/

/-- Whether a location lies in a scope of R83, for a tile; no row lies in the stream scope, so FENCE stream acts as MARK (R84). -/
def inScope (t : TileNo) (sc : Nat) (key : Nat) : Bool :=
  if keyIsS key then
    (sc = 1 && keyTile key = t) || (sc = 2 && clusterOf (keyTile key) = clusterOf t) || (sc = 3 && dieOf (keyTile key) = dieOf t) || 4 ≤ sc
  else if key < 2 ^ 60 then 4 ≤ sc
  else if key < 2 ^ 80 then 5 ≤ sc
  else 6 ≤ sc

/-- An entry that trap entry or a return left (R94). -/
def Access.isMark (a : Access) : Bool := !a.isLoad && !a.isStore
/-- Whether an access not yet performed satisfies MARK: a store that the bridge has accepted (R82). -/
def Access.markOk (a : Access) : Bool := a.isMark || (!a.isLoad && a.bridged)
/-- Whether an access not yet performed satisfies FENCE at a scope (R84). -/
def Access.fenceOk (t : TileNo) (sc : Nat) (a : Access) : Bool := a.isMark || (!a.isLoad && a.bridged && !inScope t sc a.key)

/-- Whether two accesses of a stream touch one row; one that chases pointers may touch any row of its peer's context (R86, R292). -/
def Access.meets (e a : Access) : Bool :=
  e.key = a.key || e.more.contains a.key || a.more.contains e.key || e.more.any a.more.contains
    || ((e.chase || a.chase) && 2 ^ 80 ≤ e.key && 2 ^ 80 ≤ a.key && e.key / 2 ^ 56 = a.key / 2 ^ 56)

/-- Whether earlier access `e`, not yet performed, keeps access `a` to another row from being performed (R81, R85, R86). -/
def orderBlocks (t : TileNo) (e a : Access) : Bool :=
  !e.isMark &&
    (e.acq
      || (match a.rel with | some sc => !e.fenceOk t sc.toNat | none => false)
      || (e.isLoad && e.ownDie && a.ownDie)
      || (e.isStore && a.isStore && e.ownDie))

/-- Whether a mark stands between an unfinished earlier access and the accesses behind the list (R82, R94). -/
def markBlocks : List Access → Bool
  | [] => false
  | e :: rest => (!e.markOk && rest.any Access.isMark) || markBlocks rest

/-- The value a plain load takes from the latest earlier store to its row that is still in the store queue (R79, R80). DESIGN CHOICE (log entry 61):
R80 says only what must hold before a store leaves the queue; a store to the own die leaves it here when it is performed, and one to another die
when the bridge has accepted it. -/
def forward (earlier : List Access) (a : Access) : Option Row :=
  if a.isStore || a.fe ≠ .plain then none
  else match (earlier.filter fun e => e.meets a && !e.isMark).getLast? with
    | some e => if e.isStore && !e.isLoad && !e.bridged && e.key = a.key then some e.data else none
    | none => none

/-- Whether an access may be performed now, given the stream's earlier accesses that are not yet performed (R80 to R86). -/
def Access.mayPerform (t : TileNo) (z : Strm) (earlier : List Access) (a : Access) : Bool :=
  !markBlocks earlier
    && !(earlier.any fun e => orderBlocks t e a)
    && !(earlier.any fun e => e.meets a && !e.isMark && ((forward earlier a).isNone || e.isLoad))
    && (match a.rel with | some sc => sc ≠ 6 || (z.naOut ++ z.remoteOut).all (fun n => a.id ≤ n) | none => true)

/-- The accesses of a stream that precede number `id`. -/
def Strm.before (z : Strm) (id : Nat) : List Access := z.accs.takeWhile fun e => e.id ≠ id

/-- Issues a row access of the current stream; it is performed after a finite time (R80). Its number is `s.nextId`. -/
def State.issueAccess (s : State) (a : Access) : State :=
  (s.modCur fun z => { z with accs := z.accs ++ [{ a with id := s.nextId, lane := z.pc }] }).bump.later
    { op := if a.isLoad then .loadPerformed else .storePerformed, ev := { tile := s.ct, st := s.cs, id := s.nextId } }

/-- Removes a performed access and the marks that nothing precedes any more. -/
def dropAccess (id : Nat) (as : List Access) : List Access := (as.filter fun a => a.id ≠ id).dropWhile Access.isMark

/-- Trap entry and return act as MARK for a stream (R94). -/
def Strm.mark (z : Strm) : Strm :=
  if z.accs = [] then z else { z with accs := z.accs ++ [{ isLoad := false, isStore := false }] }

/-- MARK's condition (R82). -/
def Strm.marked (z : Strm) : Bool := z.accs.all Access.markOk
/-- FENCE's condition at a scope (R84). -/
def Strm.fenced (z : Strm) (t : TileNo) (sc : Nat) : Bool :=
  (z.accs.all fun a => a.fenceOk t sc) && (sc ≠ 6 || (z.naOut = [] && z.remoteOut = []))

/-- The new element of an AMO (R152). -/
def amoElem (op : Nat) (w : Nat) (old x : Nat) : Nat :=
  match op with
  | 0 => x
  | 1 => (old + x) % 2 ^ w
  | 2 => old &&& x
  | 3 => old ||| x
  | 4 => old ^^^ x
  | 5 => if sgn w x < sgn w old then x else old
  | 6 => if sgn w old < sgn w x then x else old
  | 7 => if x < old then x else old
  | _ => if old < x then x else old

/-- An AMO on one word of the row: one 64-bit element or two 32-bit elements. -/
def amoWord (op : Nat) (w64 : Bool) (old x : Word) : Word :=
  if w64 then BitVec.ofNat 64 (amoElem op 64 old.toNat x.toNat)
  else BitVec.ofNat 64 (amoElem op 32 (bits old 31 0) (bits x 31 0) + 2 ^ 32 * amoElem op 32 (bits old 63 32) (bits x 63 32))

/-- The row that AMO or CAS leaves, or none when it writes nothing (R152, R153). -/
def Rmw.apply (r : Rmw) (old : Row) : Option Row :=
  match r with
  | .amo op w64 wm x =>
    if wm = 0 then none
    else some ((List.range 8).foldl (fun acc j => if wm.getLsbD j then setRowWord acc j (amoWord op.toNat w64 (rowWord old j) (rowWord x j)) else acc) old)
  | .cas wm e n =>
    if (List.range 8).all fun j => !wm.getLsbD j || rowWord old j = rowWord e j then
      if wm = 0 then none
      else some ((List.range 8).foldl (fun acc j => if wm.getLsbD j then setRowWord acc j (rowWord n j) else acc) old)
    else none

/-- A row of a result that a load delivers. -/
def fillRow (old : VRow) (part : Nat) (r : Row) : VRow :=
  mergeBits old (r.setWidth 4096 <<< (512 * part)) ((BitVec.allOnes 512).setWidth 4096 <<< (512 * part))

/-- A load delivers its row to a result in flight. -/
def Flight.fill (f : Flight) (sink acc part : Nat) (r : Row) : Flight :=
  if f.id = sink then { f with data := fillRow f.data part r, loads := f.loads.filter (· ≠ acc) } else f
/-- A load delivers its row to an interlocked result. -/
def Await.fill (w : Await) (sink acc part : Nat) (r : Row) : Await :=
  if w.id = sink then { w with vals := [fillRow (w.vals.headD 0) part r], loads := w.loads.filter (· ≠ acc) } else w

/-- A load's value is bound: it goes to the result that the load belongs to; a late result ends the stretch and an interlocked one may be written. -/
def State.deliver (s : State) (t : TileNo) (st : Stream) (a : Access) (r : Row) : State :=
  match a.sink with
  | none => s
  | some k =>
    let s := s.modStrmOf t st fun z =>
      { z with
        flights := z.flights.map fun f => f.fill k a.id a.part r
        frame := { z.frame with flights := z.frame.flights.map fun f => f.fill k a.id a.part r }
        awaits := z.awaits.map fun w => w.fill k a.id a.part r }
    if (s.strmOf t st).awaits.any fun w => w.id = k then s.post { op := .interlockedResult, ev := { tile := t, st := st, id := k } }
    else if (s.tile t).stretched then s.post { op := .stretchEnd, ev := { tile := t } }
    else s

/-! ## The active plane and the queue pool (R325, R329 to R331) -/

/-- Reset values of the plane registers (R329, R331). -/
def planeReset (n : Nat) : Word :=
  match n with
  | 0x118 => 64 <<< 41
  | 0x11B => 0x2000040
  | 0x11C => 0x1800060
  | 0x11D => 0x1000040
  | 0x11E => 0x1000020
  | 0x11F => 0x1000040
  | 0x120 => 0x2000080
  | _ => 0
/-- A register of the active plane. -/
def Tile.planeReg (t : Tile) (n : Nat) : Word := Map.get (planeReset n) t.plane n
/-- A register of the inactive plane. -/
def Tile.planeReg2 (t : Tile) (n : Nat) : Word := Map.get (planeReset n) t.plane2 n
/-- BANKFMT of a bank (R53). -/
def Tile.bankFmt (t : Tile) (b : Nat) : Word := t.planeReg (0x100 + b)
/-- Entries that a queue of the pool holds (R325, R331). -/
def Tile.qCount (t : Tile) : Nat → Nat
  | 0 => t.deque.length
  | 1 => 12 * t.remoteQ.length
  | 2 => t.demandQ.length
  | 3 => t.delivQ.length
  | 4 => t.barQ.length
  | _ => 2 * t.pealQ.length
/-- MIN and CAP of a queue. -/
def Tile.qMin (t : Tile) (q : Nat) : Nat := bits (t.planeReg (0x11B + q)) 11 0
def Tile.qCap (t : Tile) (q : Nat) : Nat := bits (t.planeReg (0x11B + q)) 27 16
/-- R330: whether a queue may take `e` entries. -/
def Tile.qTakes (t : Tile) (q e : Nat) : Bool :=
  let sh := 2048 - ((List.range 6).map t.qMin).sum
  let used := ((List.range 6).map fun i => (if i = q then t.qCount i + e else t.qCount i) - t.qMin i).sum
  t.qCount q + e ≤ t.qMin q || (t.qCount q + e ≤ t.qCap q && used ≤ sh)

/-! ## Entering the handler and returning (R355, R356, R359) -/

/-- Whether a trapped stream's frame is written: the interlocked loads that were outstanding at its trap are complete (R95, R117). -/
def Strm.framed (z : Strm) : Bool := z.frameWait.all fun n => !(z.awaits.any fun w => w.id = n)
/-- A stream that its trap holds; C's own trap waits while C handles another stream's (R355, R356). -/
def Strm.trapped (z : Strm) : Bool := z.mode = .held || z.ownTrap
/-- The held stream that C handles next: by trap tick, then C, V, F (R356). -/
def Tile.nextHeld (t : Tile) : Option Stream :=
  (allStreams.filter fun st => (t.strm st).trapped).foldl
    (fun best st => match best with
      | none => some st
      | some b => if (t.strm st).heldAt < (t.strm b).heldAt then some st else some b) none
/-- Whether C enters the handler now: in the first tick after the trap in which it is at unit privilege (R355). -/
def Tile.mayEnter (t : Tile) : Option Stream :=
  if t.handling ≠ none || t.c.priv ≠ 0 || t.frozen || t.preemptReq || t.unit = none then none
  else match t.nextHeld with
    | some st => if (t.strm st).heldAt < t.ttick then some st else none
    | none => none

/-- The lane from which a stream goes on: a branch that fails its check has had no effect and issues again (R103); another has had its effect. -/
def Strm.home (z : Strm) : LaneAddr :=
  match z.check with
  | some k => if k.fails then k.lane else if k.after then k.target + 1 else k.target
  | none => z.pc
/-- C enters the handler for stream `st` (R355): C's own results in flight go to its frame with cause ENTRY. When C has trapped itself, its frame
is its trap's: for its own trap the two are one (R355), and one that came later than `st`'s waits in it (R356). -/
def Tile.enter (t : Tile) (st : Stream) : Tile :=
  let c := t.c.abandon
  let own : Bool := c.mode = .held
  let fr : Frame :=
    if own then c.frame
    else { c.frame with valid := true, ppriv := c.priv, resumeNext := false, rep := c.rep, async := false, cause := cENTRY, tpc := c.home, taddr := 0
                        tinfo := 0, flights := c.flights, asyncs := c.asyncs.filter fun a => t.ttick < a.due, stopTick := t.ttick }
  { t with
    handling := some st
    c := { c with mode := .running, frame := fr, flights := if own then c.flights else []
                  asyncs := if own then c.asyncs else c.asyncs.filter fun a => !(t.ttick < a.due), rep := none, check := none, priv := 1, pc := t.tvec
                  ownTrap := own && st != Stream.C }.mark }

/-- Results saved in a frame go on, as many ticks after tick `first` as they had left (R18, R358). -/
def Frame.replay (fr : Frame) (first : Nat) : List Flight := fr.flights.map fun f => { f with land := first + (f.land - fr.stopTick) }

/-- Asynchronous faults of saved results come as many ticks after tick `first` (R363). -/
def Frame.replayAsyncs (fr : Frame) (first : Nat) : List Async := fr.asyncs.map fun a => { a with due := first + (a.due - fr.stopTick) }

/-- A stream resumes from its frame (R359): behind TPC when RESUMENEXT is set, else at TPC with the repetition that trapped (R139). DESIGN CHOICE (log
entry 16): behind the lane at TPC means behind a REP's body, whose repetitions left do not issue, and a TPC that the handler has changed keeps them. -/
def Strm.resume (z : Strm) (first : Nat) : Strm :=
  { z with
    mode := .running
    pc := if z.frame.resumeNext then z.frame.tpc + 1 else z.frame.tpc
    rep := if z.frame.resumeNext then none else z.frame.rep
    priv := z.frame.ppriv
    flights := z.flights ++ z.frame.replay first
    asyncs := z.asyncs ++ z.frame.replayAsyncs first
    waitN := none
    frame := { z.frame with valid := false, flights := [], asyncs := [] } }.mark

/-- C leaves the handler for another stream (R359): it goes on from its entry frame, or is held again by its own trap (R356). -/
def Strm.leaveEntry (z : Strm) (first : Nat) : Strm :=
  if z.ownTrap then { z with mode := .held, ownTrap := false, priv := z.frame.ppriv, pc := z.frame.tpc, stall := rHELD, waitN := none }.mark
  else z.resume first
/-- RETURN FROM A TRAP (R359): the handled stream resumes from its frame and C from its entry frame. -/
def Tile.leave (t : Tile) (st : Stream) : Tile :=
  let first := t.ttick + 1
  { (if st = .C then t.modStrm .C (fun z => z.resume first)
     else (t.modStrm st (fun z => z.resume first)).modStrm .C (fun z => z.leaveEntry first)) with handling := none }

end Sys2Proof.Machine
end

