-- ==== Sys2Proof/Machine/Shapes.lean ====
section
/-! DEFINITION. Shape records, footprints and where an element and its scale lie (R54 to R57, R64 to R66). -/
namespace Sys2Proof.Machine

/-- A shape record's fields (R64). -/
def shapeOf (r : Row) : Shape :=
  { space := bits r 19 18, rename := bitAt r 20, dims := bits r 22 21, layout := bitAt r 23, blk := bits r 25 24, scaled := bitAt r 26
    fmt := bits r 31 27, window := bits r 191 176, base := bits r 247 192, scaleBase := bits r 311 256, stride1 := bits r 351 320
    stride2 := bits r 383 352, ext0 := bits r 415 392, ext1 := bits r 439 416, ext2 := bits r 463 440, bound := bits r 487 464 }

/-- Whether a reserved field of a shape record is nonzero (R64). -/
def shapeReserved (r : Row) : Bool :=
  bits r 511 488 ≠ 0 || bits r 391 384 ≠ 0 || bits r 319 312 ≠ 0 || bits r 255 248 ≠ 0 || bits r 175 32 ≠ 0 || bits r 17 0 ≠ 0

/-- The extent of a dimension; those above DIMS - 1 take extent 1 (R64). -/
def Shape.ext (h : Shape) (d : Nat) : Nat := if h.dims ≤ d then 1 else if d = 0 then h.ext0 else if d = 1 then h.ext1 else h.ext2
/-- The stride of dimension 1 or 2; that of an unused dimension is ignored. -/
def Shape.stride (h : Shape) (d : Nat) : Nat := if h.dims ≤ d then 0 else if d = 1 then h.stride1 else h.stride2
/-- Rows that one bit-plane group takes: the width of the MXINT format (R56). -/
def Shape.planes (h : Shape) : Nat := if mxWidth h.fmt = 0 then 1 else mxWidth h.fmt
/-- The address of index (0, i1, i2) for a version that begins at `base` (R65). -/
def Shape.line (h : Shape) (base i1 i2 : Nat) : Nat := base + i2 * h.stride 2 + i1 * h.stride 1
/-- Bytes from BASE to the end of the last element, or of the last plane group (R65). DESIGN CHOICE (log entry 78): R65 says "the row that holds its last
element"; where the strides let that element straddle two rows, the footprint ends with the row of its last byte. -/
def Shape.span (h : Shape) : Nat :=
  h.line 0 (h.ext 1 - 1) (h.ext 2 - 1)
    + (if h.layout then ceilDiv (h.ext 0) 512 * h.planes * 64 else ceilDiv (h.ext 0 * container h.fmt) 8)
/-- The rows of the footprint of a version at `base`: first address and count (R65). -/
def Shape.footRows (h : Shape) (base : Nat) : Nat := (rowOf (base + h.span - 1) - rowOf base) / 64 + 1
/-- Whether row address `a` lies in the footprint of a version at `base`. -/
def Shape.holds (h : Shape) (base a : Nat) : Bool := rowOf base ≤ a && a ≤ rowOf (base + h.span - 1)
/-- Whether two byte ranges given by first row and row count share a row. -/
def rowsMeet (a n b m : Nat) : Bool := rowOf a < rowOf b + 64 * m && rowOf b < rowOf a + 64 * n

/-- The scratchpad bank of an address (R48). -/
def bankOf (a : Nat) : Nat := (a / 2 ^ 18) % 32
/-- The first address of the bank of an address. -/
def bankBase (a : Nat) : Nat := a / 2 ^ 18 * 2 ^ 18
/-- BANKFMT of the bank that holds an S-space address (R53). -/
def State.fmtAt (s : State) (a : Nat) : Word := (s.tile (keyTile a)).bankFmt (bankOf a)
/-- Whether BANKFMT agrees with a shape (R66, status FORMAT). -/
def fmtAgrees (f : Word) (h : Shape) : Bool :=
  bits f 4 0 = h.fmt && bitAt f 23 = h.scaled && bits f 22 21 = h.blk && bitAt f 20 = h.layout
/-- Whether every bank of a footprint agrees with its shape. -/
def State.banksAgree (s : State) (h : Shape) (base : Nat) : Bool :=
  (List.range (base % 2 ^ 18 / 2 ^ 18 + (base % 2 ^ 18 + h.span - 1) / 2 ^ 18 + 1)).all fun i => fmtAgrees (s.fmtAt (bankBase base + i * 2 ^ 18)) h

/-- A tile's rename pool: first address and rows (R329). -/
def State.pool (s : State) (t : TileNo) : Nat × Nat :=
  let p := (s.tile t).planeReg 0x118
  (tileKey t 0 + bits p 40 24 * 64, bits p 23 7)

/-- SHAPE's status for a record under handle number `n` of a tile (R66). DESIGN CHOICE (log entry 71): R33 says which formats exist with or without
block scales, and R66 lists no status for a G-space or window shape whose SCALED does not fit its format; the model registers it, with X = 1 for
elements without a scale and with the scale for those that have one. DESIGN CHOICE (log entry 80): R64 puts an S-space address in BASE [31:0] and says
nothing of [55:32]; a nonzero bit there is BADSHAPE. -/
def State.shapeStatus (s : State) (t : TileNo) (n : Nat) (r : Row) : Nat :=
  let h := shapeOf r
  let u := s.tile t
  if Map.has u.handles n then 1
  else if shapeReserved r || h.space = 3 || h.dims = 0 || elemOf h.fmt = .reserved || h.blk = 3
      || (List.range 3).any (fun d => d < h.dims && h.ext d = 0)
      || (List.range 3).all (fun d => h.dims ≤ d || h.ext d < h.bound)
      || (h.space = 0 && (h.base % 64 ≠ 0 || 2 ^ 31 ≤ h.base || 0x600000 < h.base % 2 ^ 23 + h.span))
      || (h.rename && (h.space ≠ 0 || keyTile h.base ≠ t))
      || (h.layout && h.space ≠ 0)
      || (h.layout && (h.base / 64 % 4096 % h.planes ≠ 0 || (List.range 3).any (fun d => d ≠ 0 && d < h.dims && h.stride d % (h.planes * 64) ≠ 0)))
    then 2
  else if (h.space = 0 && !s.banksAgree h h.base)
      || (h.scaled && (h.ext0 % blkLen h.blk ≠ 0 || (List.range 3).any (fun d => d ≠ 0 && d < h.dims && h.stride d % 64 ≠ 0)))
    then 3
  else if (u.handles.any fun p =>
        p.2.shape.space = h.space && (h.space ≠ 2 || p.2.shape.window = h.window)
          && rowsMeet h.base (h.footRows h.base) p.2.shape.base (p.2.shape.footRows p.2.shape.base))
      || (h.space = 0 && (s.pool t).2 ≠ 0 && rowsMeet h.base (h.footRows h.base) (s.pool t).1 (s.pool t).2)
    then 4
  else 0

/-- Registers a shape under a handle number: its home is its current version (R66, R68). -/
def Tile.register (u : Tile) (n : Nat) (h : Shape) : Tile :=
  { u with handles := Map.set u.handles n { shape := h, cur := h.base } }

/-! ## Elements (R55 to R57, R64) -/

/-- Byte address and bit of an element in the packed layout (R55). -/
def Shape.packedAt (h : Shape) (base i0 i1 i2 : Nat) : Nat × Nat :=
  let b := i0 * container h.fmt
  (h.line base i1 i2 + b / 8, b % 8)
/-- First row of the plane group of an element, and its bit (R56, R65). -/
def Shape.planarAt (h : Shape) (base i0 i1 i2 : Nat) : Nat × Nat :=
  let a := h.line base i1 i2
  (bankBase a + ((a - bankBase a) / 64 / h.planes + i0 / 512) * h.planes * 64, i0 % 512)
/-- The address of an element's scale byte: in the bank's scale rows, or in the G-space scale array (R57, R64). DESIGN CHOICE (log entry 79): R64 gives
SCALEBASE for G-space only; for a peer window it is an offset in the window, as BASE is. -/
def State.scaleAt (s : State) (h : Shape) (base i0 i1 i2 : Nat) : Nat :=
  if h.space = 0 then
    let a := h.line base i1 i2
    let bb := bankBase (if h.layout then a else (h.packedAt base i0 i1 i2).1)
    let n := if h.layout then 512 * ((a - bb) / 64 / h.planes + i0 / 512) + i0 % 512
      else (((h.packedAt base i0 i1 i2).1 - bb) * 8 + (h.packedAt base i0 i1 i2).2) / container h.fmt
    bb + bits (s.fmtAt bb) 19 7 * 64 + n / blkLen h.blk
  else h.scaleBase + (i2 * h.ext 1 + i1) * (h.ext 0 / blkLen h.blk) + i0 / blkLen h.blk

/-- The code of a planar element at read precision `p` of `w` planes, sign plane first (R40, R56). -/
def readPlanes (m : List Host.Cell) (row bit : Nat) : Nat → Nat
  | 0 => 0
  | p + 1 => 2 * readPlanes m row bit p + ((Mem.read m (row + p * 64 + bit / 8)).toNat >>> (bit % 8)) % 2
/-- A packed element's code. -/
def readPacked (m : List Host.Cell) (fmt : Nat) (at_ : Nat × Nat) : Nat :=
  (Mem.readN m at_.1 ((container fmt + 7) / 8) >>> at_.2) % 2 ^ elemWidth fmt
/-- Sets one bit of memory. -/
def Mem.setBit (m : List Host.Cell) (a bit : Nat) (v : Bool) : List Host.Cell :=
  let k := a + bit / 8
  Mem.write m k (setBits (Mem.read m k) (bit % 8) (bit % 8) (if v then 1 else 0))
/-- Writes a planar element's code of `w` planes. -/
def writePlanes (m : List Host.Cell) (row bit code : Nat) : Nat → Nat → List Host.Cell
  | _, 0 => m
  | w, n + 1 => writePlanes (Mem.setBit m (row + (w - (n + 1)) * 64) bit ((code >>> n) % 2 = 1)) row bit code w n
/-- Writes a packed element's container. -/
def writePacked (m : List Host.Cell) (fmt : Nat) (at_ : Nat × Nat) (code : Nat) : List Host.Cell :=
  let c := container fmt
  if c < 8 then Mem.write m at_.1 (setBits (Mem.read m at_.1) (at_.2 + c - 1) at_.2 code)
  else Mem.writeN m at_.1 (containerBits fmt code) (c / 8)

end Sys2Proof.Machine
end

