-- ==== Sys2Proof/WellFormed.lean ====
section
/-! DEFINITION. Which terms of `Instr` the encoding rules admit (R100, R106, R107 and the entry of each instruction). -/
namespace Sys2Proof

/-- What a memory access may ask of the order (R106). -/
inductive AccessKind where
  | load | store | indivisible
  deriving DecidableEq, Repr

/-- R106: acquire on loads, release on stores, all three on indivisible operations; scope 7 is reserved (R83). -/
def Qual.permitted (k : AccessKind) (q : Qual) : Bool :=
  q.scope != 7 &&
  match k, q.ord with
  | .indivisible, _ => true
  | .load, .acquire => true
  | .store, .release => true
  | _, _ => false

/-- A missing qualifier literal is always allowed (R106). -/
def qualOk (k : AccessKind) : Option Qual → Bool
  | none => true
  | some q => q.permitted k

/-- R77: modes 0 to `top`; in mode 3 the base field's bit [4] must be 0. -/
def modeOk (top : Nat) (m : BitVec 3) (b : Reg) : Bool :=
  m.toNat ≤ top && (m != 3 || b.toNat < 16)

/-- R103 and R110: the opcode byte is one of the 56 unused codes. -/
def unusedOpcode (op : Nat) : Bool :=
  op == 0x00 || (0x2C ≤ op && op ≤ 0x2F) || op == 0x3F || op == 0x4F || (0x5C ≤ op && op ≤ 0x5F) ||
  (0x68 ≤ op && op ≤ 0x6F) || op == 0x7F || (0x91 ≤ op && op ≤ 0x97) || (0x9C ≤ op && op ≤ 0x9F) ||
  (0xAA ≤ op && op ≤ 0xAF) || (0xDD ≤ op && op ≤ 0xDF) || (0xF0 ≤ op && op ≤ 0xFF)

/-- Element width of a VTYPE code (R200); 0 for the reserved codes 6 and 7. -/
def etypeWidth (e : BitVec 3) : Nat :=
  match e.toNat with
  | 0 => 32 | 1 => 16 | 2 => 16 | 3 => 32 | 4 => 16 | 5 => 8 | _ => 0

/-- R216: no reserved type, and PART below the ratio of the widths. -/
def vcvtOk (part : BitVec 2) (dst src : BitVec 3) : Bool :=
  dst.toNat ≤ 5 && src.toNat ≤ 5 &&
  part.toNat < Nat.max (etypeWidth src) (etypeWidth dst) / Nat.min (etypeWidth src) (etypeWidth dst)

/-- R217: format codes 0x04 to 0x0E; unscaled only for E4M3 and E5M2. -/
def quantOk (blk : BitVec 2) (fmt : BitVec 5) : Bool :=
  0x04 ≤ fmt.toNat && fmt.toNat ≤ 0x0E && (blk != 3 || fmt.toNat ≤ 0x05)

/-- R206: no reserved KIND; K only where the kind takes one; rs1 only for PERM8. -/
def vpatOk (a : Reg) (kind : BitVec 3) (k : BitVec 5) : Bool :=
  kind.toNat ≤ 5 && (kind == 5 || a == 0) && (k == 0 || kind == 1 || kind == 3 || kind == 4)

/-- A second source that must not be a vector register (R213, R214). -/
def Src2.scalar : Src2 → Bool
  | .vreg _ => false
  | _ => true

/-- The encoding rules of every instruction; the hardware's, host's and management's steps have no encoding and no such rule. -/
def Instr.wellFormed : Instr → Bool
  | .lit _ z _ l1 => !(z && l1.isSome)
  | .loop a _ => a != 0
  | .ldq _ m b _ ql => modeOk 3 m b && qualOk .load ql
  | .ldqW _ m b _ ql => modeOk 3 m b && qualOk .load ql
  | .ldqWc _ m b _ ql => modeOk 3 m b && qualOk .indivisible ql
  | .stq _ m b _ ql => modeOk 3 m b && qualOk .store ql
  | .ldg _ _ _ ql => qualOk .load ql
  | .stg _ _ _ ql => qualOk .store ql
  | .lds _ i => !i.msb
  | .sts _ i => !i.msb
  | .amo _ m b _ op _ _ ql => modeOk 4 m b && op.toNat ≤ 8 && qualOk .indivisible ql
  | .cas _ m b _ _ _ ql => modeOk 4 m b && qualOk .indivisible ql
  | .cbwaitf _ n => n.toNat ≤ 255
  | .cbwaite _ n => n.toNat ≤ 255
  | .fence s => s != 7
  | .barinit _ s _ => s != 7
  | .bararr a r _ => r || a == 0
  | .barwait _ a r _ => r || a == 0
  | .csrr _ i => !i.msb
  | .csrw _ i => !i.msb
  | .evt _ i => !i.msb
  | .rldq _ _ _ ql => qualOk .load ql
  | .rstq _ _ _ ql => qualOk .store ql
  | .rstqNa _ _ _ ql => qualOk .store ql
  | .ramo _ _ _ op _ _ => op.toNat ≤ 8
  | .tacq d c => (c == 3 || c == 4) && (d.toNat == 0 || 8 < d.toNat)
  | .cancel _ l => l.toNat ≤ 4
  | .cwait _ _ l => l.toNat ≤ 4
  | .cread _ _ l => l.toNat ≤ 4
  | .rollstat _ _ s => s.toNat ≤ 4
  | .tagstat _ _ s => s != 7
  | .srr _ i => !i.msb
  | .srw _ i => !i.msb
  | .vcmp _ _ _ _ _ _ cond => cond != 7
  | .vcvt _ _ _ _ part _ dst src => vcvtOk part dst src
  | .vquant _ _ _ _ blk fmt => quantOk blk fmt
  | .vdeq _ _ _ _ blk fmt => quantOk blk fmt
  | .vscan _ _ _ op _ _ => op != 3
  | .vbcast _ b _ => b.scalar
  | .vext _ _ b _ => b.scalar
  | .vins _ _ b => b.scalar
  | .vlds _ i => i.toNat ≤ 127
  | .vsts _ i => i.toNat ≤ 127
  | .vsett e => e.toNat ≤ 5
  | .vpat _ a kind k => vpatOk a kind k
  | .illegalOpcode w => unusedOpcode (w.extractLsb' 24 8).toNat
  | _ => true

end Sys2Proof
end

