-- ==== Sys2Proof/Machine/Operands.lean ====
section
/-! DEFINITION. Operand forms: the row addresses of R77, G-space accesses, second sources, lanes, masks and patterns (R62, R77, R200 to R205, R295). -/
namespace Sys2Proof.Machine

/-! ## Row addresses (R77) -/

/-- A signed field. -/
def simm {n : Nat} (i : BitVec n) : Int := i.toInt

/-- [31:23] of an address with an offset formed in the 23-bit field alone, as a row (R77, modes 0 and 2). -/
def sliceRow (hi : Nat) (off : Int) : Nat := hi * 2 ^ 23 + rowOf (wrapInt 23 off)

/-- A row address with the fault it raises: the code and, where an address was formed, the fault address. -/
abbrev AddrRes := Except (BitVec 16 × Option Nat) Nat

/-- R49 for a formed S-space address. -/
def State.checkS (s : State) (a : Nat) : AddrRes :=
  match s.sFault s.ct a with
  | some c => .error (c, some a)
  | none => .ok a

/-- Mode 0: S-absolute. -/
def State.addrAbs (s : State) (b : Reg) (rows : Int) : AddrRes :=
  s.checkS (sliceRow (bits (s.x b) 31 23) (bits (s.x b) 22 0 + rows * 64))
/-- Mode 1: handle-relative, in the version current at issue (R69). -/
def State.addrHandle (s : State) (b : Reg) (rows : Int) : AddrRes :=
  match Map.find s.me.handles (bits (s.x b) 11 0) with
  | none => .error (cHANDLE_INVALID, none)
  | some h =>
    if h.shape.space ≠ 0 then .error (cILLEGAL_USE, none)
    else
      let a : Int := h.cur + bits (s.x b) 43 12 + rows * 64
      if a < 0 || !h.shape.holds h.cur (rowOf a.toNat) then .error (cHANDLE_RANGE, some (wrapInt 64 a))
      else s.checkS (rowOf a.toNat)
/-- Mode 2: a peer of the same cluster. -/
def State.addrPeer (s : State) (b : Reg) (rows : Int) : AddrRes :=
  s.checkS (sliceRow (clusterOf s.ct * 8 + bits (s.x b) 25 23) (bits (s.x b) 22 0 + rows * 64))
/-- Rows per slot; 0 means 256 (R73). -/
def CircBuf.slot (c : CircBuf) : Nat := if c.slotRows = 0 then 256 else c.slotRows.toNat
/-- Mode 3: a row of the consumer or producer slot (R74). -/
def State.addrCb (s : State) (b : Reg) (rows : Int) : AddrRes :=
  let c := Map.get {} s.me.cbs (bits b 2 0)
  if !c.valid then .error (cILLEGAL_USE, none)
  else if rows < 0 || (c.slot : Int) ≤ rows then .error (cCB_RANGE, none)
  else s.checkS (tileKey s.ct ((c.baseRow.toNat + (if bitAt b 3 then c.prod.toNat else c.cons.toNat) % c.nSlots.toNat * c.slot + rows.toNat) * 64))
/-- The row that an M-format instruction of modes 0 to 3 names (R77). -/
def State.rowAddr (s : State) (m : BitVec 3) (b : Reg) (i : BitVec 13) : AddrRes :=
  match m.toNat with
  | 0 => s.addrAbs b (simm i)
  | 1 => s.addrHandle b (simm i)
  | 2 => s.addrPeer b (simm i)
  | _ => s.addrCb b (simm i)
/-- The scalar registers that the mode reads: mode 3 names a buffer instead. -/
def baseNames (m : BitVec 3) (b : Reg) : List Dest := if m = 3 then [] else [.x b]

/-- A trap for an address (R77): the fault address is the formed address, or the instruction's lane where none was formed. -/
def State.trapAddrRes (s : State) (e : BitVec 16 × Option Nat) : Out :=
  match e.2 with
  | some a => s.trapAddr e.1 (BitVec.ofNat 64 a)
  | none => s.trap e.1

/-- What a channel of the tile says of a stream access to a row of its range at or above WM (R295). -/
inductive ChanGate where
  | free | wait | poisoned
  deriving DecidableEq, Repr
/-- R295 for a row of this tile. -/
def State.chanGate (s : State) (a : Nat) : ChanGate :=
  s.me.chans.foldl (fun g p =>
    let c := p.2
    if c.start ≤ a && a < c.start + 64 * c.rows && c.wm ≤ a then (if c.state = 2 then .poisoned else if c.state = 1 && g ≠ .poisoned then .wait else g)
    else g) .free

/-- The rows that an instruction reads or writes: a channel's rows at or above WM trap when it is poisoned, and else wait (R295). -/
def State.gated (s : State) (rows : List Nat) (k : State → Out) : Out :=
  match rows.find? fun r => s.chanGate r = .poisoned with
  | some r => s.trapAddr cCHANNEL_POISONED (BitVec.ofNat 64 r)
  | none => if rows.any fun r => s.chanGate r = .wait then s.stall rFE_WAIT else k s

/-- An instruction that has read an uncorrectable error at an address: it has no effect, and its stream takes MEM_UNCORRECTABLE before its next
issue (R363). -/
def State.lostRead (s : State) (a : Nat) : Out :=
  (s.modCur fun z => { z with asyncs := z.asyncs ++ [{ due := s.now + 1, code := cMEM_UNCORRECTABLE, addr := BitVec.ofNat 64 a, info := zext64 z.pc : Async }] }).done

/-! ## G-space accesses of a stream (R75, R362, R372, R373) -/

/-- The answer of a translation: a location, a fault, or a walk to wait for. -/
inductive GRes where
  | ok (p : Phys) | fault (sub : Nat) | walk
  deriving DecidableEq, Repr
/-- Translates for the current stream: a TLB miss waits for a walk once, whose result is marked by `waitN`. -/
def State.gResolve (s : State) (va : Word) (rd wr : Bool) : GRes :=
  if bits va 63 56 ≠ 0 then .fault 0
  else if !(s.ctx (s.tileCtx s.ct)).enable then .fault 6
  else match tlbFind s.me.tlb (s.tileCtx s.ct) va.toNat with
    | some e => match s.useLeaf e.ctx va.toNat e.log2 e.leaf rd wr with
      | .ok p => .ok p
      | .error k => .fault k
    | none =>
      if s.cur.waitN = some 2 then
        match s.gKey s.ct va.toNat rd wr with
        | .ok p => .ok p
        | .error k => .fault k
      else .walk
/-- Waits for a walk of the tables, which takes no time or a free time; TLB_WALK ends it (R362). -/
def State.startWalk (s : State) (va : Word) (rd wr : Bool) : Out :=
  if s.cur.waitN = some 1 then s.stall rINTERLOCK
  else
    let a : Act := { op := .tlbWalk, ev := { tile := s.ct, st := s.cs, w0 := va, num := rd.toNat + 2 * wr.toNat } }
    let s := s.modCur fun z => { z with waitN := some 1 }
    (if Config.freeChoice s.fresh then s.bumpFresh.post a else s.later a).stall rINTERLOCK
/-- The synchronous trap of a translation fault, with its subcause in the error report (R362, R372). -/
def State.trapG (s : State) (va : Word) (sub : Nat) : Out :=
  { s with reports := s.reports ++ [{ code := cTRANSLATION, info := sub : Report }] }.trapAddr cTRANSLATION va
/-- Mode 4: x[base][55:0] + imm13·64, as a row (R77). A register with nonzero bits [63:56], or a sum outside 56 bits, keeps nonzero bits
[63:56], which NONCANONICAL refuses (R75, R372). -/
def State.addrG (s : State) (b : Reg) (i : BitVec 13) : Word :=
  let x := s.x b
  if bits x 63 56 ≠ 0 then x &&& ~~~63 else BitVec.ofNat 64 (rowOf (wrapInt 64 (x.toNat + simm i * 64)))

/-! ## Lanes (R200, R201, R205) -/

/-- The format of a floating element type. -/
def etypeFmt (e : BitVec 3) : Option FFmt :=
  match e.toNat with
  | 0 => some fp32
  | 1 => some bf16
  | 2 => some fp16
  | _ => none
/-- Number of lanes. -/
def lanesOf (e : BitVec 3) : Nat := 4096 / etypeWidth e
/-- s(j) of a lane pattern (R205). -/
def Pat.lane (p : Pat) (j : Nat) : Nat :=
  match p.kind.toNat with
  | 1 => (j + p.k.toNat) % 32
  | 2 => 31 - j
  | 3 => j ^^^ p.k.toNat
  | 4 => p.k.toNat
  | 5 => 8 * (j / 8) + bits p.sel (3 * (j % 8) + 2) (3 * (j % 8))
  | _ => j
/-- src_lane: the source lane within the same 32-lane block (R205). -/
def srcLane (p : Pat) (i : Nat) : Nat := 32 * (i / 32) + p.lane (i % 32)

/-- The register that a second source names, for the interlocks. -/
def State.srcNames (s : State) : Src2 → List Dest
  | .vreg v => [.acc (s.accRow v)]
  | .lit _ => []
  | .xreg x => [.x x]
/-- The second source of an integer lane, or of any lane read as bits (R203, R211). -/
def State.srcBits (s : State) (b : Src2) (w i : Nat) : Nat :=
  match b with
  | .vreg v => laneBits (s.v v) w i
  | .lit l => l.toNat % 2 ^ w
  | .xreg x => (s.x x).toNat % 2 ^ w
/-- The second source of a floating lane: a literal or scalar enters with its exact FP32 value (R203). -/
def State.srcNum (s : State) (f : FFmt) (b : Src2) (i : Nat) : FpNum :=
  match b with
  | .vreg v => f.decode (laneBits (s.v v) f.width i)
  | .lit l => fp32.decode l.toNat
  | .xreg x => fp32.decode (bits (s.x x) 31 0)
/-- A move-type second source: round_rne in the lane format, or the bits of an integer lane (R203). -/
def State.srcMove (s : State) (e : BitVec 3) (b : Src2) (i : Nat) : Nat × Flags :=
  match etypeFmt e, b with
  | some f, .lit l => f.rne (fp32.decode l.toNat)
  | some f, .xreg x => f.rne (fp32.decode (bits (s.x x) 31 0))
  | _, _ => (s.srcBits b (etypeWidth e) i, 0)

/-- The lanes of a result: those that `m` selects, with the bits they occupy and the flags they raise (R201, R202). -/
def selectLanes (w n : Nat) (m : Nat → Bool) (f : Nat → Nat × Flags) : VRow × VRow × Flags :=
  let rs := (List.range n).map fun i => if m i then (f i, true) else ((0, 0), false)
  (rowOfLanes w (rs.map fun r => r.1.1), rowOfLanes w (rs.map fun r => if r.2 then 2 ^ w - 1 else 0), rs.foldl (fun a r => a ||| r.1.2) 0)

end Sys2Proof.Machine
end

