-- ==== Sys2Proof/Machine/Peal.lean ====
section
/-! DEFINITION. Peal records and counters as the other meanings raise them (R385 to R390). -/
namespace Sys2Proof.Machine

/-- A record (R388). -/
def pealRec (time : Nat) (source event tile launch payload : Nat) : BitVec 256 :=
  BitVec.ofNat 256 (time % 2 ^ 64 + source * 2 ^ 64 + event * 2 ^ 72 + tile * 2 ^ 88 + launch % 2 ^ 32 * 2 ^ 96 + payload % 2 ^ 128 * 2 ^ 128)

/-- A record is dropped and counted (R387). -/
def State.pealDrop (s : State) (p tile : Nat) : State :=
  (s.modPart p fun q => { q with pealDrops := if q.pealDrops = BitVec.allOnes 32 then q.pealDrops else q.pealDrops + 1, pealLost := q.pealLost + 1 }).countArg
    p 10 tile 1 fun _ => true

/-- Stages a record: behind what is there, but the records of one clock stand in order of SOURCE, then EVENT (R389). -/
def stagePeal (c : Nat) (r : BitVec 256) : List (Nat × BitVec 256) → List (Nat × BitVec 256)
  | [] => [(c, r)]
  | x :: rest =>
    let key (r : BitVec 256) : Nat := bits r 67 64 * 256 + bits r 79 72
    if x.1 = c && key r < key x.2 then (c, r) :: x :: rest else x :: stagePeal c r rest
/-- A record of a tile of partition `p` goes to the tile's staging queue, or is dropped when the queue is at its cap (R162, R331, R387). -/
def State.pealStage (s : State) (t : TileNo) (p : Nat) (r : BitVec 256) : State :=
  if !(s.tile t).qTakes 5 2 then s.pealDrop p t.toNat
  else (s.modTile t fun u => { u with queueAdded := true, pealQ := stagePeal s.clock r u.pealQ }).later { op := .pealRecord, ev := { tile := t, num := p } }
/-- A record of a tile. Peal staging takes its entries last in a clock (R330): before the late part the record waits behind the clock's other queues. -/
def State.pealTile (s : State) (t : TileNo) (source event launch payload : Nat) : State :=
  match s.partOf t with
  | none => s
  | some p =>
    let r := pealRec s.fabric source event t.toNat launch payload
    if !(s.part p).pealSrc.getLsbD source then s
    else if s.late then s.pealStage t p r
    else { s with queueQ := s.queueQ ++ [{ op := .pealRecord, ev := { tile := t, num := p, aux := 2, wide := r.setWidth 512 } }] }
/-- A record of a router, the sequencer or the dispatcher (`tile` 0xFF for the hub). -/
def State.pealHub (s : State) (p : Nat) (source event tile launch payload : Nat) : State :=
  if !(s.part p).pealSrc.getLsbD source then s
  else (s.modPart p fun q => { q with hubPeal := stagePeal s.clock (pealRec s.fabric source event tile launch payload) q.hubPeal }).later
    { op := .pealRecord, ev := { num := p, aux := 1 } }

end Sys2Proof.Machine
end

