-- ==== Sys2Proof/Machine/Rows.lean ====
section
/-! DEFINITION. Row loads and stores, local atomics, row registers, spill memory, the constant bank, FENCE and MARK, and the performing of
row accesses (R50 to R52, R62, R63, R70, R71, R78 to R86, R142 to R147, R151 to R154, R363). -/
namespace Sys2Proof.Machine

/-! ## Row loads and stores (R142 to R144) -/

/-- Whether an S-space row lies in the issuing tile's slice, or in its cluster (R50). -/
def State.isLocal (s : State) (a : Nat) : Bool := keyTile a = s.ct
def State.inCluster (s : State) (a : Nat) : Bool := clusterOf (keyTile a) = clusterOf s.ct
/-- The latency of a row load of a fixed class (R144). -/
def State.loadLat (s : State) (a : Nat) : Option Nat := if s.isLocal a then some 4 else if s.inCluster a then some 8 else none
/-- Whether a location lies on the issuing stream's die (R78). -/
def State.ownDie (s : State) (k : Nat) : Bool := keyIsS k && dieOf (keyTile k) = dieOf s.ct
/-- Acquire and release of a qualifier literal (R106). -/
def qualAcq : Option Qual → Bool
  | some q => q.ord ≠ .release
  | none => false
def qualRel : Option Qual → Option (BitVec 3)
  | some q => if q.ord = .acquire then none else some q.scope
  | none => none

/-- An S-space row of an instruction: address faults trap, and a channel's rows at or above WM wait or trap (R77, R295). -/
def State.withRow (s : State) (r : AddrRes) (k : Nat → State → Out) : Out :=
  match r with
  | .error e => s.trapAddrRes e
  | .ok a => match s.chanGate a with
    | .poisoned => s.trapAddr cCHANNEL_POISONED (BitVec.ofNat 64 a)
    | .wait => s.stall rFE_WAIT
    | .free => k a s

/-- A plain load of a fixed latency that comes to its row no later than clock `n`, and so before a load that comes there in that clock. -/
def Access.timely (n : Nat) (e : Access) : Bool := e.isLoad && !e.isStore && !e.acq && e.due.any fun d => d ≤ n
/-- Whether a new load of a fixed latency `lat` may issue: no earlier access that is not yet performed can come behind it (R144). Loads of one fixed
latency follow one another through the banks and need no wait, nor does a peer's row wait for one of the own slice; a row of the own slice waits
until an earlier load of a peer's row has been performed, since the mesh may delay that one. -/
def State.mayNow (s : State) (lat : Nat) (a : Access) : Bool :=
  ({ a with id := s.nextId } : Access).mayPerform s.ct s.cur (s.cur.accs.filter fun e => !(e.timely (s.clock + lat - 1) && (lat = 8 || s.isLocal e.key)))

/-- Issues a load into an interlocked result (R15). -/
def State.loadAwait (s : State) (q : QReg) (a : Access) (minLand : Nat) : State :=
  let id := s.nextId
  (s.await [.q q] [id + 1] true minLand a.addr).issueAccess { a with sink := some id }
/-- Issues a load of a fixed latency `lat`: it comes to its bank in the last clock before it lands; a peer's row may come late by a free time (R16,
R17, log entry 57). -/
def State.issueFixed (s : State) (lat : Nat) (a : Access) : State :=
  let due := s.clock + lat - 1
  let late := if s.isLocal a.key then 0 else Config.freeDelay s.fresh
  ((s.modCur fun z => { z with accs := z.accs ++ [{ a with id := s.nextId, due := some due, lane := z.pc }] }).bump.bumpFresh).atClock (due + late)
    { op := .loadPerformed, ev := { tile := s.ct, st := s.cs, id := s.nextId } }
/-- Issues a load of a fixed latency into a result in flight: the value lands with its row (R12, R16). -/
def State.loadFlight (s : State) (d : Dest) (lat : Nat) (as : List Access) : State :=
  let id := s.nextId
  let s := (s.modCur fun z =>
    { z with flights := z.flights ++ [{ id := id, dest := d, land := s.now + lat, lane := z.pc, loads := (List.range as.length).map fun i => id + 1 + i }] }).bump
  as.foldl (fun s a => s.issueFixed lat { a with sink := some id }) s

/-- LDQ (R142, R144). -/
def execLdq (q : QReg) (m : BitVec 3) (b : Reg) (i : BitVec 13) (ql : Option Qual) (s : State) : Out :=
  s.guard onCF (.q q :: baseNames m b) fun s => s.withRow (s.rowAddr m b i) fun a s =>
    let acc : Access := { key := a, ownDie := s.ownDie a, acq := qualAcq ql, addr := BitVec.ofNat 64 a }
    match s.loadLat a with
    | some lat =>
      if 16 ≤ s.cur.flights.length || !s.mayNow lat acc then s.stall rINTERLOCK
      else (s.loadFlight (.q q) lat [acc]).done
    | none =>
      if s.cur.flights.any fun f => f.dest = .q q then s.stall rINTERLOCK
      else (s.loadAwait q acc 0).done

/-- LDQ.W and LDQ.WC (R63, R143): the stream waits until the load has been performed; the result lands no earlier than LDQ's would. -/
def State.loadFull (s : State) (fe : FullEmpty) (q : QReg) (m : BitVec 3) (b : Reg) (i : BitVec 13) (ql : Option Qual) : Out :=
  if s.cur.issuedWait.any fun k => s.cur.accs.any fun a => a.id = k then s.stall rFE_WAIT
  else if s.cur.issuedWait.isSome then s.done
  else s.guardI onCF (.q q :: baseNames m b) [.q q] fun s => s.withRow (s.rowAddr m b i) fun a s =>
    let acc : Access :=
      { isStore := fe = .fullClear, key := a, ownDie := s.ownDie a, fe := fe, acq := qualAcq ql, rel := qualRel ql, addr := BitVec.ofNat 64 a }
    let id := s.nextId + 1
    ((s.loadAwait q acc (s.now + (s.loadLat a).getD 0)).modCur fun z => { z with issuedWait := some id }).stall rFE_WAIT
def execLdqW (q : QReg) (m : BitVec 3) (b : Reg) (i : BitVec 13) (ql : Option Qual) (s : State) : Out := s.loadFull .full q m b i ql
def execLdqWc (q : QReg) (m : BitVec 3) (b : Reg) (i : BitVec 13) (ql : Option Qual) (s : State) : Out := s.loadFull .fullClear q m b i ql

/-- Issues a store. -/
def State.store (s : State) (k : Nat) (addr : Word) (r : Row) (ql : Option Qual) : State :=
  s.issueAccess { isLoad := false, isStore := true, key := k, ownDie := s.ownDie k, data := r, rel := qualRel ql, addr := addr }
/-- STQ: q[q] is read at issue (R143). -/
def execStq (q : QReg) (m : BitVec 3) (b : Reg) (i : BitVec 13) (ql : Option Qual) (s : State) : Out :=
  s.guard onCF (.q q :: baseNames m b) fun s => s.withRow (s.rowAddr m b i) fun a s => (s.store a (BitVec.ofNat 64 a) (s.q q) ql).done

/-- A G-space access has issued: its address and row registers stay as the stream read them then, while it waits for its translation (R143, R362). -/
def State.gIssue (s : State) (q1 q2 : QReg) (b : Reg) (i : BitVec 13) : GHold := s.cur.gHold.getD { va := s.addrG b i, q1 := s.q q1, q2 := s.q q2 }
/-- A G-space row of an instruction: the stream waits for a walk, and a translation fault traps (R75, R362). -/
def State.withG (s : State) (h : GHold) (rd wr : Bool) (k : Phys → State → Out) : Out :=
  match s.gResolve h.va rd wr with
  | .ok p => k p s
  | .fault sub => s.trapG h.va sub
  | .walk => (s.modCur fun z => { z with gHold := some h }).startWalk h.va rd wr
/-- LDG (R142). -/
def execLdg (q : QReg) (b : Reg) (i : BitVec 13) (ql : Option Qual) (s : State) : Out :=
  s.guardI onCF [.x b] [.q q] fun s =>
    let h := s.gIssue q q b i
    s.withG h true false fun p s => (s.loadAwait q { key := p.key, ownDie := false, acq := qualAcq ql, addr := h.va } 0).done
/-- STG (R142). -/
def execStg (q : QReg) (b : Reg) (i : BitVec 13) (ql : Option Qual) (s : State) : Out :=
  s.guard onCF [.q q, .x b] fun s =>
    let h := s.gIssue q q b i
    s.withG h false true fun p s => (s.store p.key h.va h.q1 ql).done

/-! ## Local atomics (R151 to R153) -/

/-- An indivisible read and write of a row, interlocked on q[q] (R86, R151). -/
def State.atomic (s : State) (q : QReg) (m : BitVec 3) (b : Reg) (i : BitVec 13) (names : List Dest) (qn : QReg) (ql : Option Qual) (r : Row → Row → Rmw) : Out :=
  s.guardI onCF (names ++ baseNames m b) [.q q] fun s =>
    let acc (w : Rmw) (k : Nat) (own : Bool) (addr : Word) : Access :=
      { isStore := true, key := k, ownDie := own, rmw := some w, acq := qualAcq ql, rel := qualRel ql, addr := addr }
    if m = 4 then
      let h := s.gIssue q qn b i
      s.withG h true true fun p s =>
        if p.host then s.trap cILLEGAL_USE else (s.loadAwait q (acc (r h.q1 h.q2) p.key false h.va) 0).done
    else s.withRow (s.rowAddr m b i) fun a s => (s.loadAwait q (acc (r (s.q q) (s.q qn)) a (s.ownDie a) (BitVec.ofNat 64 a)) 0).done
/-- AMO (R152). -/
def execAmo (q : QReg) (m : BitVec 3) (b : Reg) (i : BitVec 13) (op : BitVec 4) (w64 : Bool) (wm : BitVec 8) (ql : Option Qual) (s : State) : Out :=
  s.atomic q m b i [] q ql fun x _ => .amo op w64 wm x
/-- CAS (R153): both row registers are read at issue. -/
def execCas (q : QReg) (m : BitVec 3) (b : Reg) (i : BitVec 13) (qn : QReg) (wm : BitVec 8) (ql : Option Qual) (s : State) : Out :=
  s.atomic q m b i [.q qn] qn ql fun x y => .cas wm x y

/-! ## Row registers (R145) -/

def execQext (d : Reg) (a : QReg) (k : BitVec 3) (s : State) : Out :=
  s.guardX onCF [.x d, .q a] fun s => (s.setX d 1 (rowWord (s.q a) k.toNat)).done
def execQextX (d : Reg) (a : QReg) (b : Reg) (s : State) : Out :=
  s.guardX onCF [.x d, .q a, .x b] fun s => (s.setX d 1 (rowWord (s.q a) (bits (s.x b) 2 0))).done
def execQins (d : QReg) (a : Reg) (k : BitVec 3) (s : State) : Out :=
  s.guardX onCF [.q d, .x a] fun s => (s.setQ d 1 (setRowWord (s.q d) k.toNat (s.x a))).done
def execQinsX (d : QReg) (a b : Reg) (s : State) : Out :=
  s.guardX onCF [.q d, .x a, .x b] fun s => (s.setQ d 1 (setRowWord (s.q d) (bits (s.x b) 2 0) (s.x a))).done
/-- The 64 bytes that begin at byte `k` of two rows laid end to end (R145). -/
def rotMerge (a b : Row) (k : Nat) : Row := BitVec.ofNat 512 ((a.toNat + b.toNat * 2 ^ 512) >>> (8 * k))
def execQrotm (d a b : QReg) (c : Reg) (s : State) : Out :=
  s.guardX onCF [.q d, .q a, .q b, .x c] fun s => (s.setQ d 1 (rotMerge (s.q a) (s.q b) (bits (s.x c) 5 0))).done
def execQmov (d a : QReg) (s : State) : Out := s.guardX onCF [.q d, .q a] fun s => (s.setQ d 1 (s.q a)).done

/-! ## Spill memory and constant bank (R70, R71, R146, R147) -/

/-- A spill store of the current tick: it is visible to loads of the next (R70). -/
def State.spillStore (s : State) (off n : Nat) (v : VRow) : State := s.modMe fun u => { u with spillPend := u.spillPend ++ [(off, n, v)] }
def execLds (d : Reg) (i : BitVec 14) (s : State) : Out :=
  s.guardX onCF [.x d] fun s => s.reading [eccSpill i.toNat] (zext64 s.cur.pc) fun s =>
    (s.setX d 1 (BitVec.ofNat 64 (Mem.readN s.me.spill (8 * i.toNat) 8))).done
def execSts (a : Reg) (i : BitVec 14) (s : State) : Out :=
  s.guard onCF [.x a] fun s => (s.spillStore (8 * i.toNat) 8 ((s.x a).setWidth 4096)).done
/-- R147. -/
def execLdc (d a : Reg) (i : BitVec 14) (s : State) : Out :=
  s.guardX onCF [.x d, .x a] fun s =>
    let k := (s.x a + sext64 i).toInt
    if k < 0 || 16383 < k then s.trap cILLEGAL_USE
    else s.reading [eccConst k.toNat] (zext64 s.cur.pc) fun s => (s.setX d 2 (zext64 (Map.get 0 s.me.cbank k.toNat))).done

/-! ## FENCE and MARK (R82, R84, R154) -/

/-- R84: the stream is held until the condition of FENCE holds; waiting for the fabric is sampled as remote acknowledgment. -/
def execFence (c : BitVec 3) (s : State) : Out :=
  s.guard onAll [] fun s =>
    if s.cur.fenced s.ct c.toNat then s.done
    else if s.cur.accs.all fun a => a.fenceOk s.ct c.toNat then s.stall rREMOTE_ACK
    else s.stall rFENCE
/-- R82. -/
def execMark (s : State) : Out := s.guard onAll [] fun s => if s.cur.marked then s.done else s.stall rMARK

/-! ## Performing (R51, R78 to R80, R63, R151) -/

/-- A stream that holds access `n`. -/
def Strm.holds (z : Strm) (n : Nat) : Bool := z.accs.any fun a => a.id = n
/-- The stream of a tile that holds access `n`: of the resident unit, or of one saved from there whose store is still on its way (R95). -/
def State.strmWith (s : State) (t : TileNo) (st : Stream) (n : Nat) : Strm :=
  if (s.strmOf t st).holds n then s.strmOf t st
  else ((s.saved.find? fun x => x.tileNo = t && (x.tile.strm st).holds n).map fun x => x.tile.strm st).getD {}
/-- Changes that stream. -/
def State.modStrmWith (s : State) (t : TileNo) (st : Stream) (n : Nat) (f : Strm → Strm) : State :=
  if (s.strmOf t st).holds n then s.modStrmOf t st f
  else { s with saved := s.saved.map fun (x : Saved) => if x.tileNo = t && (x.tile.strm st).holds n then { x with tile := x.tile.modStrm st f } else x }
/-- The stream's access that an event names; number 0 is that of no access. -/
def State.accOf (s : State) : Option Access := if s.ev.id = 0 then none else (s.strmWith s.ev.tile s.ev.st s.ev.id).accs.find? fun a => a.id = s.ev.id
/-- Whether it may be performed now. -/
def State.accMay (s : State) (a : Access) : Bool :=
  let z := s.strmWith s.ev.tile s.ev.st a.id
  a.mayPerform s.ev.tile z (z.before a.id)
/-- Removes it from the stream's queues. -/
def State.accDone (s : State) (a : Access) : State := s.modStrmWith s.ev.tile s.ev.st a.id fun z => { z with accs := dropAccess a.id z.accs }

/-- Whether a load that waits for full granules came to the row before this one (R63). -/
def State.feAhead (s : State) (a : Access) : Bool :=
  s.tiles.any fun p => allStreams.any fun st => (p.2.strm st).accs.any fun e =>
    e.key = a.key && e.id ≠ a.id && e.atHome.any fun n => a.atHome.all fun m => n < m
/-- Whether a load that has come to its row finds the granules as it needs them: the first to come is the first to take them (R63). -/
def State.feTakes (s : State) (a : Access) : Bool := a.fe = .plain || (s.rowFull a.key && !s.feAhead a)
/-- A load has come to its row and waits there: it takes the next number in order of arrival, once (R63). -/
def State.stayHome (s : State) (t : TileNo) (st : Stream) (a : Access) : State :=
  if a.atHome.isSome then s
  else (s.modStrmOf t st fun z => { z with accs := z.accs.map fun e => if e.id = a.id then { e with atHome := some s.nextId } else e }).bump
/-- A load's read meets an uncorrectable error: it writes no value, and its stream takes an asynchronous trap (R363). Where the
result lies in a trap frame, it lands no more and the trap comes at the tick at which it would have (R358). -/
def State.loadError (s : State) (t : TileNo) (st : Stream) (a : Access) : State :=
  let s := (s.accDone a).modStrmOf t st fun z =>
    let fault (due : Nat) : Async := { due := due, code := cMEM_UNCORRECTABLE, addr := a.addr, info := zext64 a.lane }
    let kept := z.frame.flights.find? fun f => some f.id = a.sink
    { z with
      awaits := z.awaits.filter fun w => some w.id ≠ a.sink
      pending := z.pending.filter fun d => !(z.awaits.any fun w => some w.id = a.sink && w.dests.contains d)
      flights := z.flights.filter fun f => some f.id ≠ a.sink
      frame := { z.frame with
        flights := z.frame.flights.filter fun f => some f.id ≠ a.sink
        asyncs := z.frame.asyncs ++ (kept.map fun f => fault f.land).toList }
      asyncs := if kept.isSome then z.asyncs else z.asyncs ++ [fault (((z.flights.find? fun f => some f.id = a.sink).map Flight.land).getD 0)] }
  let s := if (s.tile t).stretched then s.post { op := .stretchEnd, ev := { tile := t } } else s
  s.post { op := .asyncTrap, ev := { tile := t, st := st } }
/-- R17: a load of a fixed latency that comes to a bank of its own slice in which an engine or a delivery works loses one clock, and wins the next. -/
def State.bankLost (s : State) (a : Access) : Bool :=
  a.due = some s.clock && keyTile a.key = s.ev.tile && s.bankUse.contains (s.clock, bankNo a.key)
/-- An HBM address that CXL.mem exposes: in HBM and outside the machine-reserved region (R399; log entry 89). -/
def State.exposed (s : State) (pa : Nat) : Bool := s.inHbm pa && !Config.machineReserved pa
/-- A load by the host of the row at physical address `w0` of HBM (R399): device-coherent, so that it reads what the stores performed so far have
written. A row with an uncorrectable error, or outside what is exposed, gives no data. -/
def State.hostLoad (s : State) (pa : Nat) : State :=
  if !s.ide then s
  else if !s.exposed pa then { s with hostData := none }
  else
    let k := rowOf (keyHbm pa)
    match Map.find s.ecc k with
    | some true => { s.report cMEM_UNCORRECTABLE 256 with hostData := none }
    | some false => { s.report cMEM_CORRECTED 256 with hostData := some (s.row k), ecc := Map.del s.ecc k }
    | none => { s with hostData := some (s.row k) }
/-- LOAD_PERFORMED: the value of a row load is bound, with the write of an indivisible operation in the same step (R63, R78, R80, R86). With `id` 0 and `num` 4 it
is the host's load (R399, log entry 1). -/
def execLoadPerformed (s : State) : Out :=
  match s.accOf with
  | none => .next (if s.ev.id = 0 && s.ev.num = 4 then s.hostLoad s.ev.w0.toNat else s)
  | some a =>
    let t := s.ev.tile
    let st := s.ev.st
    if !s.accMay a then .next (s.retry .loadPerformed)
    else if !s.feTakes a then
      .next ((s.stayHome t st a).retry .loadPerformed)
    else if s.bankLost a then .next ({ s with bankWon := s.bankWon ++ [(s.clock + 1, bankNo a.key)] }.retry .loadPerformed)
    else match forward ((s.strmWith t st a.id).before a.id) a with
      | some r => .next ((s.accDone a).deliver t st a r)
      | none => match s.readRows t [a.key] with
        | (s, true) => .next (s.loadError t st a)
        | (s, false) =>
          let s := (s.accDone a).deliver t st a (s.row a.key)
          match a.rmw with
          | some w => match w.apply (s.row a.key) with
            | some v => .next (s.putRow a.key v)
            | none => .next s
          | none => if a.fe = .fullClear then .next (s.emptyRow a.key) else .next s

/-- A store by the host (R88, R399): the `aux` low bytes of `wide`, at most a row, at physical address `w0` of HBM that is exposed, or with
`num` 2 of its own memory. Its step is its CXL completion; the link does not answer while IDE is not established (R399). -/
def State.hostStore (s : State) (e : EvArgs) : State :=
  let n := min e.aux 64
  let pa := e.w0.toNat
  if !s.ide then s
  else if e.num = 2 then s.putBytes (keyHost pa) n e.wide.toNat
  else if e.num = 1 && (List.range n).all (fun i => s.exposed (pa + i)) then s.putBytes (keyHbm pa) n e.wide.toNat
  else s
/-- An addition to word 0 of the row at a key as a step of its own; it waits for the RSTQ.NA of stream `st` with numbers below `na` (R91). -/
def addStep (t : TileNo) (st : Stream) (na key : Nat) (n : Word) : Act :=
  { op := .storePerformed, ev := { tile := t, st := st, num := 3, aux := na, wide := BitVec.ofNat 512 key, w0 := n } }
/-- Adds to word 0 of the row at a key, indivisibly (R86, R165); at the edge of a frozen tile the addition waits (R336). -/
def State.addWord (s : State) (key : Nat) (n : Word) : State :=
  if keyIsS key && (s.tile (keyTile key)).frozen then
    s.modTile (keyTile key) fun u => { u with held := u.held ++ [addStep (keyTile key) .C 0 key n] }
  else s.putBytes (rowOf key) 8 (Mem.word s.mem (rowOf key) + n).toNat
/-- The step of such an addition. -/
def State.additionStep (s : State) : State :=
  if (s.strmOf s.ev.tile s.ev.st).naOut.any fun n => n < s.ev.aux then s.retry .storePerformed else s.addWord s.ev.wide.toNat s.ev.w0
/-- STORE_PERFORMED: a row store is written at its home; one for another die is first accepted at the bridge (R78, R79, R82). A barrier
arrival is sent to its home (R158). With `id` 0 it is the host's store, or with `num` 3 a completion action's addition (R88, R91, log entry 1). -/
def execStorePerformed (s : State) : Out :=
  match s.accOf with
  | none => .next (if s.ev.id ≠ 0 then s else if s.ev.num = 3 then s.additionStep else s.hostStore s.ev)
  | some a =>
    if !s.accMay a then .next (s.retry .storePerformed)
    else if !a.ownDie && !a.bridged then
      .next ((s.modStrmWith s.ev.tile s.ev.st a.id fun z => { z with accs := z.accs.map fun e => if e.id = a.id then { e with bridged := true } else e }).later
        { op := .storePerformed, ev := s.ev })
    else match a.arrive with
      | some r => .next ((s.accDone a).send (.arrival r) .barrierArrival r.home)
      | none => .next ((s.accDone a).putRow a.key a.data)

end Sys2Proof.Machine
end

