-- ==== Sys2Proof/Machine/Buffers.lean ====
section
/-! DEFINITION. Circular buffers, named barriers, status registers and EVT (R73, R74, R148 to R150, R155 to R162). -/
namespace Sys2Proof.Machine

/-! ## Circular buffers (R74, R148 to R150) -/

/-- Filled slots (R74). -/
def CircBuf.filled (c : CircBuf) : Nat := (c.prod.toNat + 2 * c.nSlots.toNat - c.cons.toNat) % (2 * c.nSlots.toNat)
/-- Whether a stream of the tile waits on a buffer. -/
def Tile.cbWaited (t : Tile) (n : Nat) : Bool := allStreams.any fun st => (t.strm st).stall = rCB_WAIT && (t.strm st).waitN = some n
/-- CBINIT (R149). -/
def execCbinit (c : BitVec 3) (a : Reg) (s : State) : Out :=
  s.guard onAll [.x a] fun s =>
    let w := s.x a
    let b : CircBuf := { slotRows := BitVec.ofNat 8 (bits w 52 45), nSlots := BitVec.ofNat 8 (bits w 44 37), baseRow := BitVec.ofNat 17 (bits w 18 2), valid := true }
    if b.nSlots = 0 || 98304 < b.baseRow.toNat + b.nSlots.toNat * b.slot || s.me.cbWaited c.toNat then s.trap cILLEGAL_USE
    else (s.modMe fun u => { u with cbs := Map.set u.cbs c.toNat b }).done
/-- A wait on a buffer as the current tick found it (R74, R150): on slots filled, or free. -/
def State.cbWait (s : State) (c : BitVec 3) (n : Nat) (full : Bool) : Out :=
  s.guard onAll [] fun s =>
    let b := Map.get {} s.me.cbs c.toNat
    let b0 := if (Map.get {} s.me.cbs0 c.toNat : CircBuf).valid then Map.get {} s.me.cbs0 c.toNat else b
    if !b.valid || b.nSlots.toNat < n then s.trap cILLEGAL_USE
    else if n ≤ (if full then b0.filled else b0.nSlots.toNat - b0.filled) then s.done
    else (s.modCur fun z => { z with waitN := some c.toNat }).stall rCB_WAIT
def execCbwaitf (c : BitVec 3) (n : BitVec 14) (s : State) : Out := s.cbWait c n.toNat true
def execCbwaite (c : BitVec 3) (n : BitVec 14) (s : State) : Out := s.cbWait c n.toNat false
/-- CBADV (R94, R149): the producer side is a release at tile scope, which holds the stream as FENCE tile does; the consumer side waits for the earlier
loads. DESIGN CHOICE (log entry 84): R74's limits are checked at each try, and so before the wait; the spec gives no moment. -/
def execCbadv (c : BitVec 3) (p : Bool) (k : BitVec 8) (s : State) : Out :=
  s.guard onAll [] fun s =>
    let b := Map.get {} s.me.cbs c.toNat
    let n := 2 * b.nSlots.toNat
    if !b.valid || (if p then b.nSlots.toNat < b.filled + k.toNat else b.filled < k.toNat) then s.trap cILLEGAL_USE
    else if (if p then !s.cur.fenced s.ct 1 else s.cur.accs.any Access.isLoad) then s.stall rFENCE
    else
      let b := if p then { b with prod := BitVec.ofNat 9 ((b.prod.toNat + k.toNat) % n) } else { b with cons := BitVec.ofNat 9 ((b.cons.toNat + k.toNat) % n) }
      (s.modMe fun u => { u with cbs := Map.set u.cbs c.toNat b }).done

/-! ## Named barriers (R155 to R159) -/

/-- The home of a barrier instruction (R156). -/
def State.home (s : State) (a : Reg) (r : Bool) : TileNo := if r then (s.x a).setWidth 8 else s.ct
/-- The mark of a stream that waits on barrier `i` of a home tile. -/
def barKey (home : TileNo) (i : BitVec 7) : Nat := 2 ^ 40 + home.toNat * 128 + i.toNat
/-- Whether any stream waits on a barrier. -/
def State.barWaited (s : State) (home : TileNo) (i : BitVec 7) : Bool :=
  s.tiles.any fun p => allStreams.any fun st => (p.2.strm st).stall = rBARRIER && (p.2.strm st).waitN = some (barKey home i)
/-- One arrival is counted; the last of a phase completes it (R158). -/
def Barrier.arrive (b : Barrier) : Barrier :=
  if b.count + 1 = b.expect then { b with count := 0, phase := b.phase + 1 } else { b with count := b.count + 1 }
/-- BARINIT (R157): then counts the arrivals held for the barrier. -/
def execBarinit (a : Reg) (c : BitVec 3) (i : BitVec 7) (s : State) : Out :=
  s.guard onAll [.x a] fun s =>
    let b : Barrier := Map.get {} s.me.bars i.toNat
    let e := (s.x a).toNat
    if e = 0 || 65535 < e || (b.valid && (b.count ≠ 0 || s.barWaited s.ct i)) then s.trap cILLEGAL_USE
    else
      let b : Barrier := { valid := true, scope := c, expect := BitVec.ofNat 16 e }
      let held := s.me.barQ.filter fun r => r.idx = i.toNat
      (s.modMe fun u =>
        { u with bars := Map.set u.bars i.toNat (held.foldl (fun b _ => b.arrive) b), barQ := u.barQ.filter fun r => r.idx ≠ i.toNat }).done
/-- BARARR (R158): the arrival acts as a store with release at the barrier's scope, or at fabric scope when the barrier is not VALID. -/
def execBararr (a : Reg) (r : Bool) (i : BitVec 7) (s : State) : Out :=
  s.guard onAll [.x a] fun s =>
    let home := s.home a r
    match s.tileFault s.ct home with
    | some c => s.trap c
    | none =>
      let b : Barrier := Map.get {} (s.tile home).bars i.toNat
      (s.issueAccess
        { isLoad := false, isStore := true, key := 2 ^ 120 + barKey home i, ownDie := false, bridged := true
          rel := some (if b.valid then b.scope else 6)
          arrive := some { home := home, idx := i.toNat, launch := s.me.launchNo, tile := s.ct, st := s.cs } }).done
/-- BARWAIT (R159). DESIGN CHOICE (log entry 68): the spec gives no time in which a remote home's PHASE reaches the waiting stream; here the stream sees
the home as it is at its slot. -/
def execBarwait (d a : Reg) (r : Bool) (i : BitVec 7) (s : State) : Out :=
  s.guard onAll [.x a, .x d] fun s =>
    let home := s.home a r
    match s.tileFault s.ct home with
    | some c => s.trap c
    | none =>
      let b : Barrier := Map.get {} (s.tile home).bars i.toNat
      if b.valid && b.phase ≠ (s.x d).setWidth 16 then s.done
      else (s.modCur fun z => { z with waitN := some (barKey home i) }).stall rBARRIER
/-- BARRIER_ARRIVAL (R158, R331): parked without a resident unit of the launch, resent when the queue is at its cap, held for a barrier that
is not VALID, else counted. DESIGN CHOICE (log entry 69): R158 says what becomes of an arrival parked when its launch completes, and not of one that
comes later; it is discarded and counted likewise. -/
def execBarrierArrival (s : State) : Out :=
  match Map.find s.msgs s.ev.id with
  | some (.arrival a) =>
    let s := s.unsend s.ev.id
    let u := s.tile a.home
    let b : Barrier := Map.get {} u.bars a.idx
    if (Map.get {} s.launches a.launch : Launch).status ≠ 0 then .next (s.countAt a.home 8 1)
    else if u.unit.isNone || u.launchNo ≠ a.launch then .next (s.modTile a.home fun u => { u with parked := u.parked ++ [.arrival a] })
    else if !u.qTakes 4 1 then
      .next (({ s with msgs := Map.set s.msgs s.nextId (.arrival a) }).bump.atClock (s.clock + 64) { op := .barrierResend, ev := { tile := a.tile, id := s.nextId } })
    else if !b.valid then .next ((s.modTile a.home fun u => { u with barQ := u.barQ ++ [a], queueAdded := true }))
    else .next (s.modTile a.home fun u => { u with bars := Map.set u.bars a.idx b.arrive })
  | _ => .next s
/-- BARRIER_RESEND (R158): 64 tile clocks later the sender's tile sends the arrival again. -/
def execBarrierResend (s : State) : Out :=
  match Map.find s.msgs s.ev.id with
  | some (.arrival a) => .next ((s.unsend s.ev.id).send (.arrival a) .barrierArrival a.home)
  | _ => .next s

/-! ## Status registers and events (R160 to R162) -/

/-- A circular buffer as CSRR reads it (R73). -/
def CircBuf.word (c : CircBuf) : Word :=
  BitVec.ofNat 64 (c.slotRows.toNat * 2 ^ 45 + c.nSlots.toNat * 2 ^ 37 + c.prod.toNat * 2 ^ 28 + c.cons.toNat * 2 ^ 19 + c.baseRow.toNat * 4)
    ||| ofBool c.valid
/-- A barrier as CSRR reads it (R155). -/
def Barrier.word (b : Barrier) : Word :=
  ofBool b.valid <<< 63 ||| BitVec.ofNat 64 (b.scope.toNat * 2 ^ 48 + b.expect.toNat * 2 ^ 32 + b.count.toNat * 2 ^ 16 + b.phase.toNat)
/-- A status register (R160), none for a number outside the table. -/
def State.csr (s : State) (n : Nat) : Option Word :=
  let u := s.me
  if n = 0 then some (zext64 s.cur.flags)
  else if n = 1 then some (zext64 u.vtype)
  else if n = 2 then some (BitVec.ofNat 64 u.ttick)
  else if n = 3 then some (BitVec.ofNat 64 (streamNo s.cs))
  else if n = 4 then some (zext64 s.ct)
  else if n = 5 then some (zext64 u.vwbase)
  else if 0x10 ≤ n && n ≤ 0x17 then some (Map.get {} u.cbs (n - 0x10) : CircBuf).word
  else if 0x20 ≤ n && n ≤ 0x37 then some (u.bankFmt (n - 0x20))
  else if 0x100 ≤ n && n ≤ 0x17F then some (Map.get {} u.bars (n - 0x100) : Barrier).word
  else none
/-- CSRR (R160). -/
def execCsrr (d : Reg) (i : BitVec 14) (s : State) : Out :=
  s.guardX onAll [.x d] fun s =>
    match s.csr i.toNat with
    | some w => (s.setX d 1 w).done
    | none => s.trap cILLEGAL_USE
/-- CSRW (R160, R161): FLAGS changes at the next tick; a write to any other register is ignored (R3). -/
def execCsrw (a : Reg) (i : BitVec 14) (s : State) : Out :=
  s.guard onAll [.x a] fun s =>
    if (s.csr i.toNat).isNone then s.trap cILLEGAL_USE
    else if i = 0 then (s.modCur fun z => { z with delayed := z.delayed ++ [.flags (z.xr a) (s.now + 1)] }).done
    else s.done
/-- EVT (R162, R388): a user record, never waiting. -/
def execEvt (a : Reg) (i : BitVec 14) (s : State) : Out :=
  s.guard onAll [.x a] fun s =>
    (s.pealTile s.ct 0 0 s.me.launchNo
      ((s.x a).toNat + i.toNat % 2 ^ 13 * 2 ^ 64 + streamNo s.cs * 2 ^ 82 + s.now % 2 ^ 44 * 2 ^ 84)).done

end Sys2Proof.Machine
end

