-- ==== Sys2Proof/Machine/Rimshot.lean ====
section
/-! DEFINITION. Rimshot: tags, the matching stores of the routers, delivery, and the tag instructions (R268 to R283). -/
namespace Sys2Proof.Machine

/-! ## Tags (R268 to R270) -/

/-- A tag of the package. -/
def State.tag (s : State) (n : Nat) : Tag := Map.get {} s.tags n
/-- Changes a tag. -/
def State.modTag (s : State) (n : Nat) (f : Tag → Tag) : State := { s with tags := Map.set s.tags n (f (s.tag n)) }
/-- TAG and GEN of a tag word (R268). -/
def tagNo (w : Word) : Nat := bits w 19 0
def tagGen (w : Word) : BitVec 4 := BitVec.ofNat 4 (bits w 23 20)
/-- The tag word of a tag at a generation. -/
def tagWord (n : Nat) (g : BitVec 4) : Word := BitVec.ofNat 64 (n + g.toNat * 2 ^ 20)
/-- The home cluster of a tag. -/
def tagCluster (n : Nat) : Nat := n / 2 ^ 15 % 32
/-- The partition that owns a tag's home cluster. -/
def State.tagPart (s : State) (n : Nat) : Option Nat := findFrom (fun p => (s.part p).formed && (s.part p).clusters.getLsbD (tagCluster n)) 0 8
/-- The meeting router (R270). -/
def meetingRouter (n : Nat) : TileNo := BitVec.ofNat 8 (((n * 0x6B43A9B5) % 2 ^ 32) >>> 24)
/-- Whether a tag word names a live tag at its current generation. -/
def State.tagLive (s : State) (w : Word) : Bool := (s.tag (tagNo w)).live && (s.tag (tagNo w)).gen = tagGen w
/-- Fields of a binding (R269). -/
def bOp (b : Word) : Nat := bits b 50 48
def bNm1 (b : Word) : Nat := bits b 47 45
def bDtag (b : Word) : Bool := bitAt b 44
def bTimeout (b : Word) : Nat := bits b 43 32
def bDest (b : Word) : Nat := bits b 31 0

/-! ## Combining (R271) -/

/-- One lane of a combine: left and right. -/
def combineLane (op l r : Nat) : Nat × Flags :=
  match op with
  | 0 => fp32.result ((fp32.decode l).add (fp32.decode r))
  | 1 => fp32.rne ((fp32.decode l).minMax true (fp32.decode r))
  | 2 => fp32.rne ((fp32.decode l).minMax false (fp32.decode r))
  | 3 => bf16.result ((bf16.decode l).add (bf16.decode r))
  | 4 => ((l + r) % 2 ^ 32, 0)
  | _ => (if sgn 32 l < sgn 32 r then r else l, 0)
/-- One shot row. -/
def combineRow (op : Nat) (l r : VRow) : VRow × Flags :=
  let w := if op = 3 then 16 else 32
  let xs := (List.range (4096 / w)).map fun i => combineLane op (laneBits l w i) (laneBits r w i)
  (rowOfLanes w (xs.map Prod.fst), xs.foldl (fun a x => a ||| x.2) 0)
/-- A pair: the left operand is that of the lower origin, which the result keeps. -/
def combineShots (op : Nat) (a b : Shot) : Shot × Flags :=
  let l := if b.origin.toNat < a.origin.toNat then b else a
  let r := if b.origin.toNat < a.origin.toNat then a else b
  let rs := (l.rows.zip r.rows).map fun p => combineRow op p.1 p.2
  ({ l with rows := rs.map Prod.fst, orphan := a.orphan || b.orphan, leaves := min 65535 (a.leaves + b.leaves), bounces := 0 },
   rs.foldl (fun f x => f ||| x.2) 0)

/-! ## Matching stores (R272 to R275) -/

/-- A router. -/
def State.router (s : State) (r : TileNo) : Router := Map.get {} s.routers r.toNat
/-- Changes a router. -/
def State.modRouter (s : State) (r : TileNo) (f : Router → Router) : State := { s with routers := Map.set s.routers r.toNat (f (s.router r)) }
/-- Changes an entry of a router's store. -/
def State.modEntry (s : State) (r : TileNo) (i : Nat) (f : MatchEntry → MatchEntry) : State :=
  s.modRouter r fun q => { q with entries := q.entries.map fun p => if p.1 = i then (p.1, f p.2) else p }
/-- Whether an entry is in use at a clock. -/
def MatchEntry.used (e : MatchEntry) (clock : Nat) : Bool := match e.freeAt with | some c => clock < c | none => true
/-- Whether entry `i` of a router is free. -/
def State.entryFree (s : State) (r : TileNo) (i : Nat) : Bool := !((Map.find (s.router r).entries i).any fun e => e.used s.clock)
/-- The lowest free entry. -/
def State.freeEntry (s : State) (r : TileNo) : Option Nat := findFrom (fun i => s.entryFree r i) 0 16
/-- Counts an event of a tag at a router (R283): 0 MATCH, 1 ORPHAN, 2 STALE, 3 BOUNCE, with its Peal record (R388). -/
def State.countRouter (s : State) (r : TileNo) (n kind : Nat) (w : Word) (origin : TileNo) : State :=
  match s.tagPart n with
  | none => s
  | some p =>
    let c := Map.get 0 (s.router r).counts (4 * p + kind)
    (s.modRouter r fun q => { q with counts := Map.set q.counts (4 * p + kind) (min (2 ^ 32 - 1) (c + 1)) }).pealHub p 5 kind r.toNat
      (s.tag n).launch (bits w 23 0 + origin.toNat * 2 ^ 24)
/-- The operand of a shot unit is accepted or dropped: its place is free and its result on its way (R281). -/
def State.answerShot (s : State) (sh : Shot) (status : Word) : State :=
  match (s.tile sh.holder).shots.find? fun o => o.id = sh.op with
  | none => s
  | some o => (s.modTile sh.holder fun u => { u with shots := u.shots.filter fun q => q.id ≠ sh.op }).resolveLater sh.holder o.st sh.op [status.setWidth 4096]
/-- An arrival is taken or dropped: the operand's sender is answered, or the entry that forwarded it is free from the next clock (R272). -/
def State.settleShot (s : State) (sh : Shot) (status : Word) : State :=
  if sh.fromRouter then s.modEntry sh.holder sh.entry fun e => { e with freeAt := some (s.clock + 1) } else s.answerShot sh status
/-- Forwards the result or orphan of entry `i` of a router to the destination of its tag's binding. -/
def State.forwardEntry (s : State) (r : TileNo) (i : Nat) : State :=
  match Map.find (s.router r).entries i with
  | none => s
  | some e =>
    let b := (s.tag (tagNo e.shot.tagw)).binding
    let sh := { e.shot with fromRouter := true, holder := r, entry := i }
    if bDtag b then
      let d := BitVec.ofNat 64 (bits b 23 0)
      s.send (.shot { sh with tagw := d } (meetingRouter (tagNo d))) .rimshotArrival (meetingRouter (tagNo d))
    else s.send (.deliver sh (keyTile (bDest b))) .delivery (keyTile (bDest b))
/-- The wait after the n-th bounce (R273). -/
def backOff (n : Nat) : Nat := 32 * 2 ^ min (n - 1) 5
/-- RIMSHOT_ARRIVAL (R272). -/
def execRimshotArrival (s : State) : Out :=
  match Map.find s.msgs s.ev.id with
  | some (.shot sh r) =>
    let s := s.unsend s.ev.id
    let n := tagNo sh.tagw
    let g := s.tag n
    let drop (st : Word) (s : State) : Out := .next ((s.countRouter r n 2 sh.tagw sh.origin).settleShot sh st)
    if !sh.fromRouter && (some sh.part ≠ s.tagPart n || (g.live && sh.launch ≠ g.launch)) then drop 3 s
    else if !s.tagLive sh.tagw then drop 1 s
    else if sh.rows.length ≠ bNm1 g.binding + 1 then drop 2 s
    else match (s.router r).entries.find? fun p => p.2.used s.clock && p.2.waiting && p.2.shot.tagw = sh.tagw with
      | some (i, e) =>
        let c := combineShots (bOp g.binding) e.shot sh
        let s := (s.modTag n fun g => { g with flags := g.flags ||| c.2 }).countRouter r n 0 sh.tagw c.1.origin
        .next (((s.modEntry r i fun e => { e with shot := c.1, waiting := false }).settleShot sh 0).forwardEntry r i)
      | none => match s.freeEntry r with
        | some i =>
          .next (((s.modRouter r fun q => { q with entries := Map.set q.entries i { shot := { sh with bounces := 0 }, since := s.clock } }).settleShot sh 0).atClock
            (s.clock + 256 * bTimeout g.binding) { op := .orphanTimeout, ev := { tile := r, id := i, num := s.clock } })
        | none =>
          let b := sh.bounces + 1
          .next ((({ s with msgs := Map.set s.msgs s.nextId (.shot { sh with bounces := b } r) }).bump.atClock (s.clock + backOff b)
            { op := .bounceResend, ev := { tile := r, id := s.nextId } }).countRouter r n 3 sh.tagw sh.origin)
  | _ => .next s
/-- BOUNCE_RESEND (R273): the item is sent again while its shot unit or its entry still holds it. -/
def execBounceResend (s : State) : Out :=
  match Map.find s.msgs s.ev.id with
  | some (.shot sh r) =>
    let s := s.unsend s.ev.id
    if sh.fromRouter || (s.tile sh.holder).shots.any fun o => o.id = sh.op then .next (s.send (.shot sh r) .rimshotArrival r) else .next s
  | _ => .next s
/-- ORPHAN_TIMEOUT (R274). -/
def execOrphanTimeout (s : State) : Out :=
  let r := s.ev.tile
  match Map.find (s.router r).entries s.ev.id with
  | some e =>
    if e.waiting && e.used s.clock && e.since = s.ev.num && s.ev.num + 256 * bTimeout (s.tag (tagNo e.shot.tagw)).binding ≤ s.clock then
      .next (((s.modEntry r s.ev.id fun e => { e with waiting := false, shot := { e.shot with orphan := true } }).countRouter r (tagNo e.shot.tagw) 1
        e.shot.tagw e.shot.origin).forwardEntry r s.ev.id)
    else .next s
  | none => .next s

/-! ## Delivery (R276, R277) -/

/-- Writes a delivery's rows, appends its record and frees its entry (R276). -/
def State.writeDelivery (s : State) (sh : Shot) : State :=
  let n := tagNo sh.tagw
  let a := bDest (s.tag n).binding
  let s := ((sh.rows.flatMap vrowRows).foldl (fun (p : State × Nat) r => ((p.1.usesBanks [p.2]).putRow p.2 r, p.2 + 64)) (s, a)).1
  ((s.modTag n fun g => { g with outstanding := true }).modTile (keyTile a) fun u =>
    { u with queueAdded := true, delivQ := u.delivQ ++ [{ tagw := sh.tagw, orphan := sh.orphan, nm1 := sh.rows.length - 1, origin := sh.origin, leaves := sh.leaves : DelivRec }] }).settleShot sh 0
/-- Parks deliveries at a tile's mesh edge and counts them (R277). -/
def State.park (s : State) (t : TileNo) (ds : List Shot) : State :=
  if ds = [] then s
  else (s.modTile t fun u => { u with parked := u.parked ++ ds.map fun d => .delivery { d with ready := false, full := false } }).countAt t 9 ds.length
/-- What waits at a tile's edge when its unit leaves the tile is parked (R277). -/
def State.parkEdge (s : State) (t : TileNo) : State := (s.modTile t fun u => { u with edgeWait := [] }).park t (s.tile t).edgeWait
/-- Whether a result that reaches its tile must wait behind one that waits there: one of its own tag, or one that waits for the queue alone (R276). -/
def State.behind (s : State) (t : TileNo) (sh : Shot) : Bool :=
  (s.tile t).edgeWait.any fun w => w.tagw = sh.tagw || w.full
/-- A delivery reaches its tile: parked, waiting at the edge, or written. -/
def State.takeDelivery (s : State) (sh : Shot) (t : TileNo) : State :=
  let g := s.tag (tagNo sh.tagw)
  let u := s.tile t
  if u.unit.isNone || u.launchNo ≠ g.launch then s.park t [sh]
  else if g.outstanding || !u.qTakes 3 1 || s.behind t sh then s.modTile t fun u => { u with edgeWait := u.edgeWait ++ [sh] }
  else s.writeDelivery sh
/-- As a clock begins: the results waiting at a tile's edge that may be written in it, since their tag's earlier delivery has been caught and the
queue has room (R276). -/
def State.edgeReady (s : State) (u : Tile) : Tile :=
  if u.edgeWait = [] then u
  else
    let room := u.qTakes 3 1
    { u with edgeWait := u.edgeWait.map fun sh => 
      let free := !(s.tag (tagNo sh.tagw)).outstanding
      { sh with ready := room && free, full := free && !room } }
/-- A result that waits at the edge is tried again. -/
def State.retryEdge (s : State) (t : TileNo) (sh : Shot) : State :=
  if sh.ready && !(s.tag (tagNo sh.tagw)).outstanding && (s.tile t).qTakes 3 1 then
    (s.modTile t fun u => { u with edgeWait := u.edgeWait.erase sh }).writeDelivery { sh with ready := false, full := false }
  else s
/-- DELIVERY: a result reaches its destination tile, or (`num` 1) what waits at the tile's mesh edge is tried again, in order of arrival. -/
def execDelivery (s : State) : Out :=
  if s.ev.num = 1 then .next ((s.tile s.ev.tile).edgeWait.foldl (fun s sh => s.retryEdge s.ev.tile sh) s)
  else match Map.find s.msgs s.ev.id with
    | some (.deliver sh t) =>
      let s := s.unsend s.ev.id
      if s.tagLive sh.tagw then .next (s.takeDelivery sh t) else .next s
    | _ => .next s

/-! ## Freeing a tag (R280) -/

/-- Whether a message is an item that an entry of a router forwards. -/
def Msg.fromEntry (r : TileNo) (i : Nat) : Msg → Bool
  | .shot sh _ => sh.fromRouter && sh.holder = r && sh.entry = i
  | .deliver sh _ => sh.holder = r && sh.entry = i
  | _ => false
/-- A parked delivery of a tag. -/
def Parked.ofTag (w : Word) : Parked → Bool
  | .delivery sh => sh.tagw = w
  | .arrival _ => false
/-- Steps 1 to 3 of TAGFREE; the purge and its acknowledgement follow over the mesh. -/
def State.freeTag (s : State) (n : Nat) : State :=
  let g := s.tag n
  let w := tagWord n g.gen
  let t := keyTile (bDest g.binding)
  let r := meetingRouter n
  let s := s.modTag n fun g => { g with live := false, gen := g.gen + 1, purging := true, outstanding := false }
  let u := s.tile t
  let gone : List TileNo := if bDtag g.binding then []
    else (u.delivQ.filter fun d => d.tagw = w).map DelivRec.origin ++ (u.edgeWait.filter fun d => d.tagw = w).map Shot.origin
      ++ u.parked.filterMap fun k => match k with
        | .delivery sh => if sh.tagw = w then some sh.origin else none
        | .arrival _ => none
  let s := if bDtag g.binding then s else s.modTile t fun u =>
    { u with delivQ := u.delivQ.filter fun d => d.tagw ≠ w, edgeWait := u.edgeWait.filter fun d => d.tagw ≠ w, parked := u.parked.filter fun d => !d.ofTag w }
  (gone.foldl (fun s o => s.countRouter r n 2 w o) s).later { op := .tagPurge, ev := { tile := r, id := n, w0 := w } }
/-- TAG_PURGE (R275, R280): the tag's entries leave the store with what they forward; a waiting operand counts as STALE. -/
def execTagPurge (s : State) : Out :=
  let r := s.ev.tile
  let w := s.ev.w0
  let hit := (s.router r).entries.filter fun p => p.2.used s.clock && p.2.shot.tagw = w
  let s := hit.foldl (fun s p =>
    let s := { s with msgs := s.msgs.filter fun m => !m.2.fromEntry r p.1 }
    if p.2.waiting then s.countRouter r (tagNo w) 2 w p.2.shot.origin else s) s
  .next ((s.modRouter r fun q => { q with entries := q.entries.filter fun p => !(p.2.used s.clock && p.2.shot.tagw = w) }).later
    { op := .purgeAck, ev := { tile := r, id := s.ev.id } })
/-- PURGE_ACK: the tag returns to its cluster's free list. -/
def execPurgeAck (s : State) : Out := .next (s.modTag s.ev.id fun g => { g with purging := false })

/-! ## Instructions (R278 to R283) -/

/-- The fault of a binding (R279). -/
def State.bindingFault (s : State) (b : Word) : Option (BitVec 16) :=
  let d := bDest b
  if bits b 63 51 ≠ 0 || 6 ≤ bOp b || bTimeout b = 0 then some cILLEGAL_USE
  else if bDtag b then
    let w := BitVec.ofNat 64 (bits b 23 0)
    if bits b 31 24 ≠ 0 || !s.tagLive w || (s.tag (tagNo w)).launch ≠ s.me.launchNo then some cILLEGAL_USE else none
  else if d % 64 ≠ 0 || 2 ^ 31 ≤ d || 0x600000 < d % 2 ^ 23 + 4096 * (bNm1 b + 1) then some cILLEGAL_USE
  else s.tileFault s.ct (keyTile d)
/-- TAGALLOC (R279). -/
def execTagalloc (d a : Reg) (s : State) : Out :=
  s.guardI onCF [.x a] [.x d] fun s =>
    match s.bindingFault (s.x a) with
    | some c => s.trap c
    | none =>
      match findFrom (fun i => let g := s.tag (clusterOf s.ct * 2 ^ 15 + i); !g.live && !g.purging) 0 4096 with
      | none => (s.answer d (2 ^ 63 + 1)).done
      | some i =>
        let n := clusterOf s.ct * 2 ^ 15 + i
        let g := s.tag n
        ((s.modTag n fun g =>
          { g with live := true, holder := s.ct, launch := s.me.launchNo, unitIdx := (s.me.unit.map UnitRes.idx).getD 0, binding := s.x a, flags := 0
                   outstanding := false }).answer d (tagWord n g.gen)).done
/-- Whether a tag word names a live tag of the issuer's launch. -/
def State.tagMine (s : State) (w : Word) : Bool := s.tagLive w && (s.tag (tagNo w)).launch = s.me.launchNo
/-- TAGFREE (R280). -/
def execTagfree (a : Reg) (s : State) : Out :=
  s.guard onCF [.x a] fun s => if s.tagMine (s.x a) then (s.freeTag (tagNo (s.x a))).done else s.trap cILLEGAL_USE
/-- SHOT (R281): acts as MARK, reads its rows, and holds the operand until a router takes or drops it. -/
def execShot (d a b : Reg) (s : State) : Out :=
  s.guardI onCF [.x a, .x b] [.x d] fun s =>
    let n := bits (s.x b) 34 32 + 1
    let src := rowOf (bits (s.x b) 31 0)
    match (List.range (64 * n)).findSome? fun i => (s.sFault s.ct (src + 64 * i)).map fun c => (c, src + 64 * i) with
    | some f => s.trapAddr f.1 (BitVec.ofNat 64 f.2)
    | none =>
      if keyTile src ≠ keyTile (src + 64 * (64 * n - 1)) || clusterOf (keyTile src) ≠ clusterOf s.ct then s.trap cILLEGAL_USE
      else if !s.cur.marked then s.stall rMARK
      else if 4 ≤ s.me.shots.length then s.stall rINTERLOCK
      else s.gated ((List.range (64 * n)).map fun i => src + 64 * i) fun s => match s.readRows s.ct ((List.range (64 * n)).map fun i => src + 64 * i) with
      | (s, true) => s.lostRead src
      | (s, false) =>
        let id := s.nextId
        let w := BitVec.ofNat 64 (bits (s.x a) 23 0)
        let sh : Shot :=
          { tagw := w, rows := (List.range n).map fun i => rowsVRow ((List.range 8).map fun k => s.row (src + 512 * i + 64 * k)), origin := s.ct
            launch := s.me.launchNo, part := (s.partOf s.ct).getD 0, holder := s.ct, op := id }
        let s := if d = 0 then s.bump else s.await [.x d] [] false 0 0
        ((s.modMe fun u => { u with shots := u.shots ++ [{ id := id, shot := sh, st := s.cs, unit := (s.me.unit.map UnitRes.idx).getD 0 }] }).send (.shot sh (meetingRouter (tagNo w))) .rimshotArrival
          (meetingRouter (tagNo w))).done
/-- The status word of CATCH (R282). -/
def DelivRec.word (r : DelivRec) : Word := BitVec.ofNat 64 (r.leaves * 2 ^ 16 + r.origin.toNat * 2 ^ 8 + r.nm1 * 4) ||| ofBool r.orphan
/-- CATCH (R282). -/
def execCatchTag (d a : Reg) (try_ : Bool) (s : State) : Out :=
  s.guardI onCF [.x a] [.x d] fun s =>
    let w := BitVec.ofNat 64 (bits (s.x a) 23 0)
    let b := (s.tag (tagNo w)).binding
    if !s.tagMine w || bDtag b || keyTile (bDest b) ≠ s.ct then s.trap cILLEGAL_USE
    else match s.me.delivQ.find? fun r => r.tagw = w with
      | some r => (((s.modMe fun u => { u with delivQ := u.delivQ.erase r }).modTag (tagNo w) fun g => { g with outstanding := false }).answer d r.word).done
      | none => if try_ then (s.answer d (2 ^ 63)).done else s.stall rCATCH_WAIT
/-- A tag as TAGSTAT reads it with selector 0 (R283). -/
def Tag.word (g : Tag) : Word := ofBool g.live ||| BitVec.ofNat 64 (g.gen.toNat * 2 ^ 4 + g.holder.toNat * 2 ^ 8 + bOp g.binding * 2 ^ 16 + bNm1 g.binding * 2 ^ 19)
/-- TAGSTAT (R283). -/
def execTagstat (d a : Reg) (sel : BitVec 3) (s : State) : Out :=
  s.guardI onCF [.x a] [.x d] fun s =>
    let n := tagNo (s.x a)
    let g := s.tag n
    let r : TileNo := BitVec.ofNat 8 (bits (s.x a) 7 0)
    let p := (s.partOf s.ct).getD 0
    match sel.toNat with
    | 0 =>
      if s.tagPart n ≠ s.partOf s.ct then (s.answer d 0).done
      else (s.answer d g.word).done
    | 1 => (s.answer d (zext64 g.flags)).done
    | 6 => (s.answer d (BitVec.ofNat 64 ((s.router r).entries.filter fun e => e.2.used s.clock && s.tagPart (tagNo e.2.shot.tagw) = s.partOf s.ct).length)).done
    | 7 => s.trap cILLEGAL_ENCODING
    | k => (s.answer d (BitVec.ofNat 64 (Map.get 0 (s.router r).counts (4 * p + (k - 2))))).done

end Sys2Proof.Machine
end

