-- ==== Sys2Proof/Machine/Window.lean ====
section
/-! DEFINITION. The Carillon's window: task records, acceptance, edges, renaming, release conditions, leaving, failure and cancellation
(R62, R68, R89, R163 to R185). -/
namespace Sys2Proof.Machine

/-! ## Window entries (R284) -/

/-- Fields of a window entry. -/
def wBase (e : BitVec 256) : Nat := bits e 119 64
def wLimit (e : BitVec 256) : Nat := bits e 175 128
def wCtx (e : BitVec 256) : Nat := bits e 47 40
def wPeer (e : BitVec 256) : Nat := bits e 34 24
def wSlot (e : BitVec 256) : Nat := bits e 39 35
def wSealed (e : BitVec 256) : Bool := bitAt e 10
def wOrdered (e : BitVec 256) : Bool := bitAt e 11

/-! ## Task records (R163 to R168) -/

/-- A box slot (R164). -/
def boxOf (b : BitVec 256) : Option Box :=
  if bitAt b 31 then
    some { handle := bits b 11 0, write := bitAt b 30, idim := bits b 29 28, iaddr := bits b 111 80
           iv := { l0 := bits b 135 112, h0 := bits b 159 136, l1 := bits b 183 160, h1 := bits b 207 184, l2 := bits b 231 208, h2 := bits b 255 232 } }
  else none
/-- The bits of box slot `k` in rows 1 and 2. -/
def boxBits (r1 r2 : Row) (k : Nat) : BitVec 256 := (if k < 2 then r1 else r2).extractLsb' (256 * (k % 2)) 256
/-- A record's fields. -/
def recordOf (r0 r1 r2 : Row) : TaskRec :=
  { eng := bits r0 10 8, op := bits r0 20 16, pri := bits r0 23 21, rmv := bitAt r0 33, rm := BitVec.ofNat 2 (bits r0 35 34), prows := bits r0 46 42
    pblk := bits r0 63 47, p0 := rowWord r0 4, p1 := rowWord r0 5, p2 := rowWord r0 6, p3 := rowWord r0 7, act0 := rowWord r0 2, act1 := rowWord r0 3
    boxes := (List.range 4).map fun k => boxOf (boxBits r1 r2 k) }
/-- A nonzero reserved field of the header or of a box slot (R163, R164). -/
def recordReserved (r0 r1 r2 : Row) : Bool :=
  bits r0 127 64 ≠ 0 || bits r0 41 36 ≠ 0 || bits r0 32 24 ≠ 0 || bits r0 15 11 ≠ 0 || bits r0 7 0 ≠ 0
    || (List.range 4).any fun k => bits (boxBits r1 r2 k) 79 32 ≠ 0 || bits (boxBits r1 r2 k) 27 12 ≠ 0
/-- A reserved field or code of a completion action (R165); bits of TARGET that KIND does not name are reserved (log entry 20). -/
def actionBad (w : Word) (remote : Bool) : Bool :=
  let k := bits w 63 60
  4 < k || bits w 58 56 ≠ 0
    || (match k with
        | 0 => bits w 55 0 ≠ 0
        | 1 => bits w 55 32 ≠ 0
        | 2 => remote
        | 3 => bits w 55 15 ≠ 0
        | _ => bits w 55 32 ≠ 0)
/-- The operations listed for a class (R166). -/
def opListed (eng op : Nat) : Bool :=
  match eng with
  | 0 => op ≤ 4
  | 1 => op = 0
  | 2 => op ≤ 1
  | 3 => true
  | 4 => true
  | 5 => op = 0
  | _ => false
/-- Slots and roles of the copy and transpose operations: write or read, or no box (R166). -/
def copyRoles (eng op : Nat) : Option (List (Option Bool)) :=
  match eng, op with
  | 0, 0 => some [some false, some true, none, none]
  | 0, 1 => some [some false, some false, some true, none]
  | 0, 2 => some [some false, some false, some true, none]
  | 0, 3 => some [some true, none, none, none]
  | 1, 0 => some [some false, some true, none, none]
  | _, _ => none
/-- Box slot `k` of a record. -/
def TaskRec.box (r : TaskRec) (k : Nat) : Option Box := r.boxes.getD k none
/-- Whether a record's slots match given roles. -/
def TaskRec.rolesOk (r : TaskRec) (roles : List (Option Bool)) : Bool := (List.range 4).all fun k => (r.box k).map Box.write = roles.getD k none
/-- An interval of a dimension. -/
def Ivl.lo (v : Ivl) (d : Nat) : Nat := if d = 0 then v.l0 else if d = 1 then v.l1 else v.l2
def Ivl.hi (v : Ivl) (d : Nat) : Nat := if d = 0 then v.h0 else if d = 1 then v.h1 else v.h2
/-- The length in a dimension (R167). -/
def Ivl.len (v : Ivl) (d : Nat) : Nat := v.hi d - v.lo d
/-- Whether a box is empty. -/
def Ivl.empty (v : Ivl) : Bool := v.h0 ≤ v.l0 || v.h1 ≤ v.l1 || v.h2 ≤ v.l2
/-- Replaces an upper end. -/
def Ivl.setHi (v : Ivl) (d u : Nat) : Ivl := if d = 0 then { v with h0 := u } else if d = 1 then { v with h1 := u } else { v with h2 := u }
/-- R171: the overlap of boxes of one handle. -/
def Ivl.meets (a b : Ivl) : Bool :=
  !a.empty && !b.empty && a.l0 < b.h0 && b.l0 < a.h0 && a.l1 < b.h1 && b.l1 < a.h1 && a.l2 < b.h2 && b.l2 < a.h2
/-- Whether `a` contains `b`. -/
def Ivl.contains (a b : Ivl) : Bool := a.l0 ≤ b.l0 && b.h0 ≤ a.h0 && a.l1 ≤ b.l1 && b.h1 ≤ a.h1 && a.l2 ≤ b.l2 && b.h2 ≤ a.h2
/-- The smallest box that contains two. -/
def Ivl.join (a b : Ivl) : Ivl :=
  { l0 := min a.l0 b.l0, h0 := max a.h0 b.h0, l1 := min a.l1 b.l1, h1 := max a.h1 b.h1, l2 := min a.l2 b.l2, h2 := max a.h2 b.h2 }
/-- The intervals of a box on a shape: unused dimensions are [0, 1) (R164), an indirect upper end is BOUND until release (R171). -/
def Box.ivl (b : Box) (h : Shape) : Ivl :=
  let v := if b.idim = 0 then b.iv else b.iv.setHi (b.idim - 1) h.bound
  { v with
    l0 := if h.dims ≤ 0 then 0 else v.l0, h0 := if h.dims ≤ 0 then 1 else v.h0, l1 := if h.dims ≤ 1 then 0 else v.l1
    h1 := if h.dims ≤ 1 then 1 else v.h1, l2 := if h.dims ≤ 2 then 0 else v.l2, h2 := if h.dims ≤ 2 then 1 else v.h2 }
/-- Whether a box breaks R168 on its shape. -/
def Box.bad (b : Box) (h : Shape) : Bool :=
  (List.range 3).any (fun d => d < h.dims && b.idim ≠ d + 1 && (b.iv.hi d < b.iv.lo d || h.ext d < b.iv.hi d))
    || (b.idim ≠ 0 && (h.dims < b.idim || h.ext (b.idim - 1) < h.bound || b.iv.hi (b.idim - 1) ≠ 0 || h.bound < b.iv.lo (b.idim - 1)))
/-- A live handle of a tile. -/
def Tile.handle (u : Tile) (n : Nat) : Option Handle := Map.find u.handles n
/-- R168: a malformed record, for the tile that holds the window. -/
def Tile.malformed (u : Tile) (r0 r1 r2 : Row) (remote : Bool) : Bool :=
  let r := recordOf r0 r1 r2
  recordReserved r0 r1 r2 || !opListed r.eng r.op || actionBad r.act0 remote || actionBad r.act1 remote
    || (match copyRoles r.eng r.op with | some ro => !r.rolesOk ro | none => false)
    || 2 < (r.boxes.filter fun b => b.any Box.write).length
    || (r.boxes.any fun b => match b with
        | some b => match u.handle b.handle with
          | some h => b.bad h.shape
          | none => true
        | none => false)
    || 16 < r.prows || (r.prows ≠ 0 && 0x600000 < r.pblk * 64 + r.prows * 64)

/-! ## Boxes of a task in the window -/

/-- The slots with a box and the handle it names, by slot number. -/
def Tile.boxesOf (u : Tile) (r : TaskRec) : List (Nat × Box × Handle) :=
  (List.range 4).filterMap fun k => match r.box k with
    | some b => (u.handle b.handle).map fun h => (k, b, h)
    | none => none
/-- The task of an acceptance count in the window. -/
def Tile.task (u : Tile) (acc : Nat) : Option Task := u.window.find? fun k => k.acc = acc
/-- Changes a task in the window. -/
def Tile.modTask (u : Tile) (acc : Nat) (f : Task → Task) : Tile := { u with window := u.window.map fun k => if k.acc = acc then f k else k }
/-- Changes a task in a tile's window. -/
def State.modTask (s : State) (t : TileNo) (acc : Nat) (f : Task → Task) : State := s.modTile t fun u => u.modTask acc f
/-- WINLIM of the active plane (R169, R329). -/
def Tile.winlim (u : Tile) : Nat := bits (u.planeReg 0x118) 47 41
/-- Whether the window has a free entry (R169). -/
def Tile.entryFree (u : Tile) : Bool := u.window.length + u.posts.length < u.winlim
/-- An edge is satisfied once the older task has left; a WAR edge also by renaming (R174, R175). -/
def Tile.edgeOpen (u : Tile) (k : Task) (e : Edge) : Bool :=
  (u.task e.older).isSome && !(e.kind = .war && k.newVer.any fun p => p.1 = e.box)
/-- The engine reaches the end of a task: DONE for code 0, else FAILED with the code; the window acts on it in the late part of a clock. -/
def State.endTask (s : State) (t : TileNo) (acc : Nat) (code : BitVec 16) (at_ : Nat) : State :=
  s.modTask t acc fun k => if k.ended.isSome then k else { k with ended := some code, endAt := at_ }

/-! ## Granules (R62) -/

/-- The granules, as S-space address / 16, that hold a byte of a box in the version at `base`. -/
def Shape.granules (h : Shape) (base : Nat) (v : Ivl) : List Nat :=
  if v.empty then [] else
  (List.range (v.len 2)).flatMap fun j2 => (List.range (v.len 1)).flatMap fun j1 =>
    let i1 := v.l1 + j1
    let i2 := v.l2 + j2
    if h.layout then
      (List.range ((v.h0 - 1) / 512 + 1 - v.l0 / 512)).flatMap fun g =>
        let c := v.l0 / 512 + g
        let lo := (max v.l0 (512 * c) - 512 * c) / 128
        let hi := (min v.h0 (512 * (c + 1)) - 1 - 512 * c) / 128
        (List.range h.planes).flatMap fun p => (List.range (hi + 1 - lo)).map fun q => (h.planarAt base (512 * c) i1 i2).1 / 16 + 4 * p + lo + q
    else
      let a := (h.packedAt base v.l0 i1 i2).1 / 16
      let b := ((h.packedAt base (v.h0 - 1) i1 i2).1 + (container h.fmt + 7) / 8 - 1) / 16
      (List.range (b + 1 - a)).map fun q => a + q
/-- Sets granules empty. -/
def State.emptyGranules (s : State) (gs : List Nat) : State :=
  gs.foldl (fun s g => s.modTile (keyTile (16 * g)) fun u => { u with emptyGr := insertNat (keyOff (16 * g) / 16) u.emptyGr }) s
/-- Sets granules full. -/
def State.fillList (s : State) (gs : List Nat) : State := gs.foldl (fun s g => s.fillGranules (16 * g) 16) s

/-! ## Rows that an engine has written and others do not see yet (R91) -/

/-- A byte to write: address, mask, value. -/
abbrev ByteWrite := Nat × Byte × Byte
/-- Performs the writes at keys. -/
def applyWrites (m : List Host.Cell) (ws : List (Nat × Byte × Byte)) : List Host.Cell :=
  ws.foldl (fun m w => Mem.write m w.1 ((Mem.read m w.1 &&& ~~~w.2.1) ||| (w.2.2 &&& w.2.1))) m
/-- The rows that a list of writes touches, ascending. -/
def rowsOf (ws : List ByteWrite) : List Nat := ws.foldl (fun l w => insertNat (rowOf w.1) l) []
/-- An engine's writes at keys: the rows hold no error then. -/
def State.engineWrite (s : State) (ws : List ByteWrite) : State :=
  State.usesBanks { s with mem := applyWrites s.mem ws, ecc := (rowsOf ws).foldl (fun e r => Map.del e r) s.ecc } (rowsOf ws)
/-- A late row is seen. -/
def State.showRow (s : State) (r : LateRow) : State := (s.engineWrite r.writes).fillList r.grans
/-- The late rows of a task that a test names are seen. -/
def State.showRows (s : State) (t : TileNo) (acc : Nat) (p : LateRow → Bool) : State :=
  match (s.tile t).task acc with
  | some k => (k.late.filter p).foldl State.showRow (s.modTask t acc fun k => { k with late := k.late.filter fun r => !p r })
  | none => s
/-- The late rows of a task and one more, each seen now or later: the order is free (R91, log entry 5). A row already late is seen before it is written
again. -/
def State.writeRow (s : State) (t : TileNo) (acc : Nat) (r : LateRow) : State :=
  let key (r : LateRow) : Option Nat := (r.writes.head?).map fun w => rowOf w.1
  let s := s.showRows t acc fun x => key x = key r
  match (s.tile t).task acc with
  | none => s.showRow r
  | some k =>
    let all := (k.late ++ [r]).zipIdx
    let now := (all.filter fun x => Config.freeChoice (s.fresh + x.2)).map Prod.fst
    let later := (all.filter fun x => !Config.freeChoice (s.fresh + x.2)).map Prod.fst
    now.foldl State.showRow ({ s with fresh := s.fresh + all.length }.modTask t acc fun k => { k with late := later })
/-- Rows of a task, each seen now or later, with the granules of scratchpad that each fills. -/
def State.writeRows (s : State) (t : TileNo) (acc : Nat) (ws : List ByteWrite) (grans : List Nat) : State :=
  (rowsOf ws).foldl (fun s r => s.writeRow t acc { writes := ws.filter fun w => rowOf w.1 = r, grans := grans.filter fun g => rowOf (16 * g) = r }) s
/-- All rows of a task are seen (R91: its completion releases them). -/
def State.showAll (s : State) (t : TileNo) (acc : Nat) : State := s.showRows t acc fun _ => true
/-- All rows are seen that the tasks of a tile have written, as before a save (R367) and before an invalidation is acknowledged (R374). -/
def State.showTile (s : State) (t : TileNo) : State := (s.tile t).window.foldl (fun s k => s.showAll t k.acc) s

/-! ## Acceptance (R169 to R171, R174, R181) -/

/-- The next sequence number; 0 is skipped (R170). -/
def nextSeq (n : BitVec 32) : BitVec 32 := if n = BitVec.allOnes 32 then 1 else n + 1
/-- The edges of a new record to the tasks in the window (R174). -/
def Tile.edgesOf (u : Tile) (r : TaskRec) : List Edge :=
  u.window.flatMap fun o => (u.boxesOf r).flatMap fun n => (u.boxesOf o.record).filterMap fun b =>
    if n.2.1.handle = b.2.1.handle && (n.2.1.ivl n.2.2.shape).meets (b.2.1.ivl b.2.2.shape) then
      match n.2.1.write, b.2.1.write with
      | false, true => some ⟨o.acc, n.1, .raw⟩
      | true, true => some ⟨o.acc, n.1, .waw⟩
      | true, false => some ⟨o.acc, n.1, .war⟩
      | false, false => none
    else none
/-- Whether a read box of a record overlaps its handle's poison box (R181). -/
def Tile.poisoned (u : Tile) (r : TaskRec) : Bool :=
  (u.boxesOf r).any fun b => !b.2.1.write && b.2.2.poison.any fun p => (b.2.1.ivl b.2.2.shape).meets p
/-- Poisons the write boxes of a record, with the intervals that they have (R172); an empty box widens nothing (R181). -/
def Tile.poison (u : Tile) (r : TaskRec) (ivs : List Ivl) : Tile :=
  (u.boxesOf r).foldl (fun u b =>
    let v := ivs.getD b.1 {}
    if b.2.1.write && !v.empty then
      { u with handles := u.handles.map fun p =>
          if p.1 = b.2.1.handle then (p.1, { p.2 with poison := some (match p.2.poison with | some o => o.join v | none => v) }) else p }
    else u) u

/-! ## Leaving the window (R165, R176, R179, R182, R188) -/

/-- A void completion action is counted (R165). -/
def State.voidAction (s : State) (t : TileNo) : State := s.countAt t 7 1
/-- An addition to a row of another package, which releases at fabric scope: it waits for the RSTQ.NA of the stream that held the task (R91). -/
def State.addPeer (s : State) (t : TileNo) (k : Task) (key : Nat) (n : Word) : State :=
  match k.holder with
  | some st => if (s.strmOf t st).naOut = [] then s.addWord key n else s.post (addStep t st s.nextId key n)
  | none => s.addWord key n
/-- One completion action of a task that ends with state `st` (R165). -/
def State.action (s : State) (t : TileNo) (k : Task) (st : BitVec 3) (w : Word) : State :=
  let n : Word := if st = 4 then 1 else 2 ^ 32
  if !(bitAt w 59 || st = 4) then s
  else match bits w 63 60 with
    | 1 => if (s.sFault t (bits w 31 0)).isSome then s.voidAction t else s.addWord (bits w 31 0) n
    | 2 => match s.gKey t (bits w 55 0) true true with
      | .ok p => s.addWord p.key n
      | .error sub => (s.report cTRANSLATION sub).voidAction t
    | 3 =>
      let home : TileNo := BitVec.ofNat 8 (bits w 7 0)
      if (s.tileFault t home).isSome then s.voidAction t
      else s.send (.arrival { home := home, idx := bits w 14 8, launch := (s.tile t).launchNo, tile := t, st := .C }) .barrierArrival home
    | 4 => match k.origin with
      | none => if (s.sFault t (bits w 31 0)).isSome then s.voidAction t else s.addWord (bits w 31 0) n
      | some o =>
        if o.pkg = Config.packageNumber.val then (if (s.sFault o.tile (bits w 31 0)).isSome then s.voidAction t else s.addWord (bits w 31 0) n)
        else s.addPeer t k (keyPeer o.pkg 0 (bits w 31 0)) n
    | _ => s
/-- The Peal record of a task's end (R388): copy, matrix and roll sources. A task that its engine never had has counted nothing. -/
def State.pealTaskEnd (s : State) (t : TileNo) (k : Task) (st : BitVec 3) (code : BitVec 16) : State :=
  let u := s.tile t
  let base := k.seq.toNat + code.toNat * 2 ^ 32 + st.toNat * 2 ^ 48
  if k.record.eng ≤ 1 then s.pealTile t 2 3 u.launchNo (base + k.prog * 2 ^ 64)
  else if k.record.eng = 2 && k.record.op = 0 then
    let m : MatProg := (u.mat.filter fun m => m.acc = k.acc).getD {}
    s.pealTile t 3 1 u.launchNo (base + m.wWait % 2 ^ 32 * 2 ^ 64 + m.dWait % 2 ^ 32 * 2 ^ 96)
  else if k.record.eng = 2 then
    let r : Roll := if u.roll.uid = k.uid then u.roll else {}
    s.pealTile t 4 3 u.launchNo (base + r.step % 2 ^ 16 * 2 ^ 48 + r.beats % 2 ^ 32 * 2 ^ 64 + r.miss % 2 ^ 32 * 2 ^ 96)
  else s
/-- A task whose granules are full at its end (R62, R195): VECTOR and SOFT tasks, and rolls. -/
def TaskRec.fills (r : TaskRec) : Bool := r.eng = 3 || r.eng = 4 || (r.eng = 2 && r.op = 1)
/-- What a task that leaves gives back in its tile: its window entry, its new versions when it is not DONE, its claims, its granules of R62. -/
def Tile.dropTask (u : Tile) (k : Task) (st : BitVec 3) (code : BitVec 16) : Tile :=
  let clock := u.eclk
  { u with
    window := (u.window.filter fun o => o.acc ≠ k.acc).map fun o =>
      if o.edges.any fun e => e.older = k.acc then { o with readyAt := max o.readyAt (clock + 1) } else o
    pool := if st = 4 then u.pool else u.pool.filter fun v => !(k.newVer.any fun p => p.2 = v.base)
    claim0 := if u.claim0 = some k.acc then none else u.claim0
    claim1 := if u.claim1 = some k.acc then none else u.claim1
    mat := if u.mat.any fun m => m.acc = k.acc then none else u.mat
    chans := u.chans.map fun p => if p.2.acc = k.acc && k.record.eng = 0 && k.record.op = 4 && p.2.state = 1 then (p.1, { p.2 with state := if st = 4 then 0 else 2 }) else p
    done := (u.done ++ [{ acc := k.acc, seq := k.seq, st := st, fault := code, flags := k.flags : DoneTask }]).drop (u.done.length + 1 - 256)
    firstBad := if st = 4 then u.firstBad else match u.firstBad with
      | some b => if k.acc < b.1 then some (k.acc, k.seq) else some b
      | none => some (k.acc, k.seq)
    c := if u.c.heldTask = some k.acc then { u.c with heldTask := none } else u.c
    v := if u.v.heldTask = some k.acc then { u.v with heldTask := none } else u.v
    f := if u.f.heldTask = some k.acc then { u.f with heldTask := none } else u.f }
/-- R182: a task that ends DONE clears the poison boxes that its write boxes contain. -/
def Tile.cure (u : Tile) (r : TaskRec) (ivs : List Ivl) : Tile :=
  (u.boxesOf r).foldl (fun u b =>
    if b.2.1.write then
      { u with handles := u.handles.map fun p =>
          if p.1 = b.2.1.handle && p.2.poison.any fun q => (ivs.getD b.1 {}).contains q then (p.1, { p.2 with poison := none }) else p }
    else u) u
/-- A task posted remotely has left its window: it is a member of its poster no more (R185). -/
def State.postGone (s : State) (o : Origin) : State :=
  if o.pkg = Config.packageNumber.val then s.modUnitOf o.tile o.launch o.unit fun r => { r with tasksOut := r.tasksOut.erase o.post } else s
/-- A task leaves the window with state `st` (R179): its entry, its edges, its record of R188 and its completion actions, ACT0 before ACT1. Its
fault or cancellation code is reported (R361, R400); a translation fault was, with its subcause, where it was met (R372). -/
def State.leave (s : State) (t : TileNo) (k : Task) (st : BitVec 3) (code : BitVec 16) : State :=
  let s := (s.showAll t k.acc).pealTaskEnd t k st code
  let s := s.modTile t fun u => (if st = 4 then u.cure k.record k.ivs else u).dropTask k st code
  let s := if st ≠ 4 || k.record.fills then s.fillList k.marked else s
  let s := if code = 0 || code = cTRANSLATION then s else s.report code t.toNat
  let s := { s with parts := s.parts.map fun (p : Nat × Part) => (p.1, { p.2 with suspends := p.2.suspends.filter fun x => !(x.uid = k.uid) }) }
  let s := match k.origin with
    | some o => s.postGone o
    | none => s
  let s := (s.action t k st k.record.act0).action t k st k.record.act1
  if k.record.eng = 2 && k.record.op = 1 then
    { s with agenda := { op := .rollStop, ev := { tile := t, id := k.uid, num := st.toNat, aux := code.toNat } } :: s.agenda } else s

/-! ## Failure and cancellation (R180, R181) -/

/-- The tasks reached from `bad` through RAW and WAW edges, in order of acceptance (R180). -/
def cascade (bad : List Nat) (w : List Task) : List Task :=
  (w.foldl (fun (r : List Nat × List Task) k =>
    if r.1.contains k.acc then r
    else if k.edges.any fun e => e.kind ≠ .war && r.1.contains e.older then (k.acc :: r.1, r.2 ++ [k]) else r) (bad, [])).2
/-- Cancels a task: at once unless an engine has it, which stops at its next restartable boundary (R180, R23). DESIGN CHOICE (log entry 75): the spec
says nothing of a released VECTOR or SOFT task whose holding stream goes on; the task leaves at once, the stream holds no task from then on, and its
later TEND traps with ILLEGAL_USE. -/
def State.cancelTask (s : State) (t : TileNo) (k : Task) (cause : BitVec 16) (poison : Bool) : State :=
  let s := if poison then s.modTile t fun u => u.poison k.record k.ivs else s
  if k.st = 2 && k.record.eng ≠ 3 && k.record.eng ≠ 4 then
    (s.modTask t k.acc fun o => { o with cancel := true, fault := cause }).post { op := .taskCancelStop, ev := { tile := t, id := k.acc } }
  else s.leave t k 6 cause
/-- A task fails (R180): its dependants are cancelled and its write boxes and theirs poisoned. -/
def State.failTask (s : State) (t : TileNo) (k : Task) (code : BitVec 16) : State :=
  let deps := cascade [k.acc] (s.tile t).window
  let s := (s.modTile t fun u => u.poison k.record k.ivs).leave t k 5 code
  deps.foldl (fun s d => s.cancelTask t d cCANCEL_DEP true) s
/-- Cancels the tasks of a window that a test names, and their dependants (R23, step 3); nothing is poisoned. -/
def State.cancelTasks (s : State) (t : TileNo) (p : Task → Bool) : State :=
  let w := (s.tile t).window
  let own := w.filter p
  let deps := cascade (own.map Task.acc) w
  let s := own.foldl (fun s k => s.cancelTask t k cCANCEL_LEVEL false) s
  deps.foldl (fun s k => s.cancelTask t k cCANCEL_DEP false) s

/-- A posted or queued record is accepted (R170, R171, R174, R181); answers its sequence number. -/
def State.accept (s : State) (t : TileNo) (r : TaskRec) (org : Option Origin) (acc0 : Nat) : State :=
  let u := s.tile t
  let k : Task :=
    { acc := u.accCtr + 1, uid := s.nextId, seq := nextSeq u.seqCtr, record := r, edges := u.edgesOf r, origin := org, accsBefore := acc0, readyAt := u.eclk + 1
      ivs := (List.range 4).map fun i => match r.box i with
        | some b => match u.handle b.handle with
          | some h => b.ivl h.shape
          | none => {}
        | none => {} }
  let s := s.bump.modTile t fun u => { u with accCtr := k.acc, seqCtr := k.seq }
  if u.poisoned r then
    ((s.modTile t fun u => { u.poison r k.ivs with window := u.window ++ [k] }).leave t k 6 cCANCEL_POISON)
  else s.modTile t fun u => { u with window := u.window ++ [k] }

/-- The paths to a package (R379). -/
def State.paths (s : State) (pkg : Nat) : List Path := Map.get [] s.routes pkg
/-- The order of R380 between two paths: cost, then the minimal path, then the lower port. The occupancy of an output queue in flits is a free value
(log entry 5); BIAS counts for every hop, which orders the paths as BIAS for each hop beyond the minimal path's count does. -/
def State.cheaper (s : State) (p q : Path) : Bool :=
  let cost (p : Path) : Nat := (Config.freeReply (s.fresh + p.port)).toNat + s.bias.toNat * p.hops
  cost p < cost q || (cost p = cost q && (p.via.isNone || (q.via.isSome && p.port < q.port)))
/-- The path of a request or a reply to a package; an ordered window's is always the minimal one (R380). -/
def State.choosePath (s : State) (pkg : Nat) (ordered : Bool) : Option Path :=
  ((s.paths pkg).filter fun p => !ordered || p.via.isNone).foldl
    (fun b p => match b with
      | none => some p
      | some q => if s.cheaper p q then some p else some q) none
/-- A key slot's counter after sealing `n` flits; none when the slot holds no key or its counter would pass its end (R383). -/
def State.sealMany (s : State) (slot n : Nat) : Option State :=
  let k : KeySlot := Map.get {} s.keys slot
  if k.current.isNone || 2 ^ 78 < k.counter + n then none else some { s with keys := Map.set s.keys slot { k with counter := k.counter + n } }
/-- One flit is sealed. -/
def State.seal (s : State) (slot : Nat) : Option State := s.sealMany slot 1
/-- Seals what leaves through a window entry, when the entry is sealed, under its slot's current key (R383). -/
def State.sealFor (s : State) (e : BitVec 256) : State × Option (BitVec 256) :=
  if wSealed e then
    match s.seal (wSlot e) with
    | some t => (t, (Map.get {} s.keys (wSlot e) : KeySlot).current)
    | none => (s, none)
  else (s, none)
/-- A receiver opens the current epoch's key of a slot and the previous one's (R383). -/
def State.opens (s : State) (slot : Nat) (k : Option (BitVec 256)) : Bool :=
  let x : KeySlot := Map.get {} s.keys slot
  k.isSome && (k = x.current || k = x.previous)
/-- A target of this package replies to a request, sealed when the request was; a reply to another package leaves this one over a path of its own choice,
and is lost where none remains (R379, R380). -/
def State.reply (s : State) (r : Request) (st : BitVec 3) (v : Word) (row : Row) (op : Instr) : State :=
  let x := if wPeer r.entry = Config.packageNumber.val then s.sealFor r.entry else (s, none)
  let p : Reply := { req := r, status := st, value := v, row := row, sealKey := x.2 }
  if r.srcPkg = Config.packageNumber.val then x.1.send (.reply p) op r.tile
  else match x.1.choosePath r.srcPkg (wOrdered r.entry) with
    | some y => { x.1 with outReplies := x.1.outReplies ++ [{ p with path := some y }], fresh := x.1.fresh + 64 }
    | none => x.1
/-- The target of a remote post answers (R185, R187). -/
def State.answerPost (s : State) (r : Request) (v : Word) : State := s.reply r 0 v 0 .remoteReply
/-- TASK_ACCEPT (R169, R170, R184): one task per tick, a local post before a remote one, which needs an entry that was free before this tick (`num` 1). -/
def execTaskAccept (s : State) : Out :=
  let t := s.ev.tile
  let u := s.tile t
  if u.unit.isNone || u.preemptReq then .next s
  else match u.posts.head?.filter fun p => p.due ≤ u.eclk with
    | some p =>
      .next (((s.modTile t fun u => { u with posts := u.posts.drop 1 }).accept t p.record none p.accsBefore).resolve t .C p.id
        [((nextSeq u.seqCtr).setWidth 64).setWidth 4096])
    | none => match u.remoteQ with
      | r :: rs =>
        if s.ev.num = 1 && u.entryFree then
          .next (((s.modTile t fun u => { u with remoteQ := rs }).accept t r.record (some r.origin) 0).answerPost r.req ((nextSeq u.seqCtr).setWidth 64))
        else .next s
      | [] => .next s

/-! ## Renaming and publication (R68, R175, R176) -/

/-- Whether a task binds, or will bind, a read box of a handle to the version at `base`. -/
def Task.reads (k : Task) (hd : Nat) (base : Nat) : Bool :=
  (List.range 4).any fun i => (k.record.box i).any fun b => b.handle = hd && !b.write && (k.st = 1 || k.bases.getD i 0 = base)
/-- Whether a version of a handle may lie at an address of the pool (R68). -/
def State.poolFits (s : State) (t : TileNo) (h : Shape) (a : Nat) : Bool :=
  let p := s.pool t
  let n := h.footRows a
  p.1 ≤ a && a + n * 64 ≤ p.1 + p.2 * 64
    && !((s.tile t).pool.any fun v => rowsMeet a n v.base v.rows)
    && s.banksAgree h a
    && (!h.scaled || (List.range n).all fun i => (a + 64 * i - bankBase (a + 64 * i)) / 64 < bits (s.fmtAt (a + 64 * i)) 19 7)
    && (!h.layout || a / 64 % 4096 % h.planes = 0)
/-- The place of a new version: the home when the current version lies in the pool and no reader of the home remains, else the lowest fit in the
pool while a rename slot is free (R68). -/
def State.renamePlace (s : State) (t : TileNo) (n : Nat) (h : Handle) : Option Nat :=
  let u := s.tile t
  if h.inPool && !(u.window.any fun k => k.st ≠ 1 && k.reads n h.shape.base) then some h.shape.base
  else if 8 ≤ u.pool.length then none
  else (findFrom (fun i => s.poolFits t h.shape ((s.pool t).1 + 64 * i)) 0 (s.pool t).2).map fun i => (s.pool t).1 + 64 * i
/-- Whether write box `i` of a waiting task is renamed now (R175). -/
def State.renames (s : State) (t : TileNo) (k : Task) (i : Nat) (b : Box) (h : Handle) : Bool :=
  let u := s.tile t
  k.st = 1 && b.write && !(k.newVer.any fun p => p.1 = i) && b.idim = 0 && h.shape.space = 0 && h.shape.rename
    && (List.range 3).all (fun d => h.shape.dims ≤ d || (b.iv.lo d = 0 && b.iv.hi d = h.shape.ext d))
    && !(k.edges.any fun e => e.box = i && e.kind ≠ .war && u.edgeOpen k e)
    && k.edges.any (fun e => e.box = i && e.kind = .war && u.edgeOpen k e)
/-- RENAME_ALLOC (R175): tries every waiting write box of a window, oldest task first. -/
def execRenameAlloc (s : State) : Out :=
  let t := s.ev.tile
  .next (((s.tile t).window.flatMap fun k => ((s.tile t).boxesOf k.record).map fun b => (k.acc, b)).foldl (fun s x =>
    match (s.tile t).task x.1 with
    | some k =>
      if s.renames t k x.2.1 x.2.2.1 x.2.2.2 then
        match s.renamePlace t x.2.2.1.handle x.2.2.2 with
        | some a => s.modTile t fun u =>
          { u.modTask k.acc (fun k => { k with newVer := k.newVer ++ [(x.2.1, a)], readyAt := max k.readyAt (u.eclk + 1) }) with
            pool := if a = x.2.2.2.shape.base then u.pool
              else u.pool ++ [{ handle := x.2.2.1.handle, base := a, rows := x.2.2.2.shape.footRows a : PoolVer }] }
        | none => s
      else s
    | none => s) s)
/-- Whether a writer in PUBLISHING may be published: no older task whose read
box met a renamed write box at acceptance remains (R171, R176). -/
def Tile.mayPublish (u : Tile) (k : Task) : Bool :=
  k.st = 3 && k.endAt ≤ u.eclk
    && !(k.edges.any fun e => e.kind = .war && (k.newVer.any fun p => p.1 = e.box) && (u.task e.older).isSome)
/-- The swap of a handle's version; a pool version that is superseded returns to the pool (R68, R92). -/
def Tile.swap (u : Tile) (hd base : Nat) : Tile :=
  match u.handle hd with
  | some h =>
    { u with
      handles := Map.set u.handles hd { h with cur := base, inPool := base ≠ h.shape.base, poison := none }
      pool := if h.inPool then u.pool.filter fun v => v.base ≠ h.cur else u.pool }
  | none => u
/-- PUBLICATION (R176, R92): the writer's versions become current and it leaves DONE. -/
def execPublication (s : State) : Out :=
  let t := s.ev.tile
  match (s.tile t).task s.ev.id with
  | some k =>
    if (s.tile t).mayPublish k then
      .next ((k.newVer.foldl (fun s p => match k.record.box p.1 with
        | some b => s.modTile t fun u => u.swap b.handle p.2
        | none => s) s).leave t k 4 0)
    else .next s
  | none => .next s

/-- TASK_EXIT (R176, R179, R195): a completed task leaves DONE; a renaming writer enters PUBLISHING, with its granules full as the task completes. -/
def execTaskExit (s : State) : Out :=
  let t := s.ev.tile
  match (s.tile t).task s.ev.id with
  | some k =>
    if k.ended = some 0 && k.endAt ≤ (s.tile t).eclk && k.st = 2 then
      if k.newVer ≠ [] then .next ((if k.record.fills then s.fillList k.marked else s).modTask t k.acc fun k => { k with st := 3, endAt := (s.tile t).eclk + 1, ended := none })
      else .next (s.leave t k 4 0)
    else .next s
  | none => .next s
/-- TASK_FAIL (R179, R180): a failed task leaves with its dependants cancelled and its write boxes poisoned. -/
def execTaskFail (s : State) : Out :=
  let t := s.ev.tile
  match (s.tile t).task s.ev.id with
  | some k => match k.ended with
    | some c => if c ≠ 0 && k.endAt ≤ (s.tile t).eclk then .next (s.failTask t k c) else .next s
    | none => .next s
  | none => .next s

/-! ## Release conditions (R177, R172, R176) -/

/-- R89: the posting stream's accesses before the POST are performed, or meet FENCE device. -/
def State.postedDone (s : State) (t : TileNo) (k : Task) : Bool :=
  k.origin.isSome || (s.tile t).c.accs.all fun a => k.accsBefore ≤ a.id || a.fenceOk t 4
/-- R177, but for the executor. -/
def State.taskReady (s : State) (t : TileNo) (k : Task) : Bool :=
  k.st = 1 && k.ended.isNone && k.readyAt ≤ (s.tile t).eclk && !(k.edges.any fun e => (s.tile t).edgeOpen k e) && s.postedDone t k
/-- The ready task of a class, among those that a further test admits, with the highest PRI, then the oldest. -/
def State.pickReady (s : State) (t : TileNo) (eng : Nat) (p : Task → Bool) : Option Task :=
  ((s.tile t).window.filter fun k => k.record.eng = eng && s.taskReady t k && p k).foldl
    (fun b k => match b with
      | none => some k
      | some o => if o.record.pri < k.record.pri then some k else some o) none
/-- R172: the upper end that box `b` takes at release. DESIGN CHOICE (log entry 74): the spec gives IADDR no alignment, and the model reads the four
bytes from any byte address, across the end of a row as well; a word in a row that cannot be read fails the task as an engine's read does (R363). -/
def State.indirect (s : State) (t : TileNo) (b : Box) (h : Shape) : Except (BitVec 16) Nat :=
  if (s.sFault t b.iaddr).isSome || clusterOf (keyTile b.iaddr) ≠ clusterOf t then .error cILLEGAL_USE
  else if [b.iaddr, b.iaddr + 3].any fun k => Map.find s.ecc (rowOf k) = some true then .error cMEM_UNCORRECTABLE
  else
    let u := Mem.readN s.mem b.iaddr 4
    if h.bound < u then .error cEXTENT else .ok u
/-- A task is released (R177): its indirect extents, its versions, its granules; a failing extent fails the task. -/
def State.releaseTask (s : State) (t : TileNo) (k : Task) : State × Bool :=
  let u := s.tile t
  let bs := u.boxesOf k.record
  let s := (s.readRows t (bs.flatMap fun b => if b.2.1.idim = 0 then [] else [b.2.1.iaddr, b.2.1.iaddr + 3])).1
  match bs.findSome? fun b => if b.2.1.idim = 0 then none else match s.indirect t b.2.1 b.2.2.shape with
      | .error c => some c
      | .ok _ => none with
  | some c => (s.modTask t k.acc fun k => { k with st := 2, ended := some c, endAt := u.eclk }, false)
  | none =>
    let ivs := (List.range 4).map fun i => match bs.find? fun b => b.1 = i with
      | some b => if b.2.1.idim = 0 then b.2.1.ivl b.2.2.shape else match s.indirect t b.2.1 b.2.2.shape with
        | .ok n => (b.2.1.ivl b.2.2.shape).setHi (b.2.1.idim - 1) n
        | .error _ => {}
      | none => {}
    let bases := (List.range 4).map fun i => match k.newVer.find? fun p => p.1 = i with
      | some p => p.2
      | none => match bs.find? fun b => b.1 = i with
        | some b => b.2.2.cur
        | none => 0
    let gs := bs.flatMap fun b => if b.2.1.write && b.2.2.shape.space = 0 then b.2.2.shape.granules (bases.getD b.1 0) (ivs.getD b.1 {}) else []
    ((s.emptyGranules gs).modTask t k.acc fun k => { k with st := 2, ivs := ivs, bases := bases, marked := gs }, true)

end Sys2Proof.Machine
end

