-- ==== Sys2Proof/Machine/Units.lean ====
section
/-! DEFINITION. The work hierarchy: END, the completion of units, launches, graphs, phases and jobs, CANCEL, CREAD and CWAIT
(R20 to R24, R27, R29, R198, R277, R343, R345). -/
namespace Sys2Proof.Machine

/-! ## Levels (R20, R21, R343) -/

/-- A launch. -/
def State.launch (s : State) (n : Nat) : Launch := Map.get {} s.launches n
/-- Changes a launch. -/
def State.modLaunch (s : State) (n : Nat) (f : Launch → Launch) : State := { s with launches := Map.set s.launches n (f (s.launch n)) }
/-- The host launch from which a launch descends (R198). -/
def State.rootLaunch (s : State) : Nat → Nat → Nat
  | 0, n => n
  | fuel + 1, n => match (s.launch n).parent with
    | some p => s.rootLaunch fuel p
    | none => n
/-- The higher of two statuses. -/
def worse (a b : BitVec 3) : BitVec 3 := if a.toNat < b.toNat then b else a
/-- A member's final status as its level takes it: REJECTED counts as FAILED (R21). -/
def memberStatus (st : BitVec 3) : BitVec 3 := if st = 4 then 2 else st
/-- A member of a level retires. -/
def Level.drop (l : Level) (st : BitVec 3) : Level := { l with members := l.members - 1, worst := worse l.worst (memberStatus st) }
/-- Whether a level completes: its counter is zero, or forced to zero once every member of a cancelled level has stopped (R20, R23). -/
def Level.zero (l : Level) : Bool := l.status = 0 && (l.members = 0 || (l.cancelled && l.members ≤ (if l.isOpen then 1 else 0)))
/-- The status a level takes. -/
def Level.final (l : Level) : BitVec 3 := if l.cancelled then 3 else l.worst
/-- A completed level. -/
def Level.close (l : Level) : Level := { l with status := l.final, members := 0, isOpen := false }
/-- A job completes when its counter is zero. -/
def State.endJob (s : State) (j : Nat) : State :=
  let l : Level := Map.get {} s.jobs j
  if l.zero then { s with jobs := Map.set s.jobs j l.close } else s
/-- A phase completes when its counter is zero. -/
def State.endPhase (s : State) (p : Nat) : State :=
  let l : Level := Map.get {} s.phases p
  if l.zero then
    ({ s with phases := Map.set s.phases p l.close, jobs := Map.set s.jobs l.parent ((Map.get {} s.jobs l.parent : Level).drop l.final) }).endJob l.parent
  else s
/-- A graph completes when its counter is zero. -/
def State.endGraph (s : State) (g : Nat) : State :=
  let l : Level := Map.get {} s.graphs g
  if l.zero then
    ({ s with graphs := Map.set s.graphs g l.close, phases := Map.set s.phases l.parent ((Map.get {} s.phases l.parent : Level).drop l.final) }).endPhase l.parent
  else s

/-! ## Launches (R20, R22, R197, R277, R345) -/

/-- Parked items of a launch are discarded and counted when it completes (R158, R277). -/
def State.dropParked (s : State) (n : Nat) : State :=
  s.tiles.foldl (fun s p =>
    let t : TileNo := BitVec.ofNat 8 p.1
    p.2.parked.foldl (fun s k => match k with
      | .delivery sh =>
        if (s.tag (tagNo sh.tagw)).launch = n then
          ((s.modTile t fun u => { u with parked := u.parked.erase (.delivery sh) }).countRouter (meetingRouter (tagNo sh.tagw)) (tagNo sh.tagw) 2 sh.tagw
            sh.origin).settleShot sh 0
        else s
      | .arrival a => if a.launch = n then (s.modTile t fun u => { u with parked := u.parked.erase (.arrival a) }).countAt t 8 1 else s) s) s
/-- Whether a unit has a child launch outstanding. -/
def State.hasChild (s : State) (l unit : Nat) : Bool := s.launches.any fun p => p.2.parent = some l && p.2.parentUnit = unit && p.2.status = 0
/-- A child launch of `l` posted by unit `unit` has completed: units that wait for quota may resume (R197). -/
def State.freeQuota (s : State) (l unit : Nat) : State :=
  let free (w : Nat) : Bool := w = unit || !s.hasChild l w
  { s with
    saved := s.saved.map fun (x : Saved) => if x.launch = l && x.quota.any free then { x with quota := none } else x
    tiles := s.tiles.map fun (p : Nat × Tile) => if p.2.launchNo = l && p.2.preemptFor.any free then (p.1, { p.2 with preemptFor := none }) else p }
/-- The dispatcher looks at a partition again. -/
def State.redispatch (s : State) (p : Nat) : State := s.later { op := .dispatchRound, ev := { num := p } }
/-- A launch takes its final status (R21): its pool entries return, its parked items go, and its level loses a member. -/
def State.finishLaunch (s : State) (n : Nat) (st : BitVec 3) : State :=
  let l := s.launch n
  let s := (s.modLaunch n fun l => { l with status := st }).dropParked n
  let s := s.pealHub l.part 7 3 0xFF n (st.toNat + l.nunits % 2 ^ 16 * 2 ^ 16 + (l.host.map Prod.fst).getD 0 * 2 ^ 32)
  let s := s.redispatch l.part
  match l.parent with
  | some p =>
    (s.modLaunch p fun q =>
      { q with share := q.share + 1 + l.quota, childrenLeft := q.childrenLeft - 1, worst := worse q.worst (memberStatus st) }).freeQuota p l.parentUnit
  | none =>
    let s := { s with poolFree := s.poolFree + (if l.pooled then 1 + l.quota else 0) }
    let s := match l.host with
      | some _ => s.post { op := .completionWord, ev := { id := n } }
      | none => s
    ({ s with graphs := Map.set s.graphs l.graph ((Map.get {} s.graphs l.graph : Level).drop st) }).endGraph l.graph
/-- A launch completes when its units and child launches have; then its parent may (R20). -/
def State.endLaunch (s : State) : Nat → Nat → State
  | 0, _ => s
  | fuel + 1, n =>
    let l := s.launch n
    if l.status ≠ 0 || l.unitsLeft ≠ 0 || l.childrenLeft ≠ 0 then s
    else
      let s := s.finishLaunch n (if l.cancelled then 3 else l.worst)
      match l.parent with
      | some p => s.endLaunch fuel p
      | none => s
/-- The depth of the hierarchy. -/
def State.depth (s : State) : Nat := s.launches.length + 1

/-! ## Units (R20, R29) -/

/-- Fire-and-forget stores of a unit that are not acknowledged (R20, R87). -/
def Tile.naOut (u : Tile) : Nat := u.c.naOut.length + u.v.naOut.length + u.f.naOut.length
/-- A stream of the unit that has ended, or had no entry. -/
def Strm.isOver (z : Strm) : Bool := z.mode = .ended || z.mode = .noEntry
/-- Whether a resident unit has no member left (R20): its streams have ended, its tasks and those it holds for others have left, its
fire-and-forget stores are acknowledged; its completion releases its earlier stores (R22). -/
def Tile.unitOver (u : Tile) : Bool :=
  match u.unit with
  | none => false
  | some r =>
    allStreams.all (fun st => (u.strm st).isOver && (u.strm st).accs = []) && u.window = [] && u.posts = [] && u.remoteQ = [] && r.tasksOut = [] && u.naOut = 0
/-- Frees the tags that a unit holds, as TAGFREE does (R29, R280). -/
def State.freeTagsOf (s : State) (l unit : Nat) : State :=
  (s.tags.filter fun p => p.2.live && p.2.launch = l && p.2.unitIdx = unit).foldl (fun s p => s.freeTag p.1) s
/-- UNIT_RETIRE (R20, R21, R29). -/
def execUnitRetire (s : State) : Out :=
  let t := s.ev.tile
  let u := s.tile t
  match u.unit with
  | none => .next s
  | some r =>
    if !u.unitOver then .next s
    else
      let st : BitVec 3 := if r.cancelled then 3 else if r.failed then 2 else 1
      let s := s.freeTagsOf r.launch r.idx
      let s := (u.barQ.foldl (fun s _ => s.countAt t 8 1) s).parkEdge t
      let s := s.modTile t fun u =>
        { u with unit := none, bars := [], cbs := [], cbs0 := [], barQ := [], deque := [], condQ := [], handling := none, preemptAsk := false, preemptFor := none, preemptReq := false }
      let s := s.modLaunch r.launch fun l => { l with unitsLeft := l.unitsLeft - 1, worst := worse l.worst st }
      let p := (s.launch r.launch).part
      let s := (s.endLaunch s.depth r.launch).redispatch p
      .next (if u.planeEnd.isSome then s.post { op := .planeFlip, ev := { tile := t } } else s)

/-! ## END (R29, R195) -/

/-- A stream ends (R29): its pending loads complete and are discarded; its stores and its exposed-latency results, loads among them, go on. -/
def Strm.finish (z : Strm) : Strm :=
  { z with mode := .ended, pending := [], awaits := [], waitN := none, issuedWait := none, rep := none, check := none, stall := rNONE
           accs := z.accs.map fun a => if z.flights.any fun f => some f.id = a.sink then a else { a with sink := none } }
/-- END (R29): a task that the stream holds fails with TASK_ABANDONED. -/
def execEndStream (s : State) : Out :=
  s.guard onAll [] fun s =>
    let s := match s.cur.heldTask with
      | some k => s.endTask s.ct k cTASK_ABANDONED 0
      | none => s
    .next (s.modCur Strm.finish)

/-! ## CANCEL (R23, R198) -/

/-- Works on the tile of a saved unit as if it were resident; what the tile and the saved units really hold is put back. -/
def State.inSaved (s : State) (x : Saved) (f : State → State) : State :=
  let live := s.tile x.tileNo
  let r := f (s.setTile x.tileNo { x.tile with pealQ := live.pealQ })
  let y := r.tile x.tileNo
  { r.setTile x.tileNo { live with pealQ := y.pealQ } with
    saved := r.saved.map fun z => if z.tileNo = x.tileNo && z.launch = x.launch && z.idx = x.idx then { z with tile := { y with pealQ := [] } } else z }
/-- A record in a remote-post queue that will not be accepted: its poster's request ends. -/
def State.refuseRecord (s : State) (r : RemotePost) : State :=
  s.answerPost r.req (BitVec.ofNat 64 (2 ^ 63 + 3))
/-- Whether a unit of this package has posted a task or a record. -/
def Origin.isUnit (o : Origin) (t : TileNo) (l i : Nat) : Bool := o.pkg = Config.packageNumber.val && o.tile = t && o.launch = l && o.unit = i
/-- R23, step 3, and R185, for what a stopped unit, which `mine` names, has posted into windows of this package: its tasks in other windows are
cancelled, those of saved units among them, and its records that wait in remote-post queues are refused. -/
def State.cancelPosted (s : State) (mine : Origin → Bool) : State :=
  let s := s.tiles.foldl (fun s p =>
    let v : TileNo := BitVec.ofNat 8 p.1
    let gone := p.2.remoteQ.filter fun r => mine r.origin
    let s := if gone = [] then s else gone.foldl State.refuseRecord (s.modTile v fun u => { u with remoteQ := u.remoteQ.filter fun r => !mine r.origin })
    s.cancelTasks v fun k => k.origin.any mine) s
  (s.saved.filter fun x => x.tile.window.any (fun k => k.origin.any mine) || x.tile.remoteQ.any fun r => mine r.origin).foldl (fun s x =>
    s.inSaved x fun s =>
      let u := s.tile x.tileNo
      let own := u.window.filter fun k => k.origin.any mine
      let deps := cascade (own.map Task.acc) u.window
      let gone := u.remoteQ.filter fun r => mine r.origin
      let s := gone.foldl State.refuseRecord (s.modTile x.tileNo fun u => { u with remoteQ := u.remoteQ.filter fun r => !mine r.origin })
      let s := own.foldl (fun s k => s.leave x.tileNo k 6 cCANCEL_LEVEL) s
      deps.foldl (fun s k => s.leave x.tileNo k 6 cCANCEL_DEP) s) s
/-- The same for unit `i` of launch `l` on tile `t` of this package. -/
def State.cancelRemote (s : State) (t : TileNo) (l i : Nat) : State := s.cancelPosted fun o => o.isUnit t l i
/-- A group that a stopped unit's COLLDEF waited for is not defined (R298). -/
def State.dropPending (s : State) (t : TileNo) (l i : Nat) : State :=
  { s with ctxs := s.ctxs.map fun c => (c.1, { c.2 with groups := c.2.groups.filter fun g => g.2.live || g.2.defTile ≠ t || g.2.defUnit ≠ (l, i) }) }
/-- A unit of the tile stops for a cancelled level, or with `num` 0 for a failure: steps 2 and 3 of R23 (R354). DESIGN
CHOICE (log entry 85): R23 says nothing of a POST that has issued and is not yet accepted; it is dropped, with no task, no record and no action. -/
def State.stopUnit (s : State) (t : TileNo) (cancelled : Bool) : State :=
  match (s.tile t).unit with
  | none => s
  | some r =>
    let s := s.modTile t fun u =>
      { u.modAll (fun z => if z.mode = .noEntry then z else
          { z.abandon with mode := .ended, pending := [], awaits := [], flights := [], accs := z.abandon.accs.map fun a => { a with sink := none }, rep := none, check := none, asyncs := [] }) with
        unit := some { r with cancelled := r.cancelled || cancelled, stopped := true }, posts := [], handling := none, preemptAsk := false, preemptFor := none, preemptReq := false }
    ((s.cancelTasks t fun k => k.origin.isNone).cancelRemote t r.launch r.idx).dropPending t r.launch r.idx
/-- The launch of a saved unit is cancelled (R23): the tasks of its window leave CANCELLED, with their actions and records (R165, R179), those that it
has posted elsewhere are cancelled, the records in its remote-post queue are refused, the arrivals held for its barriers are discarded and counted (R158), and its stores that the bridge has
accepted are performed. DESIGN CHOICE (log entry 86): the spec does not say what becomes of the tasks that others have posted into its window; they end
as its own do. -/
def State.dropSaved (s : State) (x : Saved) : State :=
  let s := s.inSaved x fun s => x.tile.window.foldl (fun s k => s.leave x.tileNo k 6 cCANCEL_LEVEL) s
  let s := (s.cancelRemote x.tileNo x.launch x.idx).dropPending x.tileNo x.launch x.idx
  let s := x.tile.remoteQ.foldl (fun s r => s.refuseRecord r) s
  let s := x.tile.barQ.foldl (fun s _ => s.countAt x.tileNo 8 1) s
  let s := (allStreams.flatMap fun st => (x.tile.strm st).accs.filter fun a => a.isStore && !a.isLoad && a.key < 2 ^ 80).foldl (fun s a => s.putRow a.key a.data) s
  { s with saved := s.saved.filter fun y => !(y.tileNo = x.tileNo && y.launch = x.launch && y.idx = x.idx) }
/-- Cancels a launch: nothing more of it starts, its resident units stop, its child launches are cancelled (R23). -/
def State.cancelLaunch (s : State) : Nat → Nat → State
  | 0, _ => s
  | fuel + 1, n =>
    let l := s.launch n
    if l.status ≠ 0 then s
    else
      let away := s.saved.filter fun x => x.launch = n
      let fresh := s.tiles.filter fun (p : Nat × Tile) => !l.cancelled && p.2.placing.any fun (q : Nat × Nat) => q.1 = n && !(away.any fun (x : Saved) => x.idx = q.2)
      let s := s.modLaunch n fun l =>
        { l with cancelled := true, waiting := [], unitsLeft := l.unitsLeft - l.waiting.length - away.length - fresh.length }
      let s := { s with tiles := s.tiles.map fun (p : Nat × Tile) => if p.2.flipped && p.2.placing.any fun (q : Nat × Nat) => q.1 = n then (p.1, { p.2 with placing := none }) else p }
      let s := away.foldl (fun s x => (s.dropSaved x).freeTagsOf n x.idx) s
      let s := s.tiles.foldl (fun s p => if p.2.unit.any fun r => r.launch = n then s.stopUnit (BitVec.ofNat 8 p.1) true else s) s
      let s := (s.launches.filter fun p => p.2.parent = some n && p.2.status = 0).foldl (fun s p => s.cancelLaunch fuel p.1) s
      s.endLaunch s.depth n
/-- Cancels the host launches of a graph. -/
def State.cancelGraph (s : State) (g : Nat) : State :=
  let l : Level := Map.get {} s.graphs g
  if l.status ≠ 0 then s
  else
    let s := { s with graphs := Map.set s.graphs g { l with cancelled := true } }
    ((s.launches.filter fun p => p.2.parent.isNone && p.2.graph = g && p.2.status = 0).foldl (fun s p => s.cancelLaunch s.depth p.1) s).endGraph g
/-- Cancels the graphs of a phase. -/
def State.cancelPhase (s : State) (p : Nat) : State :=
  let l : Level := Map.get {} s.phases p
  if l.status ≠ 0 then s
  else
    let s := { s with phases := Map.set s.phases p { l with cancelled := true } }
    ((s.graphs.filter fun g => g.2.parent = p && g.2.status = 0).foldl (fun s g => s.cancelGraph g.1) s).endPhase p
/-- Cancels the phases of a job (level 4). -/
def State.cancelJob (s : State) (j : Nat) : State :=
  let l : Level := Map.get {} s.jobs j
  if l.status ≠ 0 then s
  else
    let s := { s with jobs := Map.set s.jobs j { l with cancelled := true } }
    ((s.phases.filter fun p => p.2.parent = j && p.2.status = 0).foldl (fun s p => s.cancelPhase p.1) s).endJob j
/-- CANCEL_STOP: `num` 0 stops the failed unit of a tile (R354); 1 applies a CANCEL, of level `aux` and member `id`, or of the unit of the tile. -/
def execCancelStop (s : State) : Out :=
  if s.ev.num = 0 then .next (s.stopUnit s.ev.tile false)
  else match s.ev.aux with
    | 0 => .next (s.stopUnit s.ev.tile true)
    | 1 => .next (s.cancelLaunch s.depth s.ev.id)
    | 2 => .next (s.cancelGraph s.ev.id)
    | 3 => .next (s.cancelPhase s.ev.id)
    | _ => .next (s.cancelJob s.ev.id)

/-- The member that level `l` and x[xi] name (R198); none is ILLEGAL_USE. -/
def State.levelMember (s : State) (l : BitVec 3) (x : Word) : Option Nat :=
  let own := s.me.launchNo
  let n := bits x 31 0
  let root := s.launch (s.rootLaunch s.depth own)
  if n ≠ 0 then (if l = 1 && Map.has s.launches n && (s.launch n).parent = some own then some n else none)
  else match l.toNat with
    | 0 => some 0
    | 1 => some own
    | 2 => some root.graph
    | 3 => some root.phase
    | _ => some root.job
/-- Counter and status of a level's member (R198); tasks that other units have posted into this window are members of theirs (R185). -/
def State.levelWord (s : State) (l : BitVec 3) (m : Nat) : Word :=
  let pack (c : Nat) (st : BitVec 3) : Word := BitVec.ofNat 64 (c % 2 ^ 32 + st.toNat * 2 ^ 32)
  match l.toNat with
  | 0 =>
    let u := s.me
    pack ((allStreams.filter fun st => !(u.strm st).isOver).length + (u.window.filter fun k => k.origin.isNone).length + u.posts.length
      + ((u.unit.map UnitRes.tasksOut).getD []).length + u.naOut) 0
  | 1 => let q := s.launch m; pack (q.unitsLeft + q.childrenLeft) q.status
  | 2 => let q : Level := Map.get {} s.graphs m; pack q.members q.status
  | 3 => let q : Level := Map.get {} s.phases m; pack q.members q.status
  | _ => let q : Level := Map.get {} s.jobs m; pack q.members q.status
/-- CANCEL (R198): applied in the late part of the tick (R183, R360); a job takes PRIVILEGE. -/
def execCancel (a : Reg) (l : BitVec 3) (s : State) : Out :=
  s.guard onC [.x a] fun s =>
    if l = 4 then s.trap cPRIVILEGE
    else if 4 < l.toNat then s.trap cILLEGAL_ENCODING
    else match s.levelMember l (s.x a) with
      | none => s.trap cILLEGAL_USE
      | some m => (s.postLate { op := .cancelStop, ev := { tile := s.ct, num := 1, aux := l.toNat, id := m } }).done
/-- CREAD (R198). -/
def execCread (d a : Reg) (l : BitVec 3) (s : State) : Out :=
  s.guardI onC [.x a] [.x d] fun s =>
    if 4 < l.toNat then s.trap cILLEGAL_ENCODING
    else match s.levelMember l (s.x a) with
      | none => s.trap cILLEGAL_USE
      | some m => (s.answer d (s.levelWord l m)).done
/-- CWAIT (R198): on a member that contains the issuing unit it traps; so it waits for a child launch. -/
def execCwait (d a : Reg) (l : BitVec 3) (s : State) : Out :=
  s.guardI onC [.x a] [.x d] fun s =>
    if 4 < l.toNat then s.trap cILLEGAL_ENCODING
    else match s.levelMember l (s.x a) with
      | none => s.trap cILLEGAL_USE
      | some m =>
        if bits (s.x a) 31 0 = 0 then s.trap cILLEGAL_USE
        else if (s.launch m).status = 0 then s.stall rBARRIER
        else (s.answer d (s.levelWord l m)).done

end Sys2Proof.Machine
end

