-- ==== Sys2Proof/Machine/Tasks.lean ====
section
/-! DEFINITION. The task-graph instructions of a tile: SHAPE, SHFREE, POST, TWAIT, TSTAT, TCLR, TACQ, TEND and the work deque
(R66, R68, R169, R186 to R189, R191 to R195, R199). -/
namespace Sys2Proof.Machine

/-! ## Records in the tile's slice (R186, R189) -/

/-- A row as the current stream's own stores leave it; none while an atomic of the stream on that row is not yet performed. -/
def State.ownRow (s : State) (k : Nat) : Option Row :=
  match (s.cur.accs.filter fun a => a.key = k && a.isStore).getLast? with
  | none => some (s.row k)
  | some a => if a.isLoad then none else some a.data
/-- An operand that names `n` rows of the issuing tile's slice (R186): the faults of R49, then ILLEGAL_USE; the first row's address. -/
def State.recordAt (s : State) (w : Word) (n : Nat) (k : Nat → Out) : Out :=
  let a := bits w 31 0
  match (List.range n).findSome? fun i => (s.sFault s.ct (a + 64 * i)).map fun c => (c, a + 64 * i) with
  | some f => s.trapAddr f.1 (BitVec.ofNat 64 f.2)
  | none => if a % 64 ≠ 0 || keyTile a ≠ s.ct || keyTile (a + 64 * (n - 1)) ≠ s.ct then s.trap cILLEGAL_USE else k a
/-- Reads the `n` rows of a record as the stream sees them: a channel's rows at or above WM wait or trap (R295), and one may have an
uncorrectable error (R363). -/
def State.readRecord (s : State) (a n : Nat) (k : List Row → State → Out) : Out :=
  let rows := (List.range n).map fun i => a + 64 * i
  s.gated rows fun s => match rows.mapM s.ownRow with
    | none => s.stall rINTERLOCK
    | some rs => match s.readRows s.ct rows with
      | (s, false) => k rs s
      | (s, true) => s.lostRead a
/-- The rows of a record that an instruction names and reads. -/
def State.withRecord (s : State) (w : Word) (n : Nat) (k : List Row → State → Out) : Out := s.recordAt w n fun a => s.readRecord a n k
/-- An interlocked scalar result whose value comes later; a result to x0 is discarded (R113). -/
def State.awaitX (s : State) (d : Reg) : State := if d = 0 then s.bump else s.await [.x d] [] false 0 0

/-! ## SHAPE and SHFREE (R66, R188) -/

def execShape (d a b : Reg) (s : State) : Out :=
  s.guardI onC [.x a, .x b] [.x d] fun s => s.withRecord (s.x b) 1 fun rs s =>
    let n := bits (s.x a) 11 0
    let r := rs.headD 0
    let st := s.shapeStatus s.ct n r
    ((if st = 0 then s.modMe fun u => u.register n (shapeOf r) else s).answer d (BitVec.ofNat 64 st)).done
/-- Whether a record names a handle. -/
def TaskRec.names (r : TaskRec) (n : Nat) : Bool := r.boxes.any fun b => b.any fun b => b.handle = n
/-- Whether the window, a POST not yet accepted, or the remote-post queue names a handle. -/
def Tile.handleUsed (u : Tile) (n : Nat) : Bool :=
  u.window.any (fun k => k.record.names n) || u.posts.any (fun p => p.record.names n) || u.remoteQ.any fun r => r.record.names n
/-- SHFREE (R68, R188). -/
def execShfree (a : Reg) (s : State) : Out :=
  s.guard onC [.x a] fun s =>
    let n := bits (s.x a) 11 0
    if (s.me.handle n).isNone then s.trap cHANDLE_INVALID
    else if s.me.handleUsed n then s.stall rTWAIT
    else (s.modMe fun u => { u with handles := Map.del u.handles n, pool := u.pool.filter fun v => v.handle ≠ n }).done

/-! ## POST (R169, R187, R189) -/

/-- A status of R187. -/
def postStatus (n : Nat) : Word := BitVec.ofNat 64 (2 ^ 63 + n)
/-- POST and POST.TRY: the record is read in the tick in which an entry is reserved. -/
def State.postTask (s : State) (d a : Reg) (try_ : Bool) : Out :=
  s.guardI onC [.x a] [.x d] fun s => s.recordAt (s.x a) 3 fun addr =>
    if !s.me.entryFree then (if try_ then (s.answer d (postStatus 1)).done else s.stall rWINDOW_FULL)
    else s.readRecord addr 3 fun rs s =>
      let r0 := rs.getD 0 0
      let r1 := rs.getD 1 0
      let r2 := rs.getD 2 0
      if s.me.malformed r0 r1 r2 false then s.trap cBAD_RECORD
      else
        let id := s.nextId
        ((s.awaitX d).modMe fun u =>
          { u with posts := u.posts ++ [{ id := id, due := u.eclk + 4, record := recordOf r0 r1 r2, accsBefore := id : PendingPost }] }).done
def execPost (d a : Reg) (s : State) : Out := s.postTask d a false
def execPostTry (d a : Reg) (s : State) : Out := s.postTask d a true

/-! ## TWAIT, TSTAT and TCLR (R191 to R193) -/

/-- The acceptance count of the most recent task that bears a sequence number (R170). -/
def Tile.accOf (u : Tile) (n : Nat) : Option Nat :=
  if n = 0 || u.accCtr < n then none else some (n + (u.accCtr - n) / (2 ^ 32 - 1) * (2 ^ 32 - 1))
/-- The mark of a TWAIT in its first wait. -/
def twaitMark : Nat := 2 ^ 100
/-- TWAIT (R191). -/
def execTwait (d a : Reg) (s : State) : Out :=
  s.guardI onC [.x a] [.x d] fun s =>
    let finish (n : Nat) (s : State) : Out :=
      if s.me.window.all fun k => n < k.acc then
        (s.answer d (match s.me.firstBad with | some b => if b.1 ≤ n then zext64 b.2 else 0 | none => 0)).done
      else s.stall rTWAIT
    let first (s : State) : Out :=
      if s.me.posts ≠ [] then (s.modCur fun z => { z with waitN := some twaitMark }).stall rTWAIT
      else if s.me.accCtr = 0 then (s.answer d 0).done
      else finish s.me.accCtr (s.modCur fun z => { z with waitN := some s.me.accCtr })
    match s.cur.waitN with
    | some n => if n = twaitMark then first s else finish n s
    | none => match s.me.accOf (bits (s.x a) 31 0) with
      | some n => finish n s
      | none => first s
/-- TSTAT's word (R192). -/
def tstatWord (st : BitVec 3) (fault : BitVec 16) (flags : BitVec 6) : Word :=
  BitVec.ofNat 64 (st.toNat + fault.toNat * 2 ^ 8 + flags.toNat * 2 ^ 24)
/-- What TSTAT says of a sequence number. -/
def Tile.tstat (u : Tile) (n : BitVec 32) : Word :=
  match (u.window.filter fun k => k.seq = n).getLast? with
  | some k => tstatWord k.st 0 k.flags
  | none => match (u.done.filter fun k => k.seq = n).getLast? with
    | some k => tstatWord k.st k.fault k.flags
    | none => 0
def execTstat (d a : Reg) (s : State) : Out :=
  s.guardI onC [.x a] [.x d] fun s => (s.answer d (s.me.tstat ((s.x a).setWidth 32))).done
def execTclr (a : Reg) (s : State) : Out :=
  s.guard onC [.x a] fun s =>
    let n := bits (s.x a) 11 0
    match s.me.handle n with
    | none => s.trap cHANDLE_INVALID
    | some h => (s.modMe fun u => { u with handles := Map.set u.handles n { h with poison := none } }).done

/-! ## TACQ and TEND (R194, R195) -/

/-- x(5 + k): the address of the first element of box k in its bound version. -/
def Task.boxAddr (k : Task) (i : Nat) (h : Shape) : Nat :=
  let v := k.ivs.getD i {}
  if h.layout then (h.planarAt (k.bases.getD i 0) v.l0 v.l1 v.l2).1 else (h.packedAt (k.bases.getD i 0) v.l0 v.l1 v.l2).1
/-- The nine results of TACQ: x1 to x8, then x[xd]. -/
def State.tacqVals (s : State) (k : Task) : List Word :=
  [k.record.p0, k.record.p1, k.record.p2, k.record.p3]
    ++ (List.range 4).map (fun i => match (s.me.boxesOf k.record).find? fun b => b.1 = i with
        | some b => BitVec.ofNat 64 (k.boxAddr i b.2.2.shape)
        | none => 0)
    ++ [BitVec.ofNat 64 (k.seq.toNat + k.record.op * 2 ^ 32)]
/-- Whether no task of a class can come any more (R194, DRAINED). -/
def Tile.drained (u : Tile) (c : Nat) : Bool :=
  u.c.isOver && !(u.window.any fun k => k.record.eng = c) && !(u.posts.any fun p => p.record.eng = c) && !(u.remoteQ.any fun r => r.record.eng = c)
/-- The destinations of TACQ. -/
def tacqDests (d : Reg) : List Dest := ((List.range 8).map fun i => Dest.x (BitVec.ofNat 5 (i + 1))) ++ [.x d]
/-- TACQ (R194): VECTOR tasks one at a time, SOFT tasks one per stream, at most one of a class released per tick (R166, R177). -/
def execTacq (d : Reg) (c : BitVec 3) (s : State) : Out :=
  s.guardI onAll [] (tacqDests d) fun s =>
    if (1 ≤ d.toNat && d.toNat ≤ 8) || (c ≠ 3 && c ≠ 4) then s.trap cILLEGAL_ENCODING
    else if (c = 3 && s.cs ≠ .V) || s.cur.heldTask.isSome then s.trap cILLEGAL_USE
    else
      let taken := if c = 3 then s.me.window.any fun k => k.record.eng = 3 && k.st = 2 else s.me.softAt = some s.me.eclk
      match if taken then none else s.pickReady s.ct c.toNat fun _ => true with
      | some k =>
        let r := s.releaseTask s.ct k
        let s := r.1.modMe fun u => { u with softAt := if c = 4 then some u.eclk else u.softAt }
        if !r.2 then s.stall rTASK_IDLE
        else
          let k := (s.me.task k.acc).getD k
          (((s.modTask s.ct k.acc fun k => { k with holder := some s.cs }).modCur fun z => { z with heldTask := some k.acc }).answers (tacqDests d)
            ((s.tacqVals k).map fun w => w.setWidth 4096)).done
      | none =>
        if s.me.drained c.toNat then
          ((s.modMe fun u => if c = 3 then { u with drainedV := true } else { u with drainedS := true }).answer d 0).done
        else s.stall rTASK_IDLE
/-- TEND (R195): the task completes in the next tick. -/
def execTend (a : Reg) (s : State) : Out :=
  s.guard onAll [.x a] fun s =>
    match s.cur.heldTask with
    | none => s.trap cILLEGAL_USE
    | some k =>
      if !s.cur.fenced s.ct 4 then s.stall rFENCE
      else ((s.endTask s.ct k (if s.x a = 0 then 0 else cTASK_SOFT) (s.me.eclk + 1)).modCur fun z => { z with heldTask := none }).done

/-! ## The work deque (R199) -/

def execDqpush (d a : Reg) (s : State) : Out :=
  s.guardI onC [.x a] [.x d] fun s =>
    if bitAt (s.x a) 63 then s.trap cILLEGAL_USE
    else if s.me.qTakes 0 1 then ((s.modMe fun u => { u with deque := u.deque ++ [s.x a], queueAdded := true }).answer d 0).done
    else (s.answer d 1).done
def execDqpop (d : Reg) (s : State) : Out :=
  s.guardI onC [] [.x d] fun s =>
    match s.me.deque.getLast? with
    | some w => ((s.modMe fun u => { u with deque := u.deque.dropLast }).answer d w).done
    | none => (s.answer d (2 ^ 63)).done
/-- DQSTEAL: served at the end of the clock, after the owner (`State.doSteals`). -/
def execDqsteal (d a : Reg) (s : State) : Out :=
  s.guardI onC [.x a] [.x d] fun s =>
    let t : TileNo := (s.x a).setWidth 8
    match s.tileFault s.ct t with
    | some c => s.trap c
    | none =>
      let id := s.nextId
      let s := s.awaitX d
      ({ s with steals := s.steals ++ [{ thief := s.ct, st := s.cs, id := id, victim := t }] } : State).done
/-- One steal: the top item, or EMPTY, LOST or NORES; at a frozen tile it waits (R336). -/
def State.doSteal (s : State) (q : Steal) : State :=
  let u := s.tile q.victim
  let give (w : Word) (s : State) : State := s.resolveLater q.thief q.st q.id [w.setWidth 4096]
  if u.frozen then { s with steals := s.steals ++ [q] }
  else if u.unit.isNone || u.launchNo ≠ (s.tile q.thief).launchNo then give (2 ^ 63 + 2) s
  else match u.deque with
    | w :: rest => give w (s.modTile q.victim fun u => { u with deque := rest })
    | [] => give (if u.dequeEmpty then 2 ^ 63 else 2 ^ 63 + 1) s
/-- The steals of a clock, in order of tile number: the slots run in that order. -/
def State.doSteals (s : State) : State := s.steals.foldl State.doSteal { s with steals := [] }

end Sys2Proof.Machine
end

