-- ==== Sys2Proof/Machine/Remote.lean ====
section
/-! DEFINITION. Window addresses, remote instructions, transactions and remote posting (R76, R184, R185, R190, R284 to R292, R376 to R383). -/
namespace Sys2Proof.Machine

/-! ## Window addresses (R284, R285) -/

/-- Handle and offset of a window address. -/
def winHandle (w : Word) : Nat := bits w 63 48
def winOff (w : Word) : Nat := bits w 47 0
/-- Entry `h` of a tile's window table, which lies at WTBASE in the fabric context of its unit; none is beyond WTLEN. -/
def State.winEntry (s : State) (t : TileNo) (h : Nat) : Option (Except Nat (BitVec 256)) :=
  let u := s.tile t
  if bits (u.planeReg 0x118) 63 48 ≤ h then none
  else match s.gKey t (bits (u.planeReg 0x119) 55 0 + 32 * h) true false with
    | .ok p => some (.ok (BitVec.ofNat 256 (Mem.readN s.mem p.key 32)))
    | .error k => some (.error k)
/-- The checks of R285 for a window address and a permission bit: the fault and, of a translation fault of the table, its subcause (R372). -/
def State.winCheck (s : State) (w : Word) (perm : Nat) : Except (BitVec 16 × Nat) (BitVec 256) :=
  match s.winEntry s.ct (winHandle w) with
  | none => .error (cWINDOW_RANGE, 0)
  | some (.error sub) => .error (cTRANSLATION, sub)
  | some (.ok e) =>
    if !bitAt e 0 then .error (cWINDOW_INVALID, 0)
    else if !bitAt e perm then .error (cWINDOW_PERM, 0)
    else if wLimit e < rowOf (winOff w) + 64 then .error (cWINDOW_LIMIT, 0)
    else .ok e
/-- The trap of a window address that fails R285. -/
def State.trapWin (s : State) (f : BitVec 16 × Nat) (w : Word) : Out := if f.1 = cTRANSLATION then s.trapG w f.2 else s.trapAddr f.1 w
/-- A window address that passes R285; a failing one traps with the window address. -/
def State.withWindow (s : State) (w : Word) (perm : Nat) (k : BitVec 256 → State → Out) : Out :=
  match s.winCheck w perm with
  | .ok e => k e s
  | .error f => s.trapWin f w
/-- The key that stands for a peer location (R76). -/
def winKey (e : BitVec 256) (off : Nat) : Nat := keyPeer (wPeer e) (wCtx e) ((wBase e + off) % 2 ^ 56)

/-! ## Issuing a request (R376) -/

/-- The lowest free transaction tag. -/
def State.freeTx (s : State) : Option Nat := findFrom (fun i => (Map.get {} s.txTags i : TxTag).busy.isNone) 0 4096
/-- TTIMEOUT in µs (R377). -/
def State.tt (s : State) : Nat := max 1 s.ttimeout.toNat
/-- Whether a package can be reached: this one without a link, another over a path that remains (R379). -/
def State.reaches (s : State) (pkg : Nat) : Bool := pkg = Config.packageNumber.val || s.paths pkg ≠ []
/-- A request is given its tag, its path and its seal (R376, R380, R383). -/
def State.equip (s : State) (r : Request) (tag : Nat) : Request :=
  { r with tag := tag, gen := (Map.get {} s.txTags tag : TxTag).gen, time := s.fabric, srcPkg := Config.packageNumber.val
           path := s.choosePath (wPeer r.entry) (wOrdered r.entry), fate := Config.freeStatus s.fresh, sealKey := (s.sealFor r.entry).2 }
/-- A tag is taken by a request, which leaves sealed. -/
def State.takeTx (s : State) (r : Request) : State :=
  let x : TxTag := Map.get {} s.txTags r.tag
  { (s.sealFor r.entry).1 with txTags := Map.set s.txTags r.tag { x with busy := some r }, fresh := s.fresh + 64 }
/-- A request leaves with a tag. -/
def State.launchRequest (s : State) (r : Request) (tag : Nat) : State :=
  let r := s.equip { r with launch := s.me.launchNo, unit := (s.me.unit.map UnitRes.idx).getD 0 } tag
  (s.takeTx r).send (.request r) (if r.kind = .rpost then .remotePostArrival else .remoteRequest) r.target
/-- Sends a request of the current stream: it stands among the stream's accesses until it has been performed. -/
def State.request (s : State) (r : Request) (a : Access) : State :=
  match s.freeTx with
  | none => s
  | some tag =>
    let id := s.nextId
    let s := (s.modCur fun z =>
      { z with accs := z.accs ++ [{ a with id := id, ownDie := false, bridged := a.isStore, lane := z.pc }]
               naOut := if r.kind = .rstqNa then z.naOut ++ [id] else z.naOut
               remoteOut := if r.kind = .rstqNa || r.kind = .rldq then z.remoteOut else z.remoteOut ++ [id] }).bump
    s.launchRequest { r with tile := s.ct, st := s.cs, acc := id, lane := s.cur.pc } tag
/-- A request waits at the egress while no tag is free. -/
def State.withTx (s : State) (k : State → Out) : Out := if s.freeTx.isNone then s.stall rREMOTE_ACK else k s
/-- An instruction whose result goes to x0 still waits for it (R190, R288): `k` answers the state with the request sent. -/
def State.waitResult (s : State) (d : Reg) (k : State → State) : Out :=
  if d ≠ 0 then (k s).done
  else match s.cur.issuedWait with
    | some n => if s.cur.awaits.any fun a => a.id = n then s.stall rREMOTE_ACK else s.done
    | none => let id := s.nextId; ((k s).modCur fun z => { z with issuedWait := some id }).stall rREMOTE_ACK

/-! ## Row access (R287) -/

/-- The window address of an M-format remote instruction. -/
def State.winAddr (s : State) (b : Reg) (i : BitVec 13) : Word :=
  BitVec.ofNat 64 (winHandle (s.x b) * 2 ^ 48 + wrapInt 48 (winOff (s.x b) + simm i * 64))
/-- The access that stands for a remote row access. -/
def remoteAcc (e : BitVec 256) (w : Word) (isLoad : Bool) (ql : Option Qual) : Access :=
  { isLoad := isLoad, isStore := !isLoad, key := winKey e (rowOf (winOff w)), acq := isLoad && qualAcq ql, rel := if isLoad then none else qualRel ql, addr := w }
/-- A remote result that is loaded: its load completes before a trap frame is written and before pre-emption (R95). -/
def State.asLoad (s : State) (id : Nat) : State := s.modCur fun z => { z with awaits := z.awaits.map fun w => if w.id = id then { w with isLoad := true } else w }
/-- RLDQ. -/
def execRldq (q : QReg) (b : Reg) (i : BitVec 13) (ql : Option Qual) (s : State) : Out :=
  s.guardI onCF [.x b] [.q q] fun s =>
    let w := s.winAddr b i
    s.withWindow w 5 fun e s => s.withTx fun s =>
      let id := s.nextId
      (((s.await [.q q] [] false 0 w).asLoad id).request { kind := .rldq, await := id, handle := winHandle w, entry := e, offset := rowOf (winOff w), addr := w }
        (remoteAcc e w true ql)).done
/-- RSTQ: the row register stays pending until the store is acknowledged. -/
def execRstq (q : QReg) (b : Reg) (i : BitVec 13) (ql : Option Qual) (s : State) : Out :=
  s.guardI onCF [.x b] [.q q] fun s =>
    let w := s.winAddr b i
    s.withWindow w 6 fun e s => s.withTx fun s =>
      let id := s.nextId
      let row := s.q q
      ((s.await [.q q] [] false 0 w).request
        { kind := .rstq, await := id, handle := winHandle w, entry := e, offset := rowOf (winOff w), data := row, addr := w }
        (remoteAcc e w false ql)).done
/-- RSTQ.NA: at most 64 unacknowledged in a stream. -/
def execRstqNa (q : QReg) (b : Reg) (i : BitVec 13) (ql : Option Qual) (s : State) : Out :=
  s.guard onCF [.q q, .x b] fun s =>
    let w := s.winAddr b i
    s.withWindow w 6 fun e s =>
      if 64 ≤ s.cur.naOut.length then s.stall rREMOTE_ACK
      else s.withTx fun s =>
        (s.request { kind := .rstqNa, handle := winHandle w, entry := e, offset := rowOf (winOff w), data := s.q q, addr := w }
          (remoteAcc e w false ql)).done

/-! ## Memory-side operations (R288 to R292) -/

/-- An indivisible remote operation with result d and row register `qs`; it stands in its stream's order for every row that it names, and one that
follows pointers for whatever they lead to (R80, R86). -/
def State.remoteOp (s : State) (d : Reg) (qs : List Dest) (r : Request) (isStore : Bool) : Out :=
  s.waitResult d fun s =>
    let id := s.nextId
    ((s.await (.x d :: qs) [] false 0 r.addr).asLoad id).request { r with await := id }
      { isLoad := !isStore, isStore := isStore, key := winKey r.entry r.offset, addr := r.addr, chase := r.kind = .renq || r.kind = .rchase
        more := (r.offs.drop 1).map fun o => winKey r.entry (rowOf o) }
/-- Whether a stream waits for a remote result to x0. -/
def State.waiting (s : State) : Bool := s.cur.issuedWait.isSome
/-- RAMO (R289). -/
def execRamo (d a : Reg) (q : QReg) (op : BitVec 4) (w64 : Bool) (wm : BitVec 8) (s : State) : Out :=
  if s.waiting then s.waitResult d id else
  s.guardI onCF [.x a] [.x d, .q q] fun s =>
    let w := s.x a
    s.withWindow w 7 fun e s =>
      if winOff w % 8 ≠ 0 then s.trap cILLEGAL_USE
      else s.withTx fun s => s.remoteOp d [.q q]
        { kind := .ramo, handle := winHandle w, entry := e, offset := rowOf (winOff w), data := s.q q, amoOp := op, w64 := w64, wm := wm, addr := w } true
/-- RCAS (R290). -/
def execRcas (d : Reg) (a b : QReg) (n : BitVec 2) (s : State) : Out :=
  if s.waiting then s.waitResult d id else
  s.guardI onCF [.q b] [.x d, .q a] fun s =>
    let ws := (List.range (n.toNat + 1)).map fun j => rowWord (s.q b) j
    match ws.findSome? fun w => match s.winCheck w 7 with
        | .error c => some (c, w)
        | .ok _ => none with
    | some f => s.trapWin f.1 f.2
    | none => s.withWindow (ws.headD 0) 7 fun e s =>
      let page (w : Word) : Nat := ((wBase e + winOff w) % 2 ^ 56) / 2 ^ 16
      if ws.any (fun w => winHandle w ≠ winHandle (ws.headD 0) || page w ≠ page (ws.headD 0) || winOff w % 8 ≠ 0) || (ws.map winOff).eraseDups.length ≠ ws.length then
        s.trap cILLEGAL_USE
      else s.withTx fun s => s.remoteOp d [.q a]
        { kind := .rcas, handle := winHandle (ws.headD 0), entry := e, offset := rowOf (winOff (ws.headD 0)), offs := ws.map winOff, data := s.q a
          n := n.toNat + 1, addr := ws.headD 0 } true
/-- RENQ (R291). -/
def execRenq (d a b : Reg) (s : State) : Out :=
  if s.waiting then s.waitResult d id else
  s.guardI onCF [.x a, .x b] [.x d] fun s =>
    let w := s.x a
    let n := winOff (s.x b)
    s.withWindow w 7 fun e s =>
      if winOff w % 8 ≠ 0 || n % 8 ≠ 0 || n = 0 then s.trap cILLEGAL_USE
      else if wLimit e < n + 8 then s.trapAddr cWINDOW_LIMIT (BitVec.ofNat 64 (winHandle w * 2 ^ 48 + n))
      else s.withTx fun s => s.remoteOp d [] { kind := .renq, handle := winHandle w, entry := e, offset := rowOf (winOff w), n := n, addr := w } true
/-- RCHASE (R292). -/
def execRchase (d a b c : Reg) (s : State) : Out :=
  if s.waiting then s.waitResult d id else
  s.guardI onCF [.x a, .x b, .x c] [.x d] fun s =>
    let w := s.x a
    let k := s.x b
    s.withWindow w 5 fun e s =>
      if winOff w % 8 ≠ 0 || winOff w = 0 || bits k 7 4 ≠ 0 || bitAt k 11 || bitAt k 15 || bits k 63 17 ≠ 0 then s.trap cILLEGAL_USE
      else s.withTx fun s => s.remoteOp d []
        { kind := .rchase, handle := winHandle w, entry := e, offset := rowOf (winOff w), n := winOff w, key := s.x c, ctl := k, addr := w } true

/-- What a memory-side operation does at its target: where an offset lies, or the status that refuses it. -/
abbrev Target := Nat → Except (BitVec 3) Nat
/-- RCHASE's loop: `p` the node, `h` rows read so far (R292). -/
def chase (m : List Host.Cell) (at_ : Target) (limit kw nw : Nat) (keyed : Bool) (key : Word) : Nat → Nat → Nat → Except (BitVec 3) Word
  | 0, h, p => .ok (BitVec.ofNat 64 (p + h * 2 ^ 48 + 2 * 2 ^ 53))
  | n + 1, h, p =>
    match at_ (rowOf p) with
    | .error st => .error st
    | .ok k =>
      let r := Mem.row m k
      let nxt := (rowWord r nw).toNat
      if keyed && rowWord r kw = key then .ok (BitVec.ofNat 64 (p + (h + 1) * 2 ^ 48))
      else if nxt = 0 then .ok (BitVec.ofNat 64 (p + (h + 1) * 2 ^ 48 + 2 ^ 53))
      else if nxt % 8 ≠ 0 || limit < nxt + 64 then .error 6
      else chase m at_ limit kw nw keyed key n (h + 1) nxt
/-- The nodes that RCHASE's loop reads, the last of them one that does not translate or ends it (R292). -/
def chaseNodes (m : List Host.Cell) (at_ : Target) (limit kw nw : Nat) (keyed : Bool) (key : Word) : Nat → Nat → List Nat
  | 0, _ => []
  | n + 1, p =>
    rowOf p :: match at_ (rowOf p) with
      | .error _ => []
      | .ok k =>
        let nxt := (rowWord (Mem.row m k) nw).toNat
        if (keyed && rowWord (Mem.row m k) kw = key) || nxt = 0 || nxt % 8 ≠ 0 || limit < nxt + 64 then []
        else chaseNodes m at_ limit kw nw keyed key n nxt
/-- RENQ at the target (R291). -/
def enqueue (m : List Host.Cell) (at_ : Target) (limit hdr n : Nat) : Except (BitVec 3) (List Host.Cell × Word) := do
  let h ← at_ hdr
  let t := (rowWord (Mem.row m h) 1).toNat
  if t ≠ 0 && (t % 8 ≠ 0 || limit < t + 8) then throw 6
  let kn ← at_ n
  let kt ← if t = 0 then pure h else at_ t
  let m := Mem.writeN m kn 0 8
  let m := Mem.writeN m kt n 8
  let m := Mem.writeN m (h + 8) n 8
  pure (Mem.writeN m (h + 16) (Mem.word m (h + 16) + 1).toNat 8, BitVec.ofNat 64 t)
/-- RCAS at the target (R290): the old words and whether it wrote. -/
def casWords (m : List Host.Cell) (at_ : Target) (offs : List Nat) (x : Row) : Except (BitVec 3) (List Host.Cell × Row × Word) := do
  let ks ← offs.mapM at_
  let old := ks.map fun k => Mem.word m k
  let js := (List.range ks.length).zip (ks.zip old)
  let eq := js.all fun j => j.2.2 = rowWord x j.1
  pure (if eq then js.foldl (fun m j => Mem.writeN m j.2.1 (rowWord x (4 + j.1)).toNat 8) m else m,
        js.foldl (fun r j => setRowWord r j.1 j.2.2) x, ofBool eq)
/-- One request at its target: memory, status, value and row. -/
def Request.perform (r : Request) (m : List Host.Cell) (at_ : Target) : List Host.Cell × BitVec 3 × Word × Row :=
  let fail (st : BitVec 3) : List Host.Cell × BitVec 3 × Word × Row := (m, st, 0, 0)
  match r.kind with
  | .rldq => match at_ r.offset with
    | .ok k => (m, 0, 0, Mem.row m k)
    | .error e => fail e
  | .rstq => match at_ r.offset with
    | .ok k => (Mem.setRow m k r.data, 0, 0, 0)
    | .error e => fail e
  | .rstqNa => match at_ r.offset with
    | .ok k => (Mem.setRow m k r.data, 0, 0, 0)
    | .error e => fail e
  | .ramo => match at_ r.offset with
    | .ok k => (match (Rmw.amo r.amoOp r.w64 r.wm r.data).apply (Mem.row m k) with
        | some v => Mem.setRow m k v
        | none => m, 0, 0, Mem.row m k)
    | .error e => fail e
  | .rcas => match casWords m at_ r.offs r.data with
    | .ok x => (x.1, 0, x.2.2, x.2.1)
    | .error e => fail e
  | .renq => match enqueue m at_ (wLimit r.entry) r.offset r.n with
    | .ok x => (x.1, 0, x.2, 0)
    | .error e => fail e
  | .rchase => match chase m at_ (wLimit r.entry) (bits r.ctl 14 12) (bits r.ctl 10 8) (bitAt r.ctl 16) r.key (bits r.ctl 3 0 + 1) 0 r.n with
    | .ok v => (m, 0, v, 0)
    | .error e => fail e
  | .rpost => fail 0
  | .chanRow => fail 0

/-! ## Arriving, answering, timing out (R286, R376 to R378, R383) -/

/-- Late replies and aged drops are counted in the requester's partition (R378, R390 event 12). -/
def State.countLate (s : State) (t : TileNo) : State := s.countAt t 12 1
/-- Whether a message's age is at or past its limit (R378). -/
def State.aged (s : State) (time : Nat) : Bool := time + 2 * s.tt * 1000 ≤ s.fabric
/-- What refuses a request before its operation: UNREACHABLE, AUTH, or what its target says (R286); the target's own word is free (log entry 6). -/
def State.refusal (s : State) (r : Request) : BitVec 3 :=
  let f := r.fate
  if wPeer r.entry ≠ Config.packageNumber.val && r.path.isNone then 5
  else if wSealed r.entry && (r.sealKey.isNone || (wPeer r.entry = Config.packageNumber.val && !s.opens (wSlot r.entry) r.sealKey) || f = 3) then 3
  else if f = 1 then 1
  else if f = 2 && wPeer r.entry ≠ Config.packageNumber.val then 2
  else 0
/-- Where an offset of a request's window lies: in a peer, or in this package's memory translated by its memory-side unit. -/
def State.requestTarget (s : State) (r : Request) : Target := fun off =>
  if wPeer r.entry ≠ Config.packageNumber.val then .ok (winKey r.entry off)
  else match s.hubTranslate hubMem (wCtx r.entry) (BitVec.ofNat 64 ((wBase r.entry + off) % 2 ^ 56)) (r.kind ≠ .rstq && r.kind ≠ .rstqNa) (r.kind ≠ .rldq && r.kind ≠ .rchase) with
    | .ok p => if p.host && r.kind ≠ .rldq && r.kind ≠ .rstq && r.kind ≠ .rstqNa then .error 2 else .ok p.key
    | .error _ => .error 2
/-- The access that stands for a request. -/
def State.requestAcc (s : State) (r : Request) : Option Access := (s.strmWith r.tile r.st r.acc).accs.find? fun a => a.id = r.acc
/-- Whether a request may be performed now: its stream's order (R80 to R86), and what left before it through an ordered window (R287, R380). -/
def State.requestMay (s : State) (r : Request) (id : Nat) : Bool :=
  (match s.requestAcc r with
    | some a => a.mayPerform r.tile (s.strmWith r.tile r.st r.acc) ((s.strmWith r.tile r.st r.acc).before a.id)
    | none => true)
    && !(wOrdered r.entry && s.msgs.any fun m => m.1 < id && match m.2 with
          | .request q => q.entry = r.entry && q.handle = r.handle
          | _ => false)
/-- The access of a request has been performed. -/
def State.requestGone (s : State) (r : Request) : State := s.modStrmWith r.tile r.st r.acc fun z => { z with accs := dropAccess r.acc z.accs }
/-- AGED_DROP (R378): a request or reply too old is dropped and counted. -/
def execAgedDrop (s : State) : Out :=
  match Map.find s.msgs s.ev.id with
  | some (.request r) => if s.aged r.time then .next ((s.unsend s.ev.id).countLate r.tile) else .next s
  | some (.reply r) => if s.aged r.req.time then .next ((s.unsend s.ev.id).countLate r.req.tile) else .next s
  | _ => .next s
/-- The offsets that a request's operation comes to at its target, in order (R287 to R292): its row, the words of RCAS, RENQ's header, node and tail, the
nodes of RCHASE. -/
def Request.touches (r : Request) (m : List Host.Cell) (at_ : Target) : List Nat :=
  match r.kind with
  | .rcas => r.offs
  | .renq => r.offset :: match at_ r.offset with
    | .ok h =>
      let t := (rowWord (Mem.row m h) 1).toNat
      if t = 0 then [r.n] else if t % 8 ≠ 0 || wLimit r.entry < t + 8 then [] else [r.n, t]
    | .error _ => []
  | .rchase => chaseNodes m at_ (wLimit r.entry) (bits r.ctl 14 12) (bits r.ctl 10 8) (bitAt r.ctl 16) r.key (bits r.ctl 3 0 + 1) r.n
  | _ => [r.offset]
/-- Offsets up to the first that its target refuses, which ends the operation. -/
def upToFail (at_ : Target) : List Nat → List Nat
  | [] => []
  | o :: rest => o :: match at_ o with
    | .ok _ => upToFail at_ rest
    | .error _ => []
/-- A request at its target (R286, R288): its own memory-side unit translates, performs and replies; an offset that does not
translate is reported (R372), and a row that cannot be read gives FAULT (log entry 64). -/
def State.serve (s : State) (r : Request) : State :=
  let st := s.refusal r
  let own : Bool := wPeer r.entry = Config.packageNumber.val
  if st ≠ 0 || !own then
    let x := if st ≠ 0 then (s.mem, st, (0 : Word), (0 : Row)) else r.perform s.mem (s.requestTarget r)
    ({ s with mem := x.1 } : State).reply r x.2.1 x.2.2.1 x.2.2.2 .remoteReply
  else
    let os := upToFail (s.requestTarget r) (r.touches s.mem (s.requestTarget r))
    let s := os.foldl (fun s o => s.hubUsed hubMem (wCtx r.entry) (BitVec.ofNat 64 ((wBase r.entry + o) % 2 ^ 56)) (r.kind ≠ .rstq && r.kind ≠ .rstqNa)
      (r.kind ≠ .rldq && r.kind ≠ .rchase)) s
    let y := s.readRows r.tile (if r.kind = .rstq || r.kind = .rstqNa then [] else os.filterMap fun o => (s.requestTarget r o).toOption)
    let s := y.1
    let x := if y.2 then (s.mem, (2 : BitVec 3), (0 : Word), (0 : Row)) else r.perform s.mem (s.requestTarget r)
    let s := { s with mem := x.1, ecc := if x.2.1 = 0 && (r.kind = RemoteKind.rstq || r.kind = RemoteKind.rstqNa) then (match s.requestTarget r r.offset with
      | .ok k => Map.del s.ecc k
      | .error _ => s.ecc) else s.ecc }
    let unsealed : Bool := wSealed r.entry && (s.seal (wSlot r.entry)).isNone
    s.reply r (if unsealed then 3 else x.2.1) x.2.2.1 x.2.2.2 .remoteReply
/-- The kind of a request of another package by its number. -/
def kindOf (n : Nat) : RemoteKind :=
  match n with
  | 0 => .rldq
  | 1 => .rstq
  | 2 => .rstqNa
  | 3 => .ramo
  | 4 => .rcas
  | 5 => .renq
  | _ => .rchase
/-- A request of another package (log entry 6): package `aux` sends kind `num` through the entry in `wide` [255:0], sealed under the key in [511:256],
at offset `w0`, at fabric time `w1`; row 0 of `rows` is its data, the words of row 1 are node offset or count, key, control and AMO literal, and
those of row 2 the offsets of an RCAS. -/
def peerRequest (e : EvArgs) : Request :=
  let p := e.rows.getD 1 0
  let n := (rowWord p 0).toNat
  let entry : BitVec 256 := e.wide.setWidth 256
  { kind := kindOf e.num, srcPkg := e.aux, tile := e.tile, entry := entry, offset := rowOf e.w0.toNat, data := e.rows.headD 0, n := n, key := rowWord p 1, ctl := rowWord p 2
    wm := BitVec.ofNat 8 (bits (rowWord p 3) 7 0), amoOp := BitVec.ofNat 4 (bits (rowWord p 3) 11 8), w64 := bitAt (rowWord p 3) 12, time := e.w1.toNat
    offs := if e.num = 4 then (List.range (min n 4)).map fun j => (rowWord (e.rows.getD 2 0) j).toNat else []
    sealKey := if wSealed entry then some (BitVec.ofNat 256 (bits e.wide 511 256)) else none }
/-- The tile, launch and unit of another package, as a word of an event gives them (log entry 6): [7:0], [39:8] and [63:40]. -/
def peerOrigin (pkg : Nat) (w : Word) : Origin := { pkg := pkg, tile := w.setWidth 8, launch := bits w 39 8, unit := bits w 63 40 }
/-- A message of another package is dropped for its age and counted in the partition of the context that it names; it belongs to no tile, so only
counters with ALLT count it (R378, R390, log entry 77). -/
def State.dropAged (s : State) (c : Nat) : State :=
  match s.ctxPart c with
  | some p => s.countArg p 12 256 1 fun _ => true
  | none => s
/-- What another package asks of this one: a request of its memory; with kind 7 the ORIGIN addition of `w1` at the S-space row `w0`, a void one of which
its own package counts (R165); with kind 8 that what its unit `w0` has posted here ends, since the unit has been stopped (R23, R185). -/
def State.servePeer (s : State) (e : EvArgs) : State :=
  if e.num = 7 then (if (s.sFault e.tile e.w0.toNat).isSome then s else s.addWord e.w0.toNat e.w1)
  else if e.num = 8 then
    if e.aux = Config.packageNumber.val then s
    else s.cancelPosted fun o => o.pkg = e.aux && { o with post := 0 } = peerOrigin e.aux e.w0
  else
    let r := peerRequest e
    if wPeer r.entry ≠ Config.packageNumber.val || r.srcPkg = Config.packageNumber.val then s else if s.aged r.time then s.dropAged (wCtx r.entry) else s.serve r
/-- REMOTE_REQUEST (R286, R288, R378): performed at its target, which replies. A request that its stream's order keeps back waits. With `id` 0 the
request comes from another package. -/
def execRemoteRequest (s : State) : Out :=
  match Map.find s.msgs s.ev.id with
  | some (.request r) =>
    if s.aged r.time then .next (s.post { op := .agedDrop, ev := s.ev })
    else if !s.requestMay r s.ev.id then .next (s.retry .remoteRequest)
    else
      .next (((s.unsend s.ev.id).requestGone r).serve r)
  | _ => if s.ev.id = 0 && s.ev.rows ≠ [] then .next (s.servePeer s.ev) else .next s

/-- Changes the stream that sent a request, in its unit, resident or saved (R95). -/
def State.modSender (s : State) (r : Request) (f : Strm → Strm) : State := s.modTileOf r.tile r.launch r.unit fun u => u.modStrm r.st f
/-- A step of the unit that sent a request: now, or when a saved unit resumes. -/
def State.postSender (s : State) (r : Request) (a : Act) : State :=
  if (s.tile r.tile).unit.any fun x => x.launch = r.launch && x.idx = r.unit then s.post a
  else { s with saved := s.saved.map fun (x : Saved) => if x.tileNo = r.tile && x.launch = r.launch && x.idx = r.unit then { x with acts := x.acts ++ [a] } else x }
/-- The values of a request's result have come: they are written now, or when its saved unit resumes (R15, R95). -/
def State.resolveSender (s : State) (r : Request) (vals : List VRow) : State :=
  (s.modSender r fun z => { z with awaits := z.awaits.map fun a => if a.id = r.await then { a with vals := vals, ready := true } else a }).postSender r
    { op := .interlockedResult, ev := { tile := r.tile, st := r.st, id := r.await } }
/-- REMOTE_ERROR for a stream (R286): an ASYNC trap before its next issue; for an RSTQ.NA of a stream that has ended, the unit completes FAILED. -/
def State.remoteError (s : State) (r : Request) (st : BitVec 3) : State :=
  match s.unitTile r.tile r.launch r.unit with
  | none => s
  | some u =>
    if (u.strm r.st).isOver then
      (if r.kind = .rstqNa then s.modUnitOf r.tile r.launch r.unit fun x => { x with failed := true } else s)
    else (s.modSender r fun z =>
      { z with asyncs := z.asyncs ++ [{ due := 0, code := cREMOTE_ERROR, addr := r.addr, info := zext64 r.lane ||| zext64 st <<< 16 }] }).postSender r
        { op := .asyncTrap, ev := { tile := r.tile, st := r.st } }
/-- A remote result (R288). -/
def remoteResult (st : BitVec 3) (v : Word) : Word := if st = 0 then v else 2 ^ 63 ||| zext64 st
/-- The end of a request at its requester: its registers, its counts, its error (R286 to R292, R185). -/
def State.endRequest (s : State) (r : Request) (st : BitVec 3) (v : Word) (row : Row) : State :=
  let out (s : State) : State := s.modSender r fun z => { z with remoteOut := z.remoteOut.erase r.acc }
  let w (x : Word) : VRow := x.setWidth 4096
  let q : VRow := row.setWidth 4096
  match r.kind with
  | .rldq => if st = 0 then s.resolveSender r [q] else (s.resolveSender r []).remoteError r st
  | .rstq => let s := (out s).resolveSender r []; if st = 0 then s else s.remoteError r st
  | .rstqNa =>
    let s := s.modSender r fun z => { z with naOut := z.naOut.erase r.acc }
    if st = 0 then s else s.remoteError r st
  | .ramo => (out s).resolveSender r (w (remoteResult st v) :: if st = 0 then [q] else [])
  | .rcas => (out s).resolveSender r (w (remoteResult st v) :: if st = 0 then [q] else [])
  | .renq => (out s).resolveSender r [w (remoteResult st v)]
  | .rchase => (out s).resolveSender r [w (remoteResult st v)]
  | .rpost =>
    let v := if st = 4 then postStatus 5 else v
    let s := if bitAt v 63 then s.modUnitOf r.tile r.launch r.unit fun x => { x with tasksOut := x.tasksOut.erase r.acc } else s
    let s := if !bitAt v 63 && wPeer r.entry ≠ Config.packageNumber.val then
      s.later { op := .remoteReply, ev := { tile := r.tile, num := 2, aux := r.launch, id := r.unit, w0 := BitVec.ofNat 64 r.acc } } else s
    (out s).resolveSender r [w v]
  | .chanRow => s
/-- The status that a reply brings: a sealed one of this package that its requester cannot open is AUTH (R286, R383). -/
def State.replyStatus (s : State) (p : Reply) : BitVec 3 :=
  if wSealed p.req.entry && wPeer p.req.entry = Config.packageNumber.val && !s.opens (wSlot p.req.entry) p.sealKey then 3 else p.status
/-- The effect on its tile of a reply or a timeout waits at the hub edge while the tile is frozen: the step `op`, with `num` 3, brings it (R336). -/
def State.holdReply (s : State) (p : Reply) (op : Instr) : State :=
  ({ s with msgs := Map.set s.msgs s.nextId (.reply p) } : State).bump.modTile p.req.tile fun u =>
    { u with held := u.held ++ [{ op := op, ev := { tile := p.req.tile, id := s.nextId, num := 3 } }] }
/-- A request has ended at the hub: its tag is free, and its unit is told (R336, R377). -/
def State.endAtTile (s : State) (p : Reply) : State :=
  if (s.tile p.req.tile).frozen then s.holdReply p .remoteReply else s.endRequest p.req p.status p.value p.row
/-- REMOTE_REPLY (R378): a reply of the tag's current generation ends the transaction; another is dropped and counted, and one to an RPOST that fails
authentication is dropped, so that the post ends with TIMEOUT (R383, log entry 70). `num` 2 is the report of a peer that a task posted there has left its window (R185); with `num` 3 the tag
was freed while the tile was frozen. -/
def execRemoteReply (s : State) : Out :=
  if s.ev.num = 2 then
    .next (s.modUnitOf s.ev.tile s.ev.aux s.ev.id fun x => { x with tasksOut := x.tasksOut.erase s.ev.w0.toNat })
  else match Map.find s.msgs s.ev.id with
    | some (.reply p) =>
      if s.ev.num = 3 then .next (((s.unsend s.ev.id).requestGone p.req).endAtTile p)
      else if s.aged p.req.time then .next (s.post { op := .agedDrop, ev := s.ev })
      else
        let s := s.unsend s.ev.id
        let x : TxTag := Map.get {} s.txTags p.req.tag
        if x.gen ≠ p.req.gen || x.busy.isNone then .next (s.countLate p.req.tile)
        else if p.req.kind = .rpost && s.replyStatus p = 3 then .next s
        else .next (({ s with txTags := Map.set s.txTags p.req.tag { x with busy := none } } : State).endAtTile { p with status := s.replyStatus p })
    | _ => .next s
/-- TRANSACTION_TIMEOUT (R377): the request ends with TIMEOUT and its tag is free with its generation advanced. -/
def execTransactionTimeout (s : State) : Out :=
  let x : TxTag := Map.get {} s.txTags s.ev.id
  match x.busy with
  | some r =>
    if x.gen.toNat ≠ s.ev.num || s.fabric < r.time + s.tt * 1000 then .next s
    else if r.kind = .chanRow then .next (({ s with txTags := Map.set s.txTags s.ev.id { gen := x.gen + 1, busy := none } } : State).atClock (s.clock + 256)
      { op := .channelResend, ev := { tile := r.tile, id := r.await, num := r.n, wide := r.data } })
    else
      let s := { s with txTags := Map.set s.txTags s.ev.id { gen := x.gen + 1, busy := none } }
      .next ((if (s.tile r.tile).frozen then s else s.requestGone r).endAtTile { req := r, status := 4 })
  | none => .next s

/-! ## Remote posting (R184, R185, R190) -/

/-- An interlocked result that an RPOST writes (R190); to x0 it is discarded, but the stream waits for it (log entry 14). -/
def State.awaitPost (s : State) (d : Reg) : State :=
  (s.await [.x d] [] false 0 0).modCur fun z => { z with awaits := z.awaits.map fun w => if w.id = s.nextId then { w with isPost := true } else w }
/-- RPOST (R190): reads its record at issue and carries a release at fabric scope. -/
def execRpost (d a b : Reg) (try_ : Bool) (s : State) : Out :=
  if s.waiting then s.waitResult d id else
  s.guardI onC [.x a, .x b] [.x d] fun s => s.withRecord (s.x a) 3 fun rs s =>
    match s.winEntry s.ct (bits (s.x b) 15 0) with
    | none => s.trapAddr cWINDOW_RANGE (s.x b)
    | some (.error sub) => s.trapG (s.x b) sub
    | some (.ok e) => s.withTx fun s => s.waitResult d fun s =>
      let id := s.nextId
      let s := s.awaitPost d
      let n := s.nextId
      (s.request { kind := .rpost, await := id, handle := bits (s.x b) 15 0, entry := e, rows := rs, target := BitVec.ofNat 8 (bits (s.x b) 23 16), try_ := try_ }
        { isLoad := false, isStore := true, key := winKey e 0 + 2 ^ 110, rel := some 6 }).modMe fun u =>
          { u with unit := u.unit.map fun x => { x with tasksOut := x.tasksOut ++ [n] } }
/-- PERM (R185): the entry lacks post permission, or the tile is outside it. -/
def Request.postBarred (r : Request) : Bool :=
  !bitAt r.entry 0 || !bitAt r.entry 8 || r.target.toNat < bits r.entry 191 184 || bits r.entry 199 192 < r.target.toNat
/-- Whether the unit that posted a record has not been stopped or gone; of another package's nothing is known (R23). -/
def State.posterLives (s : State) (r : Request) : Bool :=
  let of (u : Tile) : Bool := u.unit.any fun (x : UnitRes) => x.launch = r.launch && x.idx = r.unit && !x.stopped
  r.srcPkg ≠ Config.packageNumber.val || of (s.tile r.tile) || s.saved.any fun x => x.tileNo = r.tile && of x.tile
/-- What another package answers to a post (R185): PERM as the entry says, the rest is free (log entry 6). -/
def State.peerPost (s : State) (r : Request) : Word :=
  let w := Config.freeReply s.fresh
  if r.postBarred then postStatus 4 else if bitAt w 63 then postStatus (1 + bits w 1 0 % 3) else zext64 (w.setWidth 32)
/-- The refusal of a remote post at its target tile (R185), in the order PERM, NOTARGET, FULL, BADREC (log entry 22). -/
def State.postRefusal (s : State) (r : Request) : Option Nat :=
  let u := s.tile r.target
  let rec0 := recordOf (r.rows.getD 0 0) (r.rows.getD 1 0) (r.rows.getD 2 0)
  if r.postBarred then some 4
  else if u.unit.isNone || u.preemptReq || s.tileCtx r.target ≠ wCtx r.entry || (rec0.eng = 3 && u.drainedV) || (rec0.eng = 4 && u.drainedS) then some 3
  else if (r.try_ && !u.entryFree) || !u.qTakes 1 12 then some 1
  else if u.malformed (r.rows.getD 0 0) (r.rows.getD 1 0) (r.rows.getD 2 0) true then some 2
  else none
/-- A remote post at a tile of this package: the record enters the queue or is refused. DESIGN CHOICE (log entry 70): R187 has no code for a post that
fails authentication, which is dropped, so that its poster sees TIMEOUT, and a post of a unit that has been stopped is refused with NOTARGET. -/
def State.takePost (s : State) (r : Request) : State :=
  if wSealed r.entry && !s.opens (wSlot r.entry) r.sealKey then s
  else if !s.posterLives r then s.answerPost r (postStatus 3)
  else match s.postRefusal r with
    | some c => s.answerPost r (postStatus c)
    | none => s.modTile r.target fun u =>
      { u with queueAdded := true, remoteQ := u.remoteQ ++ [{ record := recordOf (r.rows.getD 0 0) (r.rows.getD 1 0) (r.rows.getD 2 0)
                                                              origin := { pkg := r.srcPkg, tile := r.tile, launch := r.launch, unit := r.unit, post := r.acc }, req := r : RemotePost }] }
/-- A post of another package (log entry 6): package `aux` posts the record `rows` to tile `tile`, with TRY when `num` is 1, through the entry in `wide`
[255:0], sealed under the key in [511:256], at fabric time `w1`; `w0` names its unit. -/
def peerPost (e : EvArgs) : Request :=
  let entry : BitVec 256 := e.wide.setWidth 256
  let o := peerOrigin e.aux e.w0
  { kind := .rpost, srcPkg := e.aux, tile := o.tile, launch := o.launch, unit := o.unit, target := e.tile, rows := e.rows, try_ := e.num = 1, entry := entry, time := e.w1.toNat
    sealKey := if wSealed entry then some (BitVec.ofNat 256 (bits e.wide 511 256)) else none }
/-- REMOTE_POST_ARRIVAL (R184, R185): the record enters the queue of its tile or is refused; a peer package's answer is free (log entry 6). A post that
no path takes, or that fails authentication, gets no answer (log entry 70). With `id` 0 the post comes from another package. -/
def execRemotePostArrival (s : State) : Out :=
  match Map.find s.msgs s.ev.id with
  | some (.request r) =>
    if s.aged r.time then .next (s.post { op := .agedDrop, ev := s.ev })
    else if !s.requestMay r s.ev.id then .next (s.retry .remotePostArrival)
    else
      let s := (s.unsend s.ev.id).requestGone r
      .next (
        if wPeer r.entry = Config.packageNumber.val then s.takePost r
        else if r.path.isNone || (wSealed r.entry && (r.sealKey.isNone || r.fate = 3)) then s
        else s.bumpFresh.answerPost r (s.peerPost r))
  | _ =>
    let r := peerPost s.ev
    if s.ev.id = 0 && s.ev.rows ≠ [] && r.srcPkg ≠ Config.packageNumber.val && wPeer r.entry = Config.packageNumber.val then
      .next (if s.aged r.time then s.dropAged (wCtx r.entry) else s.takePost r)
    else .next s

end Sys2Proof.Machine
end

