-- ==== Sys2Proof/Machine/Copy.lean ====
section
/-! DEFINITION. The copy and transpose engines: checks at release, slices, conversion on copy, rows, suspension (R55 to R62, R90, R91, R167, R173,
R178, R364). -/
namespace Sys2Proof.Machine

/-! ## Boxes as an engine sees them -/

/-- One side of a copy: shape, version and box. -/
structure Side where
  h : Shape := {}
  base : Nat := 0
  iv : Ivl := {}
  deriving DecidableEq, Repr, Inhabited

/-- Slot `i` of a released task. -/
def Tile.side (u : Tile) (k : Task) (i : Nat) : Side :=
  match k.record.box i with
  | some b => match u.handle b.handle with
    | some h => { h := h.shape, base := k.bases.getD i 0, iv := k.ivs.getD i {} }
    | none => {}
  | none => {}
/-- A shape as it is accessed at an address: an S-space buffer's format is its bank's, also after a flip of that bank's plane (R59, R60). -/
def State.liveShape (s : State) (h : Shape) (base : Nat) : Shape :=
  let f := s.fmtAt base
  if h.space = 0 then { h with fmt := bits f 4 0, scaled := bitAt f 23, blk := bits f 22 21, layout := bitAt f 20 } else h
/-- Slot `i` of a released task of tile `t`, in the format that the bank in which its version begins has now. DESIGN CHOICE (log entry 72): that format
says where the elements lie; each is decoded or encoded in the format of its own bank (`State.localSide`). -/
def State.side (s : State) (t : TileNo) (k : Task) (i : Nat) : Side :=
  let x := (s.tile t).side k i
  { x with h := s.liveShape x.h x.base }
/-- A fault of a translated access: subcause of R372, address, context. -/
abbrev TransFault := Nat × Nat × Nat
/-- The code with which an engine's access ends its task. From 8 on the first part is 8 and the remote status that refuses an access through a window.
DESIGN CHOICE (log entry 92): R286 gives those statuses for streams alone; the task fails with REMOTE_ERROR. -/
def TransFault.code (e : TransFault) : BitVec 16 := if e.1 < 8 then cTRANSLATION else cREMOTE_ERROR
/-- A translation fault is reported with its subcause (R372); the other is reported with the task's end (R400). -/
def State.reportFault (s : State) (e : TransFault) : State := if e.1 < 8 then s.report cTRANSLATION e.1 else s
/-- The key of an address of a shape: S-space, G-space in the context of the unit, or a window (R75, R76, R364; log entry 24). What another package says
of a row there is a free value (log entry 6); one that no path reaches is UNREACHABLE (R379, R380), and one that cannot be sealed AUTH (R383). -/
def State.spaceKey (s : State) (t : TileNo) (h : Shape) (a : Nat) (rd wr : Bool) : Except TransFault Nat :=
  match h.space with
  | 0 => .ok a
  | 1 => match s.gKey t a rd wr with
    | .ok p => .ok p.key
    | .error e => .error (e, a, s.tileCtx t)
  | _ => match s.winEntry t h.window with
    | none => .error (1, a, 0)
    | some (.error e) => .error (e, a, s.tileCtx t)
    | some (.ok e) =>
      let va := (wBase e + a) % 2 ^ 56
      if !bitAt e 0 then .error (1, va, wCtx e)
      else if (rd && !bitAt e 5) || (wr && !bitAt e 6) || wLimit e < rowOf a + 64 then .error (3, va, wCtx e)
      else if wSealed e && (s.seal (wSlot e)).isNone then .error (8 + 3, va, wCtx e)
      else if wPeer e ≠ Config.packageNumber.val then
        let f := Config.freeStatus s.fresh
        if (s.choosePath (wPeer e) (wOrdered e)).isNone then .error (8 + 5, va, wCtx e)
        else if f = 2 then .error ((Config.freeStatus (s.fresh + 1)).toNat % 7, va, wCtx e)
        else if f = 1 || (f = 3 && wSealed e) then .error (8 + f.toNat, va, wCtx e)
        else .ok (winKey e a)
      else match s.hubTranslate hubMem (wCtx e) (BitVec.ofNat 64 va) rd wr with
        | .ok p => .ok p.key
        | .error k => .error (k, va, wCtx e)
/-- `n` bytes from an address of a shape as a number. -/
def State.spaceRead (s : State) (t : TileNo) (h : Shape) : Nat → Nat → Except TransFault Nat
  | _, 0 => .ok 0
  | a, n + 1 => match s.spaceKey t h a true false, s.spaceRead t h (a + 1) n with
    | .ok k, .ok v => .ok ((Mem.read s.mem k).toNat + 256 * v)
    | .error e, _ => .error e
    | _, .error e => .error e
/-- The address of an element: its container's, or the first row of its plane group. -/
def Side.elemAt (x : Side) (i : Nat × Nat × Nat) : Nat :=
  if x.h.layout then (x.h.planarAt x.base i.1 i.2.1 i.2.2).1 else (x.h.packedAt x.base i.1 i.2.1 i.2.2).1
/-- A side as one element sees it: in the format of the bank that holds the element (R59). -/
def State.localSide (s : State) (x : Side) (i : Nat × Nat × Nat) : Side := { x with h := s.liveShape x.h (x.elemAt i) }
/-- Whether all banks of an S-space buffer have one format. -/
def State.oneFormat (s : State) (x : Side) : Bool := x.h.space ≠ 0 || s.banksAgree x.h x.base
/-- The container bits of a packed element, or the code of a planar one. -/
def State.readContainer (s : State) (t : TileNo) (x : Side) (i : Nat × Nat × Nat) : Except TransFault Nat :=
  let x := s.localSide x i
  if x.h.layout then
    let p := x.h.planarAt x.base i.1 i.2.1 i.2.2
    .ok (readPlanes s.mem p.1 p.2 x.h.planes)
  else
    let p := x.h.packedAt x.base i.1 i.2.1 i.2.2
    match s.spaceRead t x.h p.1 ((container x.h.fmt + 7) / 8) with
    | .ok v => .ok ((v >>> p.2) % 2 ^ container x.h.fmt)
    | .error e => .error e
/-- The scale byte of an element's block; none without scales. -/
def State.readScale (s : State) (t : TileNo) (x : Side) (i : Nat × Nat × Nat) : Except TransFault (Option Nat) :=
  let x := s.localSide x i
  if x.h.scaled then
    match s.spaceRead t x.h (s.scaleAt x.h x.base i.1 i.2.1 i.2.2) 1 with
    | .ok v => .ok (some v)
    | .error e => .error e
  else .ok none
/-- The exact value of an element (R38). -/
def State.readValue (s : State) (t : TileNo) (x : Side) (i : Nat × Nat × Nat) : Except TransFault FpNum :=
  match s.readContainer t x i, s.readScale t x i with
  | .ok c, .ok e => let f := (s.localSide x i).h.fmt; .ok (scaledNum f (c % 2 ^ elemWidth f) e)
  | .error e, _ => .error e
  | _, .error e => .error e

/-! ## Writes -/

/-- The writes of an element's container or code. -/
def Side.writes (x : Side) (i : Nat × Nat × Nat) (v : Nat) : List ByteWrite :=
  if x.h.layout then
    let p := x.h.planarAt x.base i.1 i.2.1 i.2.2
    let w := x.h.planes
    (List.range w).map fun q => (p.1 + q * 64 + p.2 / 8, BitVec.ofNat 8 (1 <<< (p.2 % 8)), BitVec.ofNat 8 (((v >>> (w - 1 - q)) % 2) <<< (p.2 % 8)))
  else
    let p := x.h.packedAt x.base i.1 i.2.1 i.2.2
    let c := container x.h.fmt
    if c < 8 then [(p.1, BitVec.ofNat 8 ((2 ^ c - 1) <<< p.2), BitVec.ofNat 8 (v <<< p.2))]
    else (List.range (c / 8)).map fun b => (p.1 + b, 0xFF, BitVec.ofNat 8 (v >>> (8 * b)))
/-- The writes of an element's code (R55). -/
def Side.writeCode (x : Side) (i : Nat × Nat × Nat) (code : Nat) : List ByteWrite :=
  x.writes i (if x.h.layout then code else containerBits x.h.fmt code)
/-- The write of a block's scale byte. -/
def State.writeScale (s : State) (x : Side) (i : Nat × Nat × Nat) (v : Nat) : List ByteWrite :=
  [(s.scaleAt x.h x.base i.1 i.2.1 i.2.2, 0xFF, BitVec.ofNat 8 v)]

/-! ## Kinds of copy (R60, R167) -/

/-- How a slice moves: bits and scales as they are, a byte image, one byte per element, or by value. -/
inductive CopyKind where
  | keep | image | bytewise | convert
  deriving DecidableEq, Repr, Inhabited

/-- Whether both boxes begin and end on block boundaries. -/
def Side.whole (x : Side) : Bool := x.iv.l0 % blkLen x.h.blk = 0 && x.iv.h0 % blkLen x.h.blk = 0
/-- The kind of a copy between two shapes (R60): bytes as they are where a side is RAW. -/
def copyKind (transposed : Bool) (a b : Side) : CopyKind :=
  if a.h.fmt = 0 || b.h.fmt = 0 then (if transposed then .bytewise else .image)
  else if a.h.fmt = b.h.fmt && a.h.scaled = b.h.scaled && a.h.blk = b.h.blk && (!a.h.scaled || (!transposed && a.whole && b.whole)) then .keep
  else .convert
/-- Bytes of the image of `n` elements of dimension 0, times 8 (R167). -/
def Shape.imageBits (h : Shape) (n : Nat) : Nat := if h.fmt = 0 then 8 * n else n * (if h.layout then h.planes else container h.fmt)
/-- The address of byte `b` of a slice's image. -/
def Side.imageAt (x : Side) (i1 i2 b : Nat) : Nat :=
  if x.h.fmt = 0 then x.h.line x.base i1 i2 + x.iv.l0 + b
  else if x.h.layout then
    let g := 64 * x.h.planes
    (x.h.planarAt x.base (x.iv.l0 + 512 * (b / g)) i1 i2).1 + b % g
  else (x.h.packedAt x.base x.iv.l0 i1 i2).1 + b
/-- Whether a slice's image begins and ends where R167 asks. -/
def Side.imageOk (x : Side) : Bool :=
  x.h.fmt = 0 || (if x.h.layout then x.iv.l0 % 512 = 0 && x.iv.h0 % 512 = 0 else (x.iv.l0 * container x.h.fmt) % 8 = 0 && (x.iv.h0 * container x.h.fmt) % 8 = 0)
/-- The rounding mode of a destination element: the task's, else that of the bank which holds the element (R53, R60). -/
def State.copyRm (s : State) (r : TaskRec) (b : Side) (i : Nat × Nat × Nat) : BitVec 2 :=
  if r.rmv then r.rm else if b.h.space = 0 then BitVec.ofNat 2 (bits (s.fmtAt (b.elemAt i)) 25 24) else 0

/-- What a slice writes: bytes of its rows, scale bytes, flags. -/
structure SliceOut where
  rows : List ByteWrite := []
  scales : List ByteWrite := []
  flags : BitVec 6 := 0
  deriving DecidableEq, Repr, Inhabited

/-- Values into a destination slice of one format, by blocks when the destination is scaled (R37, R39). -/
def State.encodeRun (s : State) (r : TaskRec) (b : Side) (i1 i2 : Nat) (vs : List FpNum) : SliceOut :=
  let at_ (j : Nat) : Nat × Nat × Nat := (b.iv.l0 + j, i1, i2)
  if b.h.scaled then
    let n := blkLen b.h.blk
    (List.range (ceilDiv vs.length n)).foldl (fun o k =>
      let e := encodeBlock b.h.fmt (s.copyRm r b (at_ (n * k))) ((vs.drop (n * k)).take n)
      { rows := o.rows ++ (e.2.1.zipIdx.flatMap fun c => b.writeCode (at_ (n * k + c.2)) c.1), scales := o.scales ++ s.writeScale b (at_ (n * k)) e.1
        flags := o.flags ||| e.2.2 }) {}
  else
    vs.zipIdx.foldl (fun o v =>
      let e := encodeElem b.h.fmt (s.copyRm r b (at_ v.2)) v.1
      { o with rows := o.rows ++ b.writeCode (at_ v.2) e.1, flags := o.flags ||| e.2 }) {}
/-- The runs of a slice of `n` elements that lie in banks of one format: first element, how many, and the side that they see (R59). -/
def State.runs (s : State) (b : Side) (i1 i2 n : Nat) : List (Nat × Nat × Side) :=
  if s.oneFormat b then [(0, n, b)]
  else (List.range n).foldr (fun j l =>
    let x := s.localSide b (b.iv.l0 + j, i1, i2)
    match l with
    | (k, m, y) :: rest => if y.h = x.h then (j, m + 1, { x with iv := { x.iv with l0 := b.iv.l0 + j } }) :: rest else (j, 1, { x with iv := { x.iv with l0 := b.iv.l0 + j } }) :: (k, m, y) :: rest
    | [] => [(j, 1, { x with iv := { x.iv with l0 := b.iv.l0 + j } })]) []
/-- Values into a destination slice (R37, R39, R59). -/
def State.encodeSlice (s : State) (r : TaskRec) (b : Side) (i1 i2 : Nat) (vs : List FpNum) : SliceOut :=
  (s.runs b i1 i2 vs.length).foldl (fun o p =>
    let e := s.encodeRun r p.2.2 i1 i2 ((vs.drop p.1).take p.2.1)
    { rows := o.rows ++ e.rows, scales := o.scales ++ e.scales, flags := o.flags ||| e.flags }) {}
/-- A slice moved from the source positions `src` to dimension-0 slice (i1, i2) of the destination. -/
def State.moveSlice (s : State) (t : TileNo) (kind : CopyKind) (r : TaskRec) (a b : Side) (src : Nat → Nat × Nat × Nat) (i1 i2 : Nat) : Except TransFault SliceOut :=
  let n := b.iv.len 0
  let at_ (j : Nat) : Nat × Nat × Nat := (b.iv.l0 + j, i1, i2)
  match kind with
  | .image =>
    let p := src 0
    match (List.range (b.h.imageBits n / 8)).mapM fun q => s.spaceRead t a.h (a.imageAt p.2.1 p.2.2 q) 1 with
    | .ok vs => .ok { rows := vs.zipIdx.map fun v => (b.imageAt i1 i2 v.2, 0xFF, BitVec.ofNat 8 v.1) }
    | .error e => .error e
  | .bytewise =>
    match (List.range n).mapM fun j => s.readContainer t a (src j) with
    | .ok vs => .ok { rows := vs.zipIdx.flatMap fun v => b.writes (at_ v.2) v.1 }
    | .error e => .error e
  | .keep =>
    match (List.range n).mapM fun j => s.readContainer t a (src j) with
    | .ok vs =>
      let rows := vs.zipIdx.flatMap fun v =>
        if a.h.layout = b.h.layout then b.writes (at_ v.2) v.1 else b.writeCode (at_ v.2) (v.1 % 2 ^ elemWidth b.h.fmt)
      if b.h.scaled then
        match (List.range (n / blkLen b.h.blk)).mapM fun k => s.readScale t a (src (k * blkLen b.h.blk)) with
        | .ok es => .ok { rows := rows, scales := es.zipIdx.flatMap fun e => s.writeScale b (at_ (e.2 * blkLen b.h.blk)) (e.1.getD 0) }
        | .error e => .error e
      else .ok { rows := rows }
    | .error e => .error e
  | .convert =>
    match (List.range n).mapM fun j => s.readValue t a (src j) with
    | .ok vs => .ok (s.encodeSlice r b i1 i2 vs)
    | .error e => .error e
/-- A slice of +0 elements, or of zero blocks with scale 0x00 (R167, IDXMODE ZERO). DESIGN CHOICE (log entry 81): where the table is RAW and the
destination scaled, R167 asks for a scale and R60 for none; the bytes become 0 and no scale is written. -/
def State.zeroSlice (s : State) (kind : CopyKind) (b : Side) (i1 i2 : Nat) : SliceOut :=
  let n := b.iv.len 0
  if kind = .image then { rows := (List.range (b.h.imageBits n / 8)).map fun q => (b.imageAt i1 i2 q, 0xFF, 0) }
  else
    { rows := (List.range n).flatMap fun j => (s.localSide b (b.iv.l0 + j, i1, i2)).writes (b.iv.l0 + j, i1, i2) 0
      scales := (s.runs b i1 i2 n).flatMap fun p =>
        let l := blkLen p.2.2.h.blk
        if p.2.2.h.scaled then (List.range (p.2.1 / l)).flatMap fun k => s.writeScale p.2.2 (p.2.2.iv.l0 + k * l, i1, i2) 0 else [] }
/-- The value that FILL encodes (R167). -/
def fillValue (fmt : Nat) (p0 : Word) : FpNum :=
  match elemOf fmt with
  | .sint _ => FpNum.ofInt (sgn 32 p0.toNat)
  | .uint _ => FpNum.ofInt (sgn 32 p0.toNat)
  | _ => fp32.decode (bits p0 31 0)
/-- A slice of FILL. -/
def State.fillSlice (s : State) (r : TaskRec) (b : Side) (i1 i2 : Nat) : SliceOut :=
  let n := b.iv.len 0
  if b.h.fmt = 0 then { rows := (List.range n).flatMap fun j => b.writes (b.iv.l0 + j, i1, i2) (bits r.p0 7 0) }
  else s.encodeSlice r b i1 i2 (List.replicate n (fillValue b.h.fmt r.p0))

/-! ## The slices of a task -/

/-- The slot of the destination, and that of the source that the slices come from. -/
def copyDst (r : TaskRec) : Nat := if r.eng = 0 && r.op = 3 then 0 else if r.eng = 0 && (r.op = 1 || r.op = 2) then 2 else 1
def copySrc (r : TaskRec) : Nat := if r.eng = 0 && (r.op = 1 || r.op = 2) then 1 else 0
/-- Whether a task is GATHER or SCATTER. -/
def TaskRec.indexed (r : TaskRec) : Bool := r.eng = 0 && (r.op = 1 || r.op = 2)
/-- The number of slices a task moves, counted by destination slice, or by index for GATHER and SCATTER. -/
def Tile.slices (u : Tile) (k : Task) : Nat :=
  let d := u.side k (copyDst k.record)
  if k.record.indexed then (if d.iv.empty then 0 else (u.side k 0).iv.len 0) else if d.iv.empty then 0 else d.iv.len 1 * d.iv.len 2
/-- Index element j (R167). -/
def State.indexAt (s : State) (t : TileNo) (x : Side) (j : Nat) : Except TransFault Int :=
  match s.readContainer t x (x.iv.l0 + j, x.iv.l1, x.iv.l2) with
  | .ok c => .ok (if x.h.fmt = 0x13 then sgn 32 c else (c : Int))
  | .error e => .error e
/-- What a slice does: what it writes and to which destination slice, nothing, or a failure. -/
inductive SliceStep where
  | write (o : SliceOut) (d : Nat)
  | skip
  | fail (c : BitVec 16)
  deriving DecidableEq, Repr, Inhabited
/-- Whether an element lies in its bank's scale rows (R57). -/
def State.inScales (s : State) (x : Side) (i : Nat × Nat × Nat) : Bool :=
  let a := x.elemAt i
  x.h.space = 0 && bitAt (s.fmtAt a) 23 && bits (s.fmtAt a) 19 7 ≤ (a - bankBase a) / 64
/-- A slice that decodes or encodes elements in scale rows fails its task (R57). DESIGN CHOICE (log entry 82): R57 does not say whether a copy that keeps
codes or bytes, or the zeros of IDXMODE ZERO, encode elements; they are not checked. -/
def State.guardScales (s : State) (kind : CopyKind) (a b : Side) (src : Nat → Nat × Nat × Nat) (i1 i2 : Nat) (o : Except TransFault SliceOut) (d : Nat) :
    Except TransFault SliceStep :=
  if kind = .convert && (List.range (b.iv.len 0)).any fun j => s.inScales a (src j) || s.inScales b (b.iv.l0 + j, i1, i2) then .ok (.fail cFORMAT_MISMATCH)
  else match o with
    | .ok o => .ok (.write o d)
    | .error e => .error e
/-- A slice moved, with the check of R57. -/
def State.moveChecked (s : State) (t : TileNo) (kind : CopyKind) (r : TaskRec) (a b : Side) (src : Nat → Nat × Nat × Nat) (i1 i2 d : Nat) : Except TransFault SliceStep :=
  s.guardScales kind a b src i1 i2 (s.moveSlice t kind r a b src i1 i2) d
/-- The kind of a copy with the formats that the banks have now: codes are kept only where each side has one format (R59, R60). -/
def State.kindOf (s : State) (transposed : Bool) (a b : Side) : CopyKind :=
  let k := copyKind transposed a b
  if k = .keep && !(s.oneFormat a && s.oneFormat b) then .convert else k
/-- What a slice of a task is to do: elements from positions `src` to dimension-0 slice (i1, i2), number `d`, of the destination. -/
inductive SlicePlan where
  | move (kind : CopyKind) (a b : Side) (src : Nat → Nat × Nat × Nat) (i1 i2 d : Nat)
  | fill (b : Side) (i1 i2 : Nat)
  | zero (kind : CopyKind) (b : Side) (i1 i2 : Nat)
  | skip
  | fail (c : BitVec 16)
/-- The plan of slice `n` (R167). -/
def State.slicePlan (s : State) (t : TileNo) (k : Task) (n : Nat) : Except TransFault SlicePlan :=
  let r := k.record
  let b := s.side t k (copyDst r)
  let a := s.side t k (copySrc r)
  let d1 := b.iv.l1 + n % b.iv.len 1
  let d2 := b.iv.l2 + n / b.iv.len 1
  if r.eng = 1 then .ok (.move (s.kindOf true a b) a b (fun j => (a.iv.l0 + n % b.iv.len 1, a.iv.l1 + j, a.iv.l2 + n / b.iv.len 1)) d1 d2 n)
  else if r.op = 3 then .ok (.fill b d1 d2)
  else if r.indexed then
    match s.indexAt t (s.side t k 0) n with
    | .error e => .error e
    | .ok v =>
      let table := if r.op = 1 then a else b
      let ok := 0 ≤ v && v < (table.iv.len 1 : Nat)
      let v := v.toNat
      let kind := s.kindOf false a b
      let p := if r.op = 1 then v else n
      let d := if r.op = 1 then n else v
      .ok (
        if ok then .move kind a b (fun j => (a.iv.l0 + j, a.iv.l1 + p, a.iv.l2)) (b.iv.l1 + d) b.iv.l2 d
        else if bits r.p0 1 0 = 0 then .fail cINDEX_RANGE
        else if bits r.p0 1 0 = 1 && r.op = 1 then .zero kind b (b.iv.l1 + n) b.iv.l2
        else .skip)
  else .ok (.move (s.kindOf false a b) a b (fun j => (a.iv.l0 + j, a.iv.l1 + n % b.iv.len 1, a.iv.l2 + n / b.iv.len 1)) d1 d2 n)
/-- Slice `n` of a task. -/
def State.sliceStep (s : State) (t : TileNo) (k : Task) (n : Nat) : Except TransFault SliceStep :=
  match s.slicePlan t k n with
  | .error e => .error e
  | .ok (.move kind a b src i1 i2 d) => s.moveChecked t kind k.record a b src i1 i2 d
  | .ok (.fill b i1 i2) => s.guardScales .convert {} b (fun _ => (0, 0, 0)) i1 i2 (.ok (s.fillSlice k.record b i1 i2)) n
  | .ok (.zero kind b i1 i2) => .ok (.write (s.zeroSlice kind b i1 i2) n)
  | .ok .skip => .ok .skip
  | .ok (.fail c) => .ok (.fail c)

/-! ## Source rows (R90, R363) -/

/-- The bytes of an element's container, or of its planes. -/
def Side.elemBytes (x : Side) (i : Nat × Nat × Nat) : List Nat :=
  if x.h.layout then
    let p := x.h.planarAt x.base i.1 i.2.1 i.2.2
    (List.range x.h.planes).map fun q => p.1 + 64 * q + p.2 / 8
  else
    let p := x.h.packedAt x.base i.1 i.2.1 i.2.2
    (List.range ((container x.h.fmt + 7) / 8)).map fun q => p.1 + q
/-- The bytes that a plan reads of its source. -/
def State.planReads (s : State) (p : SlicePlan) : List Nat :=
  match p with
  | .move kind a b src _ _ _ => (match kind with
    | .image => (List.range (b.h.imageBits (b.iv.len 0) / 8)).map fun q => a.imageAt (src 0).2.1 (src 0).2.2 q
    | _ => (List.range (b.iv.len 0)).flatMap fun j =>
      let x := s.localSide a (src j)
      x.elemBytes (src j) ++ if x.h.scaled && kind ≠ .bytewise then [s.scaleAt x.h x.base (src j).1 (src j).2.1 (src j).2.2] else [])
  | _ => []
/-- The rows, by key, that hold bytes of a shape; an address that does not translate is met by the read itself. -/
def State.rowsAt (s : State) (t : TileNo) (h : Shape) (as : List Nat) : List Nat :=
  ((as.map rowOf).eraseDups.filterMap fun a => (s.spaceKey t h a true false).toOption).map rowOf
/-- The state as a task's engine sees it: rows that it has read stay as it read them (R90). -/
def State.view (s : State) (k : Task) : State := { s with mem := k.cache.foldl (fun m p => Mem.setRow m p.1 p.2) s.mem }
/-- Rows of a shape in a sealed window leave, or come, each under one seal of its slot (R383). -/
def State.sealRows (s : State) (t : TileNo) (h : Shape) (n : Nat) : State :=
  if h.space ≠ 2 then s
  else match s.winEntry t h.window with
    | some (.ok e) => if wSealed e then (List.range n).foldl (fun s _ => (s.seal (wSlot e)).getD s) s else s
    | _ => s
/-- An engine reads rows of a shape that it has not read yet; whether one cannot be read (R363). -/
def State.fetchRows (s : State) (t : TileNo) (acc : Nat) (h : Shape) (ks : List Nat) : State × Bool :=
  match (s.tile t).task acc with
  | none => (s, false)
  | some k =>
    let new := ks.filter fun r => !Map.has k.cache r
    let y := ((s.usesBanks new).sealRows t h new.length).readRows t new
    (y.1.modTask t acc fun k => { k with cache := new.foldl (fun m r => Map.set m r (y.1.row r)) k.cache }, y.2)
/-- The source of slice `n` of a task is read: its index element first, then its rows. -/
def State.fetchSlice (s : State) (t : TileNo) (acc n : Nat) : State × Bool :=
  match (s.tile t).task acc with
  | none => (s, false)
  | some k =>
    let x := s.side t k 0
    let i := if k.record.indexed then s.fetchRows t acc x.h (s.rowsAt t x.h (x.elemBytes (x.iv.l0 + n, x.iv.l1, x.iv.l2))) else (s, false)
    if i.2 then i
    else match (i.1.tile t).task acc with
      | none => i
      | some k => match (i.1.view k).slicePlan t k n with
        | .ok p => i.1.fetchRows t acc (s.side t k (copySrc k.record)).h (i.1.rowsAt t (s.side t k (copySrc k.record)).h (s.planReads p))
        | .error _ => i

/-- The granules of a destination slice (R62). -/
def Side.sliceGranules (b : Side) (d : Nat) : List Nat :=
  let i1 := b.iv.l1 + d % b.iv.len 1
  let i2 := b.iv.l2 + d / b.iv.len 1
  b.h.granules b.base { b.iv with l1 := i1, h1 := i1 + 1, l2 := i2, h2 := i2 + 1 }
/-- The keys of a list of writes. -/
def State.keyWrites (s : State) (t : TileNo) (h : Shape) (ws : List ByteWrite) : Except TransFault (List ByteWrite) :=
  ws.mapM fun w => match s.spaceKey t h w.1 false true with
    | .ok k => .ok (k, w.2)
    | .error e => .error e
/-- The granules of a row that are now written wholly: every destination slice that has bytes in them is written (R62). -/
def Side.fullGranules (b : Side) (row : Nat) (written : List Nat) : List Nat :=
  if b.h.space ≠ 0 then []
  else
    let missing := (List.range (b.iv.len 1 * b.iv.len 2)).filter fun d => !written.contains d
    ((written.flatMap b.sliceGranules).filter fun g => rowOf (16 * g) = row && !(missing.any fun d => (b.sliceGranules d).contains g)).eraseDups

/-- What a row of a copy came to. -/
inductive RowResult where
  | more (s : State)
  | fault (e : TransFault)
  | fail (s : State) (c : BitVec 16)
  | isOver (s : State)

/-- The rows of the `n`-th destination slice, its scale rows among them: addresses, ascending (R55 to R57, R60). -/
def State.destRows (s : State) (t : TileNo) (k : Task) (n : Nat) : List Nat :=
  let b := s.side t k (copyDst k.record)
  let kind := if k.record.eng = 0 && k.record.op = 3 then .convert else s.kindOf (k.record.eng = 1) (s.side t k (copySrc k.record)) b
  let o := s.zeroSlice kind b (b.iv.l1 + n % b.iv.len 1) (b.iv.l2 + n / b.iv.len 1)
  rowsOf (o.rows ++ if kind = .bytewise then [] else o.scales)
/-- The rows written with slice `n`, which writes `o`: a row that the next slice also names, such as a scale row, waits and is written once, with the
bytes of both (R167). The slices of GATHER and SCATTER are each written whole (R367). -/
def State.dueRows (s : State) (t : TileNo) (k : Task) (n : Nat) (o : SliceOut) : List Nat :=
  if k.record.indexed then rowsOf (o.rows ++ o.scales)
  else
    let next := if (s.tile t).slices k ≤ n + 1 then [] else s.destRows t k (n + 1)
    (s.destRows t k n).filter fun r => !next.contains r
/-- The first of the slices before slice `n`, one after another, whose bytes of row `r` wait for slice `n`. -/
def State.waitingFrom (s : State) (t : TileNo) (k : Task) (r : Nat) : Nat → Nat
  | 0 => 0
  | n + 1 => if (s.destRows t k n).contains r then s.waitingFrom t k r n else n + 1
/-- What the write of row `r` with slice `n` holds: the bytes of the row of every slice that waited, and of slice `n`, and their flags. -/
def State.rowBytes (s : State) (t : TileNo) (k : Task) (n : Nat) (o : SliceOut) (r : Nat) : Except TransFault (List ByteWrite × BitVec 6) :=
  let m := if k.record.indexed then n else s.waitingFrom t k r n
  match (List.range (n - m)).mapM fun i => s.sliceStep t k (m + i) with
  | .error e => .error e
  | .ok xs =>
    let os := xs.filterMap (fun x => match x with
      | .write o _ => some o
      | _ => none) ++ [o]
    .ok ((os.flatMap fun o => o.rows ++ o.scales).filter (fun w => rowOf w.1 = r), os.foldl (fun f o => f ||| o.flags) 0)
/-- Whether the slices from the one that is due to the last write nothing (R167, IDXMODE). -/
def State.restSkipped (s : State) (t : TileNo) (k : Task) : Bool :=
  (List.range ((s.tile t).slices k - k.blkDone)).all fun i => match s.sliceStep t k (k.blkDone + i) with
    | .ok .skip => true
    | _ => false

/-! ## Rows (R167) -/

/-- Whether a list of writes writes a whole row. -/
def wholeRow (ws : List ByteWrite) (r : Nat) : Bool := (List.range 64).all fun i => ws.any fun w => w.1 = r + i && w.2.1 = 0xFF
/-- The rows that an engine's writes touch in part are read (R363, log entry 64); whether one cannot be. -/
def State.readPart (s : State) (t : TileNo) (ws : List ByteWrite) : State × Bool := s.readRows t ((rowsOf ws).filter fun r => !wholeRow ws r)
/-- Writes the next destination row of a task (R167). -/
def State.nextRow (s : State) (t : TileNo) (acc : Nat) : Nat → RowResult
  | 0 => .more s
  | fuel + 1 =>
    match (s.tile t).task acc with
    | none => .isOver s
    | some k =>
      let u := s.tile t
      if u.slices k ≤ k.blkDone then .isOver s
      else match s.fetchSlice t acc k.blkDone with
      | (s, true) => .fail s cMEM_UNCORRECTABLE
      | (s, false) =>
      let k := ((s.tile t).task acc).getD k
      match (s.view k).sliceStep t k k.blkDone with
        | .error e => .fault e
        | .ok (.fail c) => .fail s c
        | .ok .skip => (s.modTask t acc fun k => { k with blkDone := k.blkDone + 1, rowIdx := 0 }).nextRow t acc fuel
        | .ok (.write o d) =>
          let b := s.side t k (copyDst k.record)
          let rows := s.dueRows t k k.blkDone o
          let written := if k.written.contains d then k.written else d :: k.written
          match rows[k.rowIdx]? with
          | none => (s.modTask t acc fun k => { k with blkDone := k.blkDone + 1, rowIdx := 0, written := written }).nextRow t acc fuel
          | some r =>
            match (s.view k).rowBytes t k k.blkDone o r with
            | .error e => .fault e
            | .ok w =>
              match s.keyWrites t b.h w.1 with
              | .error e => .fault e
              | .ok ks =>
                match s.readPart t ks with
                | (s, true) => .fail s cMEM_UNCORRECTABLE
                | (s, false) =>
                let last := rows.length ≤ k.rowIdx + 1
                let s := (s.sealRows t b.h 1).writeRow t acc { writes := ks, grans := b.fullGranules r written }
                .more (s.modTask t acc fun k =>
                  { k with
                    flags := k.flags ||| w.2
                    prog := k.prog + 1
                    written := if last then written else k.written
                    blkDone := if last then k.blkDone + 1 else k.blkDone
                    rowIdx := if last then 0 else k.rowIdx + 1 })

/-! ## Release (R60, R61, R167, R49) -/

/-- P words of which a bit that the operation does not use is set. -/
def TaskRec.pBad (r : TaskRec) (raw : Bool) : Bool :=
  r.p1 ≠ 0 || r.p2 ≠ 0 || r.p3 ≠ 0
    || (if r.eng = 0 && r.op = 3 then (if raw then r.p0 >>> 8 ≠ 0 else r.p0 >>> 32 ≠ 0)
        else if r.indexed then r.p0 >>> 2 ≠ 0 || r.p0 = 3 else r.p0 ≠ 0)
/-- Whether lengths in dimension 0 match as COPY requires. -/
def len0Ok (a b : Side) : Bool :=
  if (a.h.fmt = 0) = (b.h.fmt = 0) then a.iv.len 0 = b.iv.len 0 else a.h.imageBits (a.iv.len 0) = b.h.imageBits (b.iv.len 0)
/-- The fault a copy or transpose meets at release: parameters and lengths, then formats, then R49. -/
def State.copyFault (s : State) (t : TileNo) (k : Task) : Option (BitVec 16) :=
  let u := s.tile t
  let r := k.record
  let b := s.side t k (copyDst r)
  let a := s.side t k (copySrc r)
  let x := s.side t k 0
  let kind := s.kindOf (r.eng = 1) a b
  let fill := r.eng = 0 && r.op = 3
  let lens :=
    if fill then true
    else if r.eng = 1 then a.iv.len 0 = b.iv.len 1 && a.iv.len 1 = b.iv.len 0 && a.iv.len 2 = b.iv.len 2
    else if r.indexed then
      x.iv.len 1 = 1 && x.iv.len 2 = 1 && len0Ok a b && a.iv.len 2 = 1 && b.iv.len 2 = 1 && (if r.op = 1 then b else a).iv.len 1 = x.iv.len 0
    else len0Ok a b && a.iv.len 1 = b.iv.len 1 && a.iv.len 2 = b.iv.len 2
  if r.pBad (b.h.fmt = 0) || !lens then some cBADPARAM
  else if !fill && kind = .image && u.slices k ≠ 0 && !(a.imageOk && b.imageOk) then some cBADPARAM
  else if r.indexed && x.h.fmt ≠ 0x13 && x.h.fmt ≠ 0x14 then some cFORMAT_MISMATCH
  else if kind = .bytewise && ((if a.h.fmt = 0 then b else a).h.layout || container (if a.h.fmt = 0 then b else a).h.fmt ≠ 8) then some cFORMAT_MISMATCH
  else if b.h.scaled && (fill || kind = .convert) && !b.iv.empty && !b.whole then some cFORMAT_MISMATCH
  else (u.boxesOf r).findSome? fun y => if y.2.2.shape.space = 0 then s.sFault t (k.bases.getD y.1 0) else none
/-- The lowest free copy channel. -/
def Tile.freeChannel (u : Tile) : Option Nat :=
  findFrom (fun c => !(u.window.any fun k => k.st = 2 && k.record.eng = 0 && k.channel = c)) 0 4
/-- Whether a copy runs at its stated pace: all its boxes lie in its own tile (R167). -/
def State.copyLocal (s : State) (t : TileNo) (k : Task) : Bool :=
  ((s.tile t).boxesOf k.record).all fun y => y.2.2.shape.space = 0 && keyTile (k.bases.getD y.1 0) = t
/-- The next row is due. -/
def State.nextCopy (s : State) (t : TileNo) (k : Task) (n : Nat) : State :=
  if s.copyLocal t k then s.atClock (s.clock + n) { op := .copyRow, ev := { tile := t, id := k.acc } }
  else s.later { op := .copyRow, ev := { tile := t, id := k.acc } }
/-- A released copy or transpose begins (R167). -/
def State.startCopy (s : State) (t : TileNo) (k : Task) : State :=
  let u := s.tile t
  let s := s.pealTile t 2 0 u.launchNo (k.seq.toNat + 2 * 2 ^ 48)
  match s.copyFault t k with
  | some c => s.endTask t k.acc c u.eclk
  | none => if (s.tile t).slices k = 0 then s.endTask t k.acc 0 (u.eclk + 1) else s.nextCopy t k 4

/-! ## Rows and suspension (R167, R178, R364, R367) -/

/-- A released task that its engine still works on. -/
def Tile.working (u : Tile) (acc : Nat) : Option Task := (u.task acc).filter fun k => k.st = 2 && k.ended.isNone

end Sys2Proof.Machine
end

