-- ==== Sys2Proof/Machine/Channel.lean ====
section
/-! DEFINITION. Channels, and the copy engine's rows and suspension (R164, R167, R178, R293 to R296, R364, R365, R367, R376, R377). -/
namespace Sys2Proof.Machine

/-! ## Channel tasks (R293, R294) -/

/-- Whether a task is a CHANNEL task. -/
def TaskRec.channel (r : TaskRec) : Bool := r.eng = 0 && r.op = 4
/-- ROLE is RECV. -/
def TaskRec.recv (r : TaskRec) : Bool := r.channel && bits r.p0 1 0 = 0
/-- CHID. -/
def TaskRec.chid (r : TaskRec) : Nat := bits r.p0 7 4
/-- Rows of each dimension-0 slice of a box that begins and ends on rows. -/
def Side.sliceRows (x : Side) : Nat := x.h.imageBits (x.iv.len 0) / 512
/-- The rows of a SEND. -/
def Side.sendRows (x : Side) : Nat := if x.iv.empty then 0 else x.sliceRows * x.iv.len 1 * x.iv.len 2
/-- The address of row `j` of a SEND (R294). -/
def Side.sendRow (x : Side) (j : Nat) : Nat :=
  let n := j / x.sliceRows
  x.imageAt (x.iv.l1 + n % x.iv.len 1) (x.iv.l2 + n / x.iv.len 1) (64 * (j % x.sliceRows))
/-- Conditions of R294 on a task whose roles are the given ones. -/
def TaskRec.channelBad (r : TaskRec) : Bool :=
  1 < bits r.p0 1 0 || bits r.p0 63 40 ≠ 0 || bits r.p0 15 9 ≠ 0 || bits r.p0 3 2 ≠ 0 || r.p1 ≠ 0 || r.p2 ≠ 0 || r.p3 ≠ 0 || r.prows ≠ 0
    || !r.rolesOk [some (r.recv), none, none, none]
/-- Conditions of R294 on the box. -/
def Side.channelBad (x : Side) (recv : Bool) : Bool :=
  if recv then x.h.space ≠ 0 || x.h.fmt ≠ 0 || x.h.dims ≠ 1 || x.iv.l0 % 64 ≠ 0 || x.iv.h0 % 64 ≠ 0
  else 1 < x.h.space || !x.imageOk || x.h.imageBits (x.iv.len 0) % 512 ≠ 0 || x.imageAt x.iv.l1 x.iv.l2 0 % 64 ≠ 0
    || x.h.stride 1 % 64 ≠ 0 || x.h.stride 2 % 64 ≠ 0
/-- A channel of a tile. -/
def Tile.chan (u : Tile) (n : Nat) : Channel := Map.get {} u.chans n
/-- Whether a RECV may bind a channel: FREE, or POISONED by a task that has left (R295, R296). -/
def Tile.chanFree (u : Tile) (n : Nat) : Bool := (u.chan n).state = 0 || ((u.chan n).state = 2 && (u.task (u.chan n).acc).isNone)
/-- The fault of a channel task at release; a window without CH, or a tile outside it, is BADPARAM (log entry 24). -/
def State.channelFault (s : State) (t : TileNo) (k : Task) : Option (BitVec 16) :=
  let u := s.tile t
  let r := k.record
  let x := s.side t k 0
  let tt : TileNo := BitVec.ofNat 8 (bits r.p0 39 32)
  let wh := bits r.p0 31 16
  if r.channelBad || x.channelBad r.recv then some cBADPARAM
  else if r.recv && !u.chanFree r.chid then some cBADPARAM
  else if !r.recv && bitAt r.p0 8 && wh ≠ 0 then some cBADPARAM
  else match (if x.h.space = 0 then s.sFault t x.base else none) with
    | some c => some c
    | none =>
      if r.recv then none
      else if bitAt r.p0 8 then s.tileFault t tt
      else match s.winEntry t wh with
        | some (.ok e) => if bitAt e 0 && bitAt e 9 && bits e 191 184 ≤ tt.toNat && tt.toNat ≤ bits e 199 192 then none else some cBADPARAM
        | some (.error _) => some cTRANSLATION
        | none => some cBADPARAM
/-- The translation fault of a window entry that a SEND meets at release is reported with its subcause (R372). -/
def State.reportEntry (s : State) (t : TileNo) (k : Task) : State :=
  match s.winEntry t (bits k.record.p0 31 16) with
  | some (.error sub) => s.report cTRANSLATION sub
  | _ => s
/-- A released channel task begins: a RECV binds its channel, a SEND sends its rows (R295, R296). -/
def State.startChannel (s : State) (t : TileNo) (k : Task) : State :=
  let u := s.tile t
  let r := k.record
  let x := s.side t k 0
  let s := s.pealTile t 2 0 u.launchNo (k.seq.toNat + 2 * 2 ^ 48)
  match s.channelFault t k with
  | some c => (if c = cTRANSLATION then s.reportEntry t k else s).endTask t k.acc c u.eclk
  | none =>
    if r.recv then
      let start := x.base + x.iv.l0
      let rows := x.iv.len 0 / 64
      let s := s.modTile t fun u => { u with chans := Map.set u.chans r.chid { state := 1, wm := start, start := start, rows := rows, acc := k.acc : Channel } }
      if rows = 0 then s.endTask t k.acc 0 (u.eclk + 1) else s
    else if x.sendRows = 0 then s.endTask t k.acc 0 u.eclk
    else s.later { op := .copyRow, ev := { tile := t, id := k.acc } }

/-! ## Rows on their way (R295, R296, R365, R376) -/

/-- Sends row `j` of a SEND task: to a tile of this package, or through a window with a transaction tag. False while no tag is free. A row that cannot be
sealed, or that no path takes, ends with AUTH or UNREACHABLE, and with it the task (R379, R383, log entry 92). -/
def State.sendChanRow (s : State) (t : TileNo) (k : Task) (j : Nat) (data : Row) : Except TransFault (State × Bool) :=
  let r := k.record
  let tt : TileNo := BitVec.ofNat 8 (bits r.p0 39 32)
  let total := (s.side t k 0).sendRows
  if bitAt r.p0 8 then
    .ok (s.send (.chanRow { target := tt, chan := r.chid, index := j, total := total, data := data, srcTile := t, srcAcc := k.uid }) .channelRowArrival tt, true)
  else match s.winEntry t (bits r.p0 31 16), s.freeTx with
    | some (.error sub), _ => .error (sub, bits ((s.tile t).planeReg 0x119) 55 0 + 32 * bits r.p0 31 16, s.tileCtx t)
    | some (.ok e), some tag =>
      if (wSealed e && (s.seal (wSlot e)).isNone) || (wPeer e ≠ Config.packageNumber.val && (s.choosePath (wPeer e) (wOrdered e)).isNone) then
        .ok (s.endTask t k.acc cREMOTE_ERROR (s.tile t).eclk, true) else
      let q := s.equip
        { kind := .chanRow, tile := t, await := k.uid, n := j, offs := [r.chid, total], data := data, entry := e, handle := bits r.p0 31 16, target := tt, acc := s.nextId
          launch := (s.tile t).launchNo } tag
      .ok ((s.takeTx q).send (.request q) .channelRowArrival tt, true)
    | _, _ => .ok (s, false)
/-- The sender that a row names: its tile and task, or a peer. -/
def ChanRow.sender (r : ChanRow) : Nat := r.srcTile.toNat * 2 ^ 40 + r.srcAcc
/-- What a row comes to at a channel of its tile: 0 stored, 1 refused, 2 BADPARAM, 3 CHANNEL_POISONED (R295, R296, R365). -/
def Tile.chanAnswer (u : Tile) (r : ChanRow) : Nat :=
  let c := u.chan r.chan
  if c.state = 2 && c.sender = some r.sender then (if c.miscount then 2 else 3)
  else if c.state ≠ 1 || u.unit.isNone || u.frozen || u.preemptReq then 1
  else if c.sender.any fun x => x ≠ r.sender then 2
  else if r.total ≠ c.rows then 2
  else 0
/-- What a row comes to, of one whose place holds an uncorrectable error too: its write meets MEM_UNCORRECTABLE (R365). -/
def State.chanAnswer (s : State) (r : ChanRow) : Nat :=
  let n := (s.tile r.target).chanAnswer r
  if n = 0 && Map.find s.ecc (((s.tile r.target).chan r.chan).start + 64 * r.index) = some true then 3 else n
/-- One past the longest run of filled rows. -/
def Channel.mark (c : Channel) : Nat := c.start + 64 * (findFrom (fun i => !c.filled.contains i) 0 c.rows).getD c.rows
/-- A row is stored, or the channel is poisoned by a wrong count (R295) or a row that cannot be written (R365); then its RECV fails. -/
def State.storeChanRow (s : State) (r : ChanRow) : State :=
  let u := s.tile r.target
  let c := u.chan r.chan
  let poison (n : Bool) : Tile → Tile := fun u => { u with chans := Map.set u.chans r.chan { c with state := 2, sender := some r.sender, miscount := n } }
  match s.chanAnswer r with
  | 0 =>
    let c := { c with filled := insertNat r.index c.filled, sender := some r.sender }
    let c := { c with wm := c.mark }
    let s := ((s.usesBanks [c.start + 64 * r.index]).putRow (c.start + 64 * r.index) r.data).modTile r.target fun u => { u with chans := Map.set u.chans r.chan c }
    let s := s.modTask r.target c.acc fun k => { k with prog := k.prog + 1 }
    if c.wm = c.start + 64 * c.rows then s.endTask r.target c.acc 0 (u.eclk + 1) else s
  | 2 =>
    if c.sender.all fun x => x = r.sender then
      (s.modTile r.target (poison true)).endTask r.target c.acc cBADPARAM u.eclk
    else s
  | 3 => if c.state = 1 then (s.modTile r.target (poison false)).endTask r.target c.acc cCHANNEL_POISONED u.eclk else s
  | _ => s
/-- CHANNEL_ROW_ARRIVAL: a row of this package, or of a peer: `id` 0, channel `aux` modulo 16, its fabric time `aux` / 16, index `num`, total `w0`, the row `wide`, its sender `w1`, and with
one of `rows` the window entry and its key as for peerPost; at a peer it is answered freely (log entry 6). A sealed row that fails
authentication is dropped (R383) and sent again after its timeout (R377). -/
def execChannelRowArrival (s : State) : Out :=
  match Map.find s.msgs s.ev.id with
  | some (.chanRow r) =>
    let out := s.chanAnswer r
    .next (((s.unsend s.ev.id).storeChanRow r).send (.chanAck r out) .channelRowAck r.srcTile)
  | some (.request r) =>
    if r.kind ≠ .chanRow then .next s
    else if s.aged r.time then .next (s.post { op := .agedDrop, ev := s.ev })
    else if !s.requestMay r s.ev.id then .next (s.retry .channelRowArrival)
    else if s.refusal r = 3 then .next (s.unsend s.ev.id)
    else if wPeer r.entry ≠ Config.packageNumber.val then
      let out : Word := if s.refusal r ≠ 0 then 1 else Config.freeReply s.fresh &&& 3
      .next (({ s.unsend s.ev.id with fresh := s.fresh + 1 }).reply r 0 out 0 .channelRowAck)
    else
      let row : ChanRow :=
        { target := r.target, chan := r.offs.getD 0 0, index := r.n, data := r.data, srcTile := r.tile, srcAcc := r.await, total := r.offs.getD 1 0 }
      let out := s.chanAnswer row
      .next (((s.unsend s.ev.id).storeChanRow row).reply r 0 (BitVec.ofNat 64 out) 0 .channelRowAck)
  | _ =>
    let e := s.ev.rows.headD 0
    let entry : BitVec 256 := e.setWidth 256
    if s.ev.id = 0 && s.ev.w0 ≠ 0 && s.aged (s.ev.aux / 16) then .next (s.dropAged (wCtx entry))
    else if s.ev.id = 0 && s.ev.w0 ≠ 0 && !(wSealed entry && !s.opens (wSlot entry) (some (BitVec.ofNat 256 (bits e 511 256)))) then
      .next (s.storeChanRow
        { target := s.ev.tile, chan := s.ev.aux % 16, index := s.ev.num, total := s.ev.w0.toNat, data := s.ev.wide, srcTile := s.ev.tile, srcAcc := 2 ^ 64 + s.ev.w1.toNat })
    else .next s

/-- A released SEND by its own number. -/
def Tile.sending (u : Tile) (uid : Nat) : Option Task := u.window.find? fun k => k.uid = uid && k.st = 2 && k.ended.isNone
/-- A row's answer reaches its SEND task. -/
def State.chanAnswered (s : State) (t : TileNo) (uid index : Nat) (data : Row) (out : Nat) : State :=
  match (s.tile t).sending uid with
  | none => s
  | some k =>
    let acc := k.acc
    match out with
    | 0 =>
      let got := insertNat index k.written
      let s := s.modTask t acc fun k => { k with written := got }
      if got.length = (s.side t k 0).sendRows then s.endTask t acc 0 (s.tile t).eclk else s
    | 1 => s.atClock (s.clock + 256) { op := .channelResend, ev := { tile := t, id := uid, num := index, wide := data } }
    | 2 => s.endTask t acc cBADPARAM (s.tile t).eclk
    | _ => s.endTask t acc cCHANNEL_POISONED (s.tile t).eclk
/-- CHANNEL_ROW_ACK (R296): a reply through a window counts only for its tag's current generation (R378); one that fails authentication is dropped (R383),
and the row is sent again after its timeout. With `num` 3 the tag was freed while the tile was frozen (R336). -/
def execChannelRowAck (s : State) : Out :=
  match Map.find s.msgs s.ev.id with
  | some (.chanAck r out) => .next ((s.unsend s.ev.id).chanAnswered r.srcTile r.srcAcc r.index r.data out)
  | some (.reply p) =>
    if p.req.kind ≠ .chanRow then .next s
    else if s.ev.num = 3 then .next ((s.unsend s.ev.id).chanAnswered p.req.tile p.req.await p.req.n p.req.data p.value.toNat)
    else if s.aged p.req.time then .next (s.post { op := .agedDrop, ev := s.ev })
    else
      let s := s.unsend s.ev.id
      let x : TxTag := Map.get {} s.txTags p.req.tag
      if x.gen ≠ p.req.gen || x.busy.isNone then .next (s.countLate p.req.tile)
      else if s.replyStatus p = 3 then .next s
      else
        let s := { s with txTags := Map.set s.txTags p.req.tag { x with busy := none } }
        .next (if (s.tile p.req.tile).frozen then s.holdReply p .channelRowAck else s.chanAnswered p.req.tile p.req.await p.req.n p.req.data p.value.toNat)
  | _ => .next s
/-- COPY_SUSPEND is due, with every row seen that the task has written; a refusal through a window fails the task (log entry 92). -/
def State.suspendDue (s : State) (t : TileNo) (acc : Nat) (e : TransFault) : State :=
  if 8 ≤ e.1 then (s.showAll t acc).endTask t acc (TransFault.code e) (s.tile t).eclk else
  ((s.showAll t acc).bumpFresh).post { op := .copySuspend, ev := { tile := t, id := acc, num := e.1, aux := e.2.2, w0 := BitVec.ofNat 64 e.2.1 } }
/-- Row `j` of a SEND, which is due again, meets a translation fault: the task is suspended once its other rows are acknowledged, and goes on from it. -/
def State.sendFault (s : State) (t : TileNo) (k : Task) (j : Nat) (e : TransFault) : State :=
  (s.modTask t k.acc fun k => { k with prog := min k.prog j }).suspendDue t k.acc e
/-- CHANNEL_RESEND (R296): for as long as the task lives; a unit that is being saved sends its unanswered rows again when it resumes (R367). -/
def execChannelResend (s : State) : Out :=
  match (s.tile s.ev.tile).sending s.ev.id with
  | none => .next s
  | some k =>
    if k.written.contains s.ev.num || (s.tile s.ev.tile).preemptReq then .next s
    else
      match s.sendChanRow s.ev.tile k s.ev.num s.ev.wide with
      | .error e => .next (if k.written.length + 1 < k.prog then s.retry .channelResend else s.sendFault s.ev.tile k s.ev.num e)
      | .ok x => .next (if x.2 then x.1 else s.retry .channelResend)

/-! ## Rows and suspension of the copy engine (R167, R178, R364, R367) -/

/-- The next step of a SEND: a row, read as it is sent; a translation fault suspends the task (R364), and a row that cannot be read fails it (R363). -/
def State.sendNext (s : State) (t : TileNo) (k : Task) : Except TransFault State :=
  let x := s.side t k 0
  match s.spaceKey t x.h (x.sendRow k.prog) true false with
  | .error e => .error e
  | .ok key =>
    let z := (s.usesBanks [key]).readRows t [key]
    let s := z.1
    if z.2 then .ok (s.endTask t k.acc cMEM_UNCORRECTABLE (s.tile t).eclk) else
    match (s.sealRows t x.h 1).sendChanRow t k k.prog (s.row key) with
    | .error e => .error e
    | .ok y =>
    let s := if y.2 then y.1.modTask t k.acc fun k => { k with prog := k.prog + 1 } else s
    .ok (if x.sendRows ≤ k.prog + 1 && y.2 then s else s.later { op := .copyRow, ev := { tile := t, id := k.acc } })
/-- One destination row of a copy; the task ends in the clock after its last. A translation fault suspends a copy (R364) and fails a transpose; a SEND is
suspended once its earlier rows are acknowledged, so that it holds no request (R375). -/
def State.copyRow (s : State) : State :=
  let t := s.ev.tile
  match (s.tile t).working s.ev.id with
  | none => s
  | some k =>
    if k.suspended || ((k.cancel || (s.tile t).preemptReq) && !(k.record.indexed && k.rowIdx ≠ 0)) then s
    else if k.record.channel then
      if k.record.recv then s
      else match s.sendNext t k with
        | .ok s => s
        | .error e => if k.written.length < k.prog then s.retry .copyRow else s.suspendDue t k.acc e
    else
      let finish (s : State) : State := (s.showAll t k.acc).endTask t k.acc 0 ((s.tile t).eclk + 1)
      match s.nextRow t k.acc ((s.tile t).slices k + 1) with
      | .isOver s => finish s
      | .fail s c => (s.showAll t k.acc).endTask t k.acc c (s.tile t).eclk
      | .fault e =>
        if k.record.eng = 1 then ((s.showAll t k.acc).reportFault e).endTask t k.acc (TransFault.code e) (s.tile t).eclk
        else s.suspendDue t k.acc e
      | .more s =>
        match (s.tile t).task k.acc with
        | none => s
        | some j =>
          if j.cancel && (!j.record.indexed || j.rowIdx = 0) then s.post { op := .taskCancelStop, ev := { tile := t, id := k.acc } }
          else if (s.view j).restSkipped t j then finish s
          else s.nextCopy t j 1
/-- COPY_ROW, which gives way to a stream at a bank (R17). -/
def execCopyRow (s : State) : Out := s.giveWay .copyRow s.copyRow
/-- COPY_SUSPEND (R364): `num` subcause, `w0` address, `aux` context. -/
def execCopySuspend (s : State) : Out :=
  let t := s.ev.tile
  match (s.tile t).working s.ev.id, s.partOf t with
  | some k, some p =>
    let s := s.modTask t k.acc fun k => { k with suspended := true }
    let s := s.modPart p fun q =>
      { q with suspends := q.suspends ++ [{ tile := t, seq := k.seq, uid := k.uid, subcause := s.ev.num, addr := s.ev.w0.toNat, ctx := s.ev.aux, channel := k.channel : Suspend }] }
    let s := s.pealTile t 2 1 (s.tile t).launchNo (k.seq.toNat + 2 * 2 ^ 48 + s.ev.w0.toNat * 2 ^ 64)
    .next ((s.report cTRANSLATION s.ev.num).interrupt 65)
  | _, _ => .next s

end Sys2Proof.Machine
end

