-- ==== Sys2Proof/Machine/Matrix.lean ====
section
/-! DEFINITION. The matrix engine: weight tiles, MATMUL tasks, drains, top-k, WLOAD's parts, WSWAP, TOPKRD and TOPKCLR
(R40 to R42, R72, R226 to R244). -/
namespace Sys2Proof.Machine

/-! ## Weight tiles (R226, R229, R233) -/

/-- The read precision of a code (R228); none is reserved or exceeds the stored width. -/
def readPrec (fmt code : Nat) : Option Nat :=
  let w := mxWidth fmt
  let p := if code = 0 then w else if code ≤ 4 then 2 * code else if code = 5 then 12 else 16
  if 6 < code || w < p then none else some p
/-- An MXINT element as read at a precision (R40), in the format of its bank (R59). -/
def Side.readAt (x : Side) (m : State) (t : TileNo) (p : Nat) (i : Nat × Nat × Nat) : Int :=
  match m.readContainer t x i with
  | .ok c => let w := mxWidth (m.localSide x i).h.fmt; planeRead w p (c % 2 ^ w)
  | .error _ => 0
/-- A scale byte of an operand in S-space. -/
def State.scaleByte (s : State) (t : TileNo) (x : Side) (i : Nat × Nat × Nat) : Byte :=
  match s.readScale t x i with
  | .ok (some v) => BitVec.ofNat 8 v
  | _ => 0
/-- A metadata nibble (R229): of logical group `g`, counted from the tile's first. -/
def State.nibble (s : State) (t : TileNo) (m : Side) (byte0 n g : Nat) : Nat :=
  match s.readContainer t m (byte0 + g / 2, n, m.iv.l2) with
  | .ok v => (v >>> (4 * (g % 2))) % 16
  | .error _ => 0
/-- DESIGN CHOICE (log entry 83): where an operand has three dimensions, R228 names none of its dimension 2; the tile lies at the box's LO there, and so do
the rows of A and D. The tile of `ks` stored elements of `cols` columns at (bk, bn), read at precision `p`; every other weight is 0. -/
def State.loadTile (s : State) (t : TileNo) (b m : Side) (bk bn ks cols p : Nat) (sparse : Bool) : WPlane :=
  let lb := blkLen b.h.blk
  let nib (n j : Nat) : Nat := if sparse then s.nibble t m (bk / 4) (bn + n) (j / 2) else 4
  let ok (n j : Nat) : Bool := nib n j % 4 < nib n j / 4
  { fmt := b.h.fmt, blk := lb, prec := p, sparse := sparse
    elems := (List.range cols).flatMap fun n => (List.range ks).filterMap fun j =>
      let y := BitVec.ofInt 16 (b.readAt s t p (bk + j, bn + n, b.iv.l2))
      let k := if sparse then 4 * (j / 2) + (if j % 2 = 0 then nib n j % 4 else nib n j / 4) else j
      if y = 0 || (sparse && !ok n j) then none else some (256 * n + k, y)
    scales := (List.range cols).flatMap fun n => (List.range (ceilDiv ks lb)).filterMap fun q =>
      let e := s.scaleByte t b (bk + q * lb, bn + n, b.iv.l2)
      if e = 0 then none else some (64 * n + q, e)
    bad := if sparse then (List.range cols).flatMap fun n => (List.range (ks / 2)).filterMap fun g => if ok n (2 * g) then none else some (256 * n + 4 * g) else [] }
/-- The rows that the elements of a tile are read from (R236). -/
def Side.tileRows (b : Side) (bk bn ks cols p : Nat) : List Nat :=
  (List.range cols).foldl (fun l n =>
    if b.h.layout then
      (List.range ((bk + ks - 1) / 512 + 1 - bk / 512)).foldl (fun l g =>
        (List.range p).foldl (fun l q => insertNat ((b.h.planarAt b.base (512 * (bk / 512 + g)) (bn + n) b.iv.l2).1 + 64 * q) l) l) l
    else
      let a := rowOf (b.h.packedAt b.base bk (bn + n) b.iv.l2).1
      let z := rowOf ((b.h.packedAt b.base (bk + ks - 1) (bn + n) b.iv.l2).1 + (container b.h.fmt - 1) / 8)
      (List.range ((z - a) / 64 + 1)).foldl (fun l q => insertNat (a + 64 * q) l) l) []
/-- The clocks of a weight load (R236). -/
def Side.loadClocks (b : Side) (bk bn ks cols p : Nat) (sparse : Bool) : Nat :=
  ceilDiv (64 * (b.tileRows bk bn ks cols p).length + cols * ceilDiv ks (blkLen b.h.blk) + (if sparse then cols * ceilDiv ks 4 else 0)) 1536 + 4

/-! ## Accumulation (R41, R42) -/

/-- The value of one accumulator element after a row of activations: `a` and `sa` read the row's elements and scale bytes. -/
def accElem (w : WPlane) (la pa klen : Nat) (a : Nat → Int) (sa : Nat → Nat) (n acc : Nat) : Nat × Flags :=
  let lb := if w.sparse then 2 * w.blk else w.blk
  let ls := min la lb
  (List.range (ceilDiv klen ls)).foldl (fun r q =>
    let k0 := q * ls
    let d := (List.range (min ls (klen - k0))).foldl (fun d j => d + a (k0 + j) * (Map.get 0 w.elems (256 * n + k0 + j)).toInt) (0 : Int)
    let ea := sa (k0 / la)
    let eb := (Map.get 0 w.scales (64 * n + k0 / lb)).toNat
    let x := accSegment r.1 (ea = 0xFF || eb = 0xFF) d ((ea : Int) - 127 + 2 - pa + eb - 127 + 2 - w.prec)
    (x.1, r.2 ||| x.2)) (acc, 0)
/-- An accumulator row after a row of activations; columns from `nlen` on receive nothing. -/
def accRowStep (w : WPlane) (la pa klen nlen : Nat) (a : Nat → Int) (sa : Nat → Nat) (row : VRow) : VRow × Flags :=
  let xs := (List.range 128).map fun n => if n < nlen then accElem w la pa klen a sa n (laneBits row 32 n) else (laneBits row 32 n, (0 : Flags))
  (rowOfLanes 32 (xs.map Prod.fst), xs.foldl (fun f x => f ||| x.2) 0)
/-- Slices that a product gangs (R41). -/
def slicesOf (pa pb : Nat) : Nat := pa / 2 * (pb / 2)
/-- The clock, counted from a pass's first, in which row `i` enters (R41, R236). -/
def enterAt (pa pb i : Nat) : Nat := if slicesOf pa pb ≤ 16 then i / (16 / slicesOf pa pb) else i * ceilDiv (slicesOf pa pb) 16
/-- Pass occupancy (R236). -/
def occupancy (pa pb rows : Nat) : Nat := if slicesOf pa pb ≤ 16 then ceilDiv rows (16 / slicesOf pa pb) else rows * ceilDiv (slicesOf pa pb) 16

/-! ## The MATMUL task (R230 to R234) -/

/-- Fields of P0. -/
def TaskRec.mrows (r : TaskRec) : Nat := bits r.p0 7 0
def TaskRec.klen (r : TaskRec) : Nat := bits r.p0 16 8
def TaskRec.nlen (r : TaskRec) : Nat := bits r.p0 24 17
def TaskRec.paCode (r : TaskRec) : Nat := bits r.p0 27 25
def TaskRec.pbCode (r : TaskRec) : Nat := bits r.p0 30 28
def TaskRec.mSparse (r : TaskRec) : Bool := bitAt r.p0 31
def TaskRec.keepw (r : TaskRec) : Bool := bitAt r.p0 32
def TaskRec.mBank (r : TaskRec) : Bool := bitAt r.p0 33
def TaskRec.arbase (r : TaskRec) : Nat := bits r.p0 40 34
def TaskRec.tkk (r : TaskRec) : Nat := bits r.p0 46 41
/-- Whether a task is a MATMUL. -/
def TaskRec.matmul (r : TaskRec) : Bool := r.eng = 2 && r.op = 0
/-- Stored elements per pass and column. -/
def TaskRec.kStored (r : TaskRec) : Nat := if r.mSparse then r.klen / 2 else r.klen
/-- Fields of a loop level (R232). -/
def lCount (r : Row) : Nat := bits r 15 0
def lSw (r : Row) : Bool := bitAt r 16
def lZr (r : Row) : Bool := bitAt r 17
def lDr (r : Row) : Bool := bitAt r 18
def lStr (r : Row) (lo : Nat) : Int := sgn 32 (bits r (lo + 31) lo)
def lAstr (r : Row) : Int := sgn 16 (bits r 271 256)
/-- The places of the strides in a level's row. -/
def fCSTR : Nat := 32
def fAK : Nat := 64
def fAM : Nat := 96
def fBK : Nat := 128
def fBN : Nat := 160
def fDN : Nat := 192
def fDM : Nat := 224
/-- The rows of the parameter block (R168). -/
def State.paramRows (s : State) (t : TileNo) (r : TaskRec) : List Row := (List.range r.prows).map fun i => s.row (tileKey t (64 * (r.pblk + i)))
/-- The engine reads them at release; a row that cannot be read fails the task (R363). -/
def State.readParams (s : State) (t : TileNo) (r : TaskRec) : State × Bool := s.readRows t ((List.range r.prows).map fun i => tileKey t (64 * (r.pblk + i)))
/-- Σ i_l · stride over the levels (R233). -/
def offsetOf (rows : List Row) (cs : List Nat) (f : Row → Int) : Int := (rows.zip cs).foldl (fun a p => a + f p.1 * p.2) 0
/-- The least and the greatest offset over every combination of counters (R234). -/
def offsetMin (rows : List Row) (f : Row → Int) : Int := rows.foldl (fun a r => a + min 0 (f r * ((lCount r : Int) - 1))) 0
def offsetMax (rows : List Row) (f : Row → Int) : Int := rows.foldl (fun a r => a + max 0 (f r * ((lCount r : Int) - 1))) 0
/-- Whether positions lo + offset, taken `n` long, stay inside [l, h). -/
def inside (rows : List Row) (lo : Nat) (f : Row → Int) (n l h : Nat) : Bool := (l : Int) ≤ lo + offsetMin rows f && lo + offsetMax rows f + (n : Int) ≤ h
/-- Whether every position is a multiple of `m`. -/
def aligned (rows : List Row) (lo : Nat) (f : Row → Int) (m : Nat) : Bool := lo % m = 0 && rows.all fun r => lCount r ≤ 1 || f r % (m : Int) = 0
/-- A scaled MXINT shape. -/
def Shape.scaledMx (h : Shape) : Bool := h.scaled && mxWidth h.fmt ≠ 0
/-- The checks of R234 at release. DESIGN CHOICE (log entry 33): a task with causes of both codes fails with BADPARAM, which R234 lists first. -/
def State.matFault (s : State) (t : TileNo) (k : Task) : Option (BitVec 16) :=
  let u := s.tile t
  let r := k.record
  let rows := s.paramRows t r
  let a := s.side t k 0
  let b := s.side t k 1
  let d := s.side t k 2
  let m := s.side t k 3
  let hasB := (r.box 1).isSome
  let needB := !r.keepw || rows.any lSw
  let dr := rows.any lDr
  let kOk := if r.mSparse then 16 ≤ r.klen && r.klen ≤ 256 && r.klen % 16 = 0 else 8 ≤ r.klen && r.klen ≤ 128 && r.klen % 8 = 0
  let range := 1 ≤ r.mrows && r.mrows ≤ 128 && kOk && 1 ≤ r.nlen && r.nlen ≤ 128 && r.tkk ≤ 32 && bits r.p0 63 48 = 0 && bits r.p1 63 32 = 0 && r.p2 = 0
    && r.p3 = 0 && r.prows = 6 && rows.all fun x => 1 ≤ lCount x && bits x 31 19 = 0 && bits x 511 272 = 0
  let slots := (r.box 0).map Box.write = some false && (if hasB then (r.box 1).map Box.write = some false else !needB)
    && (r.box 2).map Box.write = (if dr then some true else none) && (r.box 3).map Box.write = (if r.mSparse then some false else none)
    && a.h.space = 0 && b.h.space = 0 && m.h.space = 0 && d.h.space ≤ 1
  let reach := !a.iv.empty && inside rows a.iv.l0 (lStr · fAK) r.klen a.iv.l0 a.iv.h0 && inside rows a.iv.l1 (lStr · fAM) r.mrows a.iv.l1 a.iv.h1
    && (!needB || (!b.iv.empty && inside rows b.iv.l0 (lStr · fBK) r.kStored b.iv.l0 b.iv.h0 && inside rows b.iv.l1 (lStr · fBN) r.nlen b.iv.l1 b.iv.h1))
    && (!r.mSparse || !needB || (!m.iv.empty && (m.iv.l0 : Int) ≤ (b.iv.l0 + offsetMin rows (lStr · fBK)) / 4
          && (b.iv.l0 + offsetMax rows (lStr · fBK)) / 4 + (r.klen / 8 : Nat) ≤ m.iv.h0 && inside rows b.iv.l1 (lStr · fBN) r.nlen m.iv.l1 m.iv.h1))
    && (!dr || (!d.iv.empty && inside rows d.iv.l0 (lStr · fDN) r.nlen d.iv.l0 d.iv.h0 && inside rows d.iv.l1 (lStr · fDM) r.mrows d.iv.l1 d.iv.h1))
    && inside rows r.arbase lAstr r.mrows 0 128
  let format := a.h.scaledMx && (!hasB || b.h.scaledMx) && (!r.mSparse || m.h.fmt = 0) && (readPrec a.h.fmt r.paCode).isSome
    && r.pbCode ≠ 7 && (!hasB || (readPrec b.h.fmt r.pbCode).isSome) && aligned rows a.iv.l0 (lStr · fAK) (blkLen a.h.blk)
    && (!needB || aligned rows b.iv.l0 (lStr · fBK) (blkLen b.h.blk))
    && (!dr || (d.h.fmt ≠ 0 && (!d.h.scaled || (r.nlen % blkLen d.h.blk = 0 && aligned rows d.iv.l0 (lStr · fDN) (blkLen d.h.blk)))))
    && (!r.keepw || u.planeA.sparse = r.mSparse)
  if !range || !slots || !reach then some cBADPARAM else if !format then some cFORMAT_MISMATCH else none

/-! ## Reading operands (R49, R237, R363) -/

/-- The rows that hold a rectangle of an S-space operand, read at precision `p`, with the rows of its scales. -/
def State.rectRows (s : State) (x : Side) (i0 i1 n0 n1 p : Nat) : List Nat :=
  let lb := blkLen x.h.blk
  x.tileRows i0 i1 n0 n1 p ++ if x.h.scaled then
    ((List.range n1).flatMap fun j => (List.range (ceilDiv n0 lb)).map fun q => rowOf (s.scaleAt x.h x.base (i0 + q * lb) (i1 + j) x.iv.l2)).eraseDups else []
/-- A party of tile `t` reads that rectangle: the code that the access meets, if any. -/
def State.readRect (s : State) (t : TileNo) (x : Side) (i0 i1 n0 n1 p : Nat) : State × Option (BitVec 16) :=
  match s.sFault t x.base with
  | some c => (s, some c)
  | none => match (s.usesBanks (s.rectRows x i0 i1 n0 n1 p)).readRows t (s.rectRows x i0 i1 n0 n1 p) with
    | (s, true) => (s, some cMEM_UNCORRECTABLE)
    | (s, false) => (s, none)
/-- The reads of a weight tile: its elements and scales, then its metadata. -/
def State.readTile (s : State) (t : TileNo) (b m : Side) (bk bn ks cols p : Nat) (sparse : Bool) : State × Option (BitVec 16) :=
  match s.readRect t b bk bn ks cols p with
  | (s, none) => if sparse then s.readRect t m (bk / 4) bn (ceilDiv ks 4) cols 8 else (s, none)
  | r => r

/-- The next combination of the counters, innermost first. -/
def nextCounters : List Row → List Nat → Option (List Nat)
  | r :: rs, c :: cs => if c + 1 < lCount r then some ((c + 1) :: cs) else (nextCounters rs cs).map fun n => 0 :: n
  | _, _ => none
/-- The lowest level with a flag: its iterations begin and end where those of every higher one with the flag do. -/
def lowest (rows : List Row) (p : Row → Bool) : Option Nat := findFrom (fun i => p (rows.getD i 0)) 0 6
/-- Whether the pass is the first, or the last, of an iteration of a level. -/
def firstOf (cs : List Nat) (l : Nat) : Bool := (cs.take l).all fun c => c = 0
def lastOf (rows : List Row) (cs : List Nat) (l : Nat) : Bool := ((rows.zip cs).take l).all fun p => p.2 + 1 = lCount p.1
/-- Whether the pass is a point of a flag. -/
def pointFirst (rows : List Row) (cs : List Nat) (p : Row → Bool) : Bool := match lowest rows p with | some l => firstOf cs l | none => false
def pointLast (rows : List Row) (cs : List Nat) (p : Row → Bool) : Bool := match lowest rows p with | some l => lastOf rows cs l | none => false
/-- The counters of the next swap point after a pass. -/
def nextSwap (rows : List Row) (cs : List Nat) : Option (List Nat) :=
  match lowest rows lSw with
  | none => none
  | some l => (nextCounters (rows.drop l) (cs.drop l)).map fun n => List.replicate l 0 ++ n

/-- A position lo + offset. -/
def posAt (rows : List Row) (cs : List Nat) (lo : Nat) (f : Nat) : Nat := (lo + offsetOf rows cs (lStr · f)).toNat
/-- Whether elements of a rectangle of dimensions 0 and 1 lie in scale rows (R57). -/
def State.boxInScales (s : State) (x : Side) (i0 i1 n0 n1 : Nat) : Bool :=
  (List.range n1).any fun j => (List.range n0).any fun i => s.inScales x (i0 + i, i1 + j, x.iv.l2)
/-- Starts the load of the tile for the pass with counters `cs` into the shadow plane (R233, R236); a fault of its access fails the task (R237). -/
def State.loadFor (s : State) (t : TileNo) (k : Task) (rows : List Row) (cs : List Nat) : State :=
  let r := k.record
  let b := s.side t k 1
  let m := s.side t k 3
  let p := (readPrec b.h.fmt r.pbCode).getD 2
  let bk := posAt rows cs b.iv.l0 fBK
  let bn := posAt rows cs b.iv.l1 fBN
  match s.readTile t b m bk bn r.kStored r.nlen p r.mSparse with
  | (s, some c) => s.endTask t k.acc c (s.tile t).eclk
  | (s, none) =>
  let s := s.modTile t fun u => { u with wload := some { plane := { s.loadTile t b m bk bn r.kStored r.nlen p r.mSparse with inScales := s.boxInScales b bk bn r.kStored r.nlen }, isTask := true } }
  let a : Act := { op := .weightLoadComplete, ev := { tile := t } }
  if keyTile b.base = t && (!r.mSparse || keyTile m.base = t) then s.atClock (s.clock + b.loadClocks bk bn r.kStored r.nlen p r.mSparse) a else s.later a
/-- A released MATMUL begins (R234, R235, R236, R238). -/
def State.startMatmul (s : State) (t : TileNo) (k : Task) : State :=
  let u := s.tile t
  let r := k.record
  let rows := s.paramRows t r
  let s := s.pealTile t 3 0 u.launchNo (k.seq.toNat + 2 * 2 ^ 48)
  let s := s.modTile t fun u => if r.mBank then { u with claim1 := some k.acc } else { u with claim0 := some k.acc }
  match s.readParams t r with
  | (s, true) => s.endTask t k.acc cMEM_UNCORRECTABLE u.eclk
  | (s, false) =>
  match s.matFault t k with
  | some c => s.endTask t k.acc c u.eclk
  | none =>
    let cs := rows.map fun _ => 0
    let s := s.modTile t fun u =>
      { u with mat := some { acc := k.acc, rows := rows, counters := cs, finished := false }, shadowFull := false, topk := if bitAt r.p0 47 then [] else u.topk }
    let s := if r.keepw then (match nextSwap rows cs with | some n => s.loadFor t k rows n | none => s) else s.loadFor t k rows cs
    s.post { op := .matmulPass, ev := { tile := t, id := k.acc } }
/-- Changes the MATMUL in progress. -/
def State.modMat (s : State) (t : TileNo) (f : MatProg → MatProg) : State := s.modTile t fun u => { u with mat := u.mat.map f }

/-- Whether A, B and the metadata lie in the tile's own slice (R236). -/
def State.matLocal (s : State) (t : TileNo) (k : Task) : Bool :=
  ((s.tile t).boxesOf k.record).all fun y => y.1 = 2 || (y.2.2.shape.space = 0 && keyTile (k.bases.getD y.1 0) = t)
/-- The first accumulator row of a pass, in 0 to 255. -/
def passRow (r : TaskRec) (rows : List Row) (cs : List Nat) : Nat := (if r.mBank then 128 else 0) + (r.arbase + offsetOf rows cs lAstr).toNat
/-- The pass with counters `cs` (R233): its rows enter the pipeline with their new values. -/
def State.pass (s : State) (t : TileNo) (k : Task) (m : MatProg) : State :=
  let u := s.tile t
  let r := k.record
  let a := s.side t k 0
  let d := s.side t k 2
  let cs := m.counters
  let rows := m.rows
  let pa := (readPrec a.h.fmt r.paCode).getD 2
  let ak := posAt rows cs a.iv.l0 fAK
  let am := posAt rows cs a.iv.l1 fAM
  let ar := passRow r rows cs
  let zero := pointFirst rows cs lZr
  let drain := pointLast rows cs lDr
  let col : BitVec 32 := BitVec.ofInt 32 ((bits r.p1 31 0 : Int) + offsetOf rows cs (lStr · fCSTR))
  let res := (List.range r.mrows).map fun i =>
    accRowStep u.planeA (blkLen a.h.blk) pa r.klen r.nlen (fun j => a.readAt s t pa (ak + j, am + i, a.iv.l2))
      (fun q => (s.scaleByte t a (ak + q * blkLen a.h.blk, am + i, a.iv.l2)).toNat) (if zero then 0 else u.accAt (ar + i))
  let pipe : List PipeRow := res.zipIdx.map fun x =>
    { row := ar + x.2, value := x.1.1, step := m.passes, idx := x.2, drain := drain, dm := posAt rows cs d.iv.l1 fDM, dn := posAt rows cs d.iv.l0 fDN, col := col }
  let s := s.modTile t fun u =>
    { u with acc := pipe.foldl (fun c p => Map.set c p.row p.value) u.acc, ecc := pipe.foldl (fun c p => Map.del c (eccAcc p.row)) u.ecc }
  let s := s.modTask t k.acc fun k => { k with flags := res.foldl (fun f x => f ||| x.2) k.flags }
  let next := nextCounters rows cs
  let s := s.modMat t fun m => { m with pipe := m.pipe ++ pipe, passes := m.passes + 1, counters := next.getD cs, finished := next.isNone }
  let extra := if s.matLocal t k then 0 else Config.freeDelay s.fresh
  let s := if s.matLocal t k then s else { s with fresh := s.fresh + 1 }
  let s := (List.range r.mrows).foldl (fun s i =>
    s.atClock (s.clock + enterAt pa u.planeA.prec i + 136 + extra) { op := .rowFinal, ev := { tile := t, id := k.acc, num := m.passes, aux := i } }) s
  if next.isNone then s
  else s.atClock (s.clock + occupancy pa u.planeA.prec r.mrows + extra) { op := .matmulPass, ev := { tile := t, id := k.acc } }
/-- The reads of a pass: its activations, and its accumulator rows where it does not zero them. -/
def State.readPass (s : State) (t : TileNo) (k : Task) (m : MatProg) : State × Option (BitVec 16) :=
  let a := s.side t k 0
  let ar := passRow k.record m.rows m.counters
  match s.readRect t a (posAt m.rows m.counters a.iv.l0 fAK) (posAt m.rows m.counters a.iv.l1 fAM) k.record.klen k.record.mrows
      ((readPrec a.h.fmt k.record.paCode).getD 2) with
  | (s, none) =>
    if pointFirst m.rows m.counters lZr then (s, none)
    else match s.readOwn t ((List.range k.record.mrows).map fun i => eccAcc (ar + i)) with
      | (s, true) => (s, some cMEM_UNCORRECTABLE)
      | (s, false) => (s, none)
  | r => r
/-- MATMUL_PASS (R233, R236, R237): a pass waits for its weights and, at a zero point, for its rows' drains; a fault of its reads fails the task. -/
def State.matmulPass (s : State) : State :=
  let t := s.ev.tile
  let u := s.tile t
  match u.working s.ev.id, u.mat with
  | some k, some m =>
    let r := k.record
    let swap := if m.passes = 0 then !r.keepw else pointFirst m.rows m.counters lSw
    let wWait := swap && !u.shadowFull
    let ar := passRow r m.rows m.counters
    let dWait := pointFirst m.rows m.counters lZr && m.pipe.any fun p => p.drain && ar ≤ p.row && p.row < ar + r.mrows
    if k.cancel || u.preemptReq || m.finished then s
    else if wWait || dWait then
      let s := if wWait then s.countAt t 4 1 else s
      let s := if dWait then s.countAt t 5 1 else s
      ((s.modMat t fun m => { m with wWait := m.wWait + (if wWait then 1 else 0), dWait := m.dWait + (if dWait then 1 else 0) }).retry .matmulPass)
    else
      let s := if swap then s.modTile t fun u => { u with planeA := u.planeS, planeS := u.planeA, shadowFull := false } else s
      let s := if swap then (match nextSwap m.rows m.counters with
        | some n => s.loadFor t k m.rows n
        | none => s) else s
      let w := (s.tile t).planeA
      if w.bad.any fun g => g / 256 < r.nlen && g % 256 < r.klen then (s.endTask t k.acc cBADPARAM u.eclk)
      else if w.inScales || s.boxInScales (s.side t k 0) (posAt m.rows m.counters (s.side t k 0).iv.l0 fAK) (posAt m.rows m.counters (s.side t k 0).iv.l1 fAM) r.klen r.mrows then
        ((s.modTile t fun u => { u with planeA := { u.planeA with inScales := false } }).endTask t k.acc cFORMAT_MISMATCH u.eclk)
      else match s.readPass t k m with
        | (s, some c) => (s.endTask t k.acc c u.eclk)
        | (s, none) => (s.pass t k m)
  | _, _ => s
/-- MATMUL_PASS, which gives way to a stream at a bank (R17). -/
def execMatmulPass (s : State) : Out := s.giveWay .matmulPass s.matmulPass

/-! ## Rows leave the pipeline (R235, R236, R239) -/

/-- Elements of row (i1, i2) of a box that lie in a granule. -/
def Side.elemsIn (b : Side) (g i1 i2 : Nat) : List Nat :=
  (List.range (b.iv.len 0)).map (b.iv.l0 + ·) |>.filter fun i =>
    (b.h.granules b.base { l0 := i, h0 := i + 1, l1 := i1, h1 := i1 + 1, l2 := i2, h2 := i2 + 1 }).contains g
/-- The granules of row `dm` of D, columns from `dn`, that are now written wholly: `wrote` lists the drained runs as 2^24·row + column (R62). -/
def Side.drainedGranules (b : Side) (nlen dm dn : Nat) (wrote : List Nat) : List Nat :=
  (b.h.granules b.base { b.iv with l0 := dn, h0 := dn + nlen, l1 := dm, h1 := dm + 1 }).filter fun g =>
    (List.range (b.iv.len 1)).all fun j =>
      let i1 := b.iv.l1 + j
      !((b.h.granules b.base { b.iv with l1 := i1, h1 := i1 + 1 }).contains g)
        || (b.elemsIn g i1 b.iv.l2).all fun i => wrote.any fun w => w / 2 ^ 24 = i1 && w % 2 ^ 24 ≤ i && i < w % 2 ^ 24 + nlen
/-- R239: the order of top-k entries. -/
def better (a b : TopEntry) : Bool :=
  let x := fp32.decode a.v.toNat
  let y := fp32.decode b.v.toNat
  if x.isNan && y.isNan then a.i.toNat < b.i.toNat
  else if x.isNan then false
  else if y.isNan then true
  else if y.lt false x then true
  else if x.lt false y then false
  else a.i.toNat < b.i.toNat
/-- Inserts an entry, best first; equals keep their order. -/
def insertTop (e : TopEntry) : List TopEntry → List TopEntry
  | [] => [e]
  | x :: rest => if better e x then e :: x :: rest else x :: insertTop e rest
/-- The k best of a row's entries and its candidates (R239). -/
def topMerge (k : Nat) (old cand : List TopEntry) : List TopEntry := (cand.foldl (fun l e => if e = {} then l else insertTop e l) old).take k
/-- Converts an accumulator row to the destination from element (dn, dm) (R235); the destination is `b` with its box cut to those elements. -/
def State.drainTo (s : State) (r : TaskRec) (b : Side) (dn dm nlen : Nat) (v : VRow) : SliceOut :=
  let b := { b with iv := { b.iv with l0 := dn, h0 := dn + nlen } }
  s.encodeSlice r b dm b.iv.l2 ((List.range nlen).map fun n => fp32.decode (laneBits v 32 n))
/-- The end of a MATMUL: the clock after its last row has left the pipeline (R236); a stopped one leaves then (R237). -/
def State.matEnd (s : State) (t : TileNo) (acc : Nat) : State :=
  let u := s.tile t
  match u.task acc, u.mat with
  | some k, some m =>
    if m.pipe ≠ [] then s
    else if m.finished then
      let s := if m.rows.any lDr then s.modTile t fun u =>
        { u with claim0 := if u.claim0 = some acc then none else u.claim0, claim1 := if u.claim1 = some acc then none else u.claim1 } else s
      s.endTask t acc 0 (u.eclk + 1)
    else if k.cancel then s.post { op := .taskCancelStop, ev := { tile := t, id := acc } }
    else s
  | _, _ => s
/-- ROW_FINAL for a MATMUL: the row may drain, or leaves the pipeline. -/
def State.matRowFinal (s : State) (t : TileNo) (acc n i : Nat) : State :=
  match (s.tile t).mat with
  | some m =>
    match m.pipe.find? fun p => p.step = n && p.idx = i with
    | some p =>
      if p.drain then
        State.postFirst (s.modMat t fun m => { m with pipe := m.pipe.map fun q => if q.step = n && q.idx = i then { q with final := true } else q })
          { op := .accDrain, ev := { tile := t, id := acc } }
      else (s.modMat t fun m => { m with pipe := m.pipe.filter fun q => !(q.step = n && q.idx = i) }).matEnd t acc
    | none => s
  | none => s
/-- ACC_DRAIN (R235, R236, R237, R239): one row per clock, in order; a fault of its write fails the task. -/
def State.accDrain (s : State) : State :=
  let t := s.ev.tile
  let u := s.tile t
  match u.working s.ev.id, u.mat with
  | some k, some m =>
    match m.pipe.find? PipeRow.drain with
    | some p =>
      if !p.final || m.drainedAt = some u.eclk then s.retry .accDrain
      else
        let r := k.record
        let b := s.side t k 2
        let dm := (p.dm + p.idx).toNat
        let dn := p.dn.toNat
        let o := s.drainTo r b dn dm r.nlen p.value
        if s.boxInScales b dn dm r.nlen 1 then (s.endTask t k.acc cFORMAT_MISMATCH u.eclk) else
        match if b.h.space = 0 then s.sFault t b.base else none with
        | some c => (s.endTask t k.acc c u.eclk)
        | none => match s.keyWrites t b.h (o.rows ++ o.scales) with
        | .error e => ((s.reportFault e).endTask t k.acc (TransFault.code e) u.eclk)
        | .ok ks => match s.readPart t ks with
        | (s, true) => (s.endTask t k.acc cMEM_UNCORRECTABLE u.eclk)
        | (s, false) =>
          let wrote := (2 ^ 24 * dm + dn) :: k.written
          let s := (s.sealRows t b.h (rowsOf ks).length).writeRows t k.acc ks (if b.h.space = 0 then b.drainedGranules r.nlen dm dn wrote else [])
          let s := s.modTask t k.acc fun k => { k with flags := k.flags ||| o.flags, written := wrote, prog := k.prog + 1 }
          let s := if r.tkk = 0 then s
            else s.modTile t fun u => { u with topk := Map.set u.topk (p.row % 128) (topMerge r.tkk (Map.get [] u.topk (p.row % 128))
             ((List.range r.nlen).map fun n => ({ v := BitVec.ofNat 32 (laneBits p.value 32 n), i := p.col + BitVec.ofNat 32 n } : TopEntry))) }
          ((s.modMat t fun m =>
            { m with drainedAt := some u.eclk, pipe := m.pipe.filter fun q => !(q.step = p.step && q.idx = p.idx) }).matEnd t k.acc)
    | none => s
  | _, _ => s
/-- ACC_DRAIN, which gives way to a stream at a bank (R17). -/
def execAccDrain (s : State) : Out := s.giveWay .accDrain s.accDrain

/-! ## WSWAP, TOPKRD, TOPKCLR (R242 to R244) -/

/-- A task of a tile that a test names is released. -/
def Tile.released (u : Tile) (p : TaskRec → Bool) : Bool := u.window.any fun k => k.st = 2 && p k.record
/-- Whether a roll runs on a tile's array (R267, STATE ROLLING or CODA). -/
def Tile.rolling (u : Tile) : Bool := u.roll.state = 2 || u.roll.state = 3
def execWswap (s : State) : Out :=
  s.guard onC [] fun s =>
    if s.me.rolling then s.trap cILLEGAL_USE
    else if s.me.wload.isSome || s.me.released TaskRec.matmul then s.stall rINTERLOCK
    else (s.modMe fun u => { u with planeA := u.planeS, planeS := u.planeA }).done
/-- Whether a released matrix task merges into the top-k store. -/
def Tile.topBusy (u : Tile) : Bool := u.released fun r => r.matmul && r.tkk ≠ 0
/-- TOPKRD (R243). -/
def execTopkrd (d : QReg) (a : Reg) (s : State) : Out :=
  s.guardI onC [.x a] [.q d] fun s =>
    if s.me.topBusy then s.stall rINTERLOCK
    else
      let es := Map.get [] s.me.topk (bits (s.x a) 6 0)
      let row := rowOfWords ((List.range 8).map fun j => let e : TopEntry := es.getD (8 * bits (s.x a) 8 7 + j) {}; zext64 e.i <<< 32 ||| zext64 e.v)
      (s.answers [.q d] [row.setWidth 4096]).done
def execTopkrdN (d a : Reg) (s : State) : Out :=
  s.guardI onC [.x a] [.x d] fun s =>
    if s.me.topBusy then s.stall rINTERLOCK
    else (s.answer d (BitVec.ofNat 64 (Map.get [] s.me.topk (bits (s.x a) 6 0)).length)).done
def execTopkclr (s : State) : Out :=
  s.guard onC [] fun s => if s.me.topBusy then s.stall rINTERLOCK else (s.modMe fun u => { u with topk := [] }).done

end Sys2Proof.Machine
end

