-- ==== Sys2Proof/Machine/Roll.lean ====
section
/-! DEFINITION. Roll mode: release, groups, beats, demands, staging, drains, the ending, and WLOAD, DEMAND, FEED, DRAIN, CODA and ROLLSTAT
(R57, R241, R245 to R267). -/
namespace Sys2Proof.Machine

/-! ## Fields (R246, R247, R251) -/

def Roll.klen (r : Roll) : Nat := bits r.p0 48 40
def Roll.nlen (r : Roll) : Nat := bits r.p0 56 49
def Roll.srows (r : Roll) : Nat := bits r.p0 39 32
def Roll.nsteps (r : Roll) : Nat := bits r.p0 31 16
def Roll.period (r : Roll) : Nat := bits r.p0 15 0
def Roll.keepw (r : Roll) : Bool := bitAt r.p0 61
def Roll.sparse (r : Roll) : Bool := bitAt r.p0 62
def Roll.afmt (r : Roll) : Nat := bits r.p2 12 8
def Roll.ablk (r : Roll) : Nat := bits r.p2 14 13
def Roll.plen (r : Roll) : Nat := bits r.p2 7 0
def Roll.la (r : Roll) : Nat := blkLen r.ablk
def Roll.pa (r : Roll) : Nat := (readPrec r.afmt (bits r.p0 59 57)).getD 2
def Roll.laop (r : Roll) : Nat := bits r.p1 3 0
def Roll.law (r : Roll) : Nat := bits r.p1 7 4
def Roll.ladr (r : Roll) : Nat := bits r.p1 11 8
def Roll.restlim (r : Roll) : Nat := bits r.p1 19 12
def Roll.bus (r : Roll) : Nat := bits r.p1 23 20
def Roll.gsize (r : Roll) : Nat := bits r.p1 29 24
def Roll.member (r : Roll) : Nat := bits r.p1 34 30
def Roll.opranks (r : Roll) : Nat := bits r.p1 42 35
def Roll.wranks (r : Roll) : Nat := bits r.p1 50 43
def Roll.drranks (r : Roll) : Nat := bits r.p1 58 51
/-- LEAD (R250). -/
def Roll.lead (r : Roll) : Nat := max r.laop (max r.law r.ladr)
/-- The pattern entry of a step. -/
def Roll.entry (r : Roll) (s : Nat) : BitVec 32 := r.pattern.getD (s % r.plen) 0
def eSw (e : BitVec 32) : Bool := bitAt e 9
def eDr (e : BitVec 32) : Bool := bitAt e 8
def eZr (e : BitVec 32) : Bool := bitAt e 7
/-- Whether a step needs a newly staged weight tile (R247). -/
def Roll.needsW (r : Roll) (s : Nat) : Bool := if s = 0 then !r.keepw else eSw (r.entry s)
def Roll.needsD (r : Roll) (s : Nat) : Bool := eDr (r.entry s)
/-- Ranks of a mask, ascending. -/
def ranksOf (m : Nat) : List Nat := (List.range 8).filter fun i => m.testBit i
/-- The tile that receives demand `i` of a kind (R251). -/
def targetOf (t : TileNo) (mask i : Nat) : TileNo := tileAt (clusterOf t) ((ranksOf mask).getD (i % (ranksOf mask).length) 0)
/-- A demand word (R251). -/
def Roll.word (r : Roll) (t : TileNo) (kind step rows : Nat) : Word :=
  BitVec.ofNat 64 (kind * 2 ^ 62 + r.member * 2 ^ 56 + step * 2 ^ 40 + rows * 2 ^ 32 + r.epoch.toNat * 2 ^ 16 + t.toNat)
/-- The same word as a reminder. -/
def lateWord (w : Word) : Word := w ||| 2 ^ 61
/-- A bus. -/
def State.bus (s : State) (n : Nat) : Bus := Map.get {} s.buses n
/-- Changes a bus. -/
def State.modBus (s : State) (n : Nat) (f : Bus → Bus) : State := { s with buses := Map.set s.buses n (f (s.bus n)) }
/-- Changes a tile's roll. -/
def State.modRoll (s : State) (t : TileNo) (f : Roll → Roll) : State := s.modTile t fun u => { u with roll := f u.roll }

/-! ## Release and formation (R248, R249) -/

/-- The checks of R248. -/
def State.rollFault (s : State) (t : TileNo) (k : Task) (r : Roll) : Option (BitVec 16) :=
  let u := s.tile t
  let w := mxWidth r.afmt
  let paCode := bits r.p0 59 57
  let kOk := if r.sparse then 16 ≤ r.klen && r.klen ≤ 256 && r.klen % 16 = 0 else 8 ≤ r.klen && r.klen ≤ 128 && r.klen % 8 = 0
  let range := 8 ≤ r.period && 1 ≤ r.nsteps && 1 ≤ r.srows && r.srows ≤ 128 && kOk && 1 ≤ r.nlen && r.nlen ≤ 128 && !bitAt r.p0 63 && 1 ≤ r.laop
    && 1 ≤ r.law && 1 ≤ r.gsize && r.gsize ≤ 32 && r.member < r.gsize && r.opranks ≠ 0 && bits r.p1 63 59 = 0 && 1 ≤ r.plen && r.plen ≤ 128
    && w ≠ 0 && bits r.p2 63 15 = 0 && k.record.p3 = 0
  let shape := k.record.prows = ceilDiv r.plen 16
  let es := (List.range r.plen).map r.entry
  let entries := es.all fun e => bits e 31 10 = 0 && bits e 6 0 + r.srows ≤ 128
  let pace := r.keepw && (readPrec r.afmt paCode).isSome && r.period < occupancy r.pa u.planeA.prec r.srows
  let masks := (ranksOf r.opranks ++ ranksOf r.wranks ++ ranksOf r.drranks).any (fun i => s.isFenced (tileAt (clusterOf t) i)) || (ranksOf r.opranks).contains (rankOf t)
  let noW := es.all (fun e => !eSw e) && r.keepw
  let weak := 1 < r.gsize && (s.launch r.launch).cls = 0
  if !range || !shape || !entries || pace || masks || (noW ≠ (r.wranks = 0)) || (r.drranks = 0 && es.any eDr) || weak then some cBADPARAM
  else if (readPrec r.afmt paCode).isNone || r.ablk = 3 || (r.keepw && u.planeA.sparse ≠ r.sparse) then some cFORMAT_MISMATCH
  else none
/-- The roll's task, while its engine works on it. -/
def Tile.rollTask (u : Tile) : Option Task := (u.working u.roll.acc).filter fun k => k.uid = u.roll.uid
/-- Answers DRAINs that wait at an array (R264). -/
def State.endDrains (s : State) (t : TileNo) (p : DrainOp → Bool) (status : Nat) : State :=
  let r := (s.tile t).roll
  (r.drains.filter p).foldl (fun s d => s.resolve d.tile d.st d.id [BitVec.ofNat 4096 status]) (s.modRoll t fun r => { r with drains := r.drains.filter fun d => !p d })
/-- A released roll (R245, R248): its epoch, its claim, and the state FORMING. Demands of earlier rolls that no queue has taken, and FEEDs on their
way, stay with the array (R251, R263); a DRAIN that waits there for the roll of a saved unit meets another epoch now (R264). -/
def State.startRoll (s : State) (t : TileNo) (k : Task) : State :=
  let s := s.endDrains t (fun _ => true) 2
  let u := s.tile t
  let rec_ := k.record
  let rows := s.paramRows t rec_
  let r : Roll :=
    { acc := k.acc, uid := k.uid, demands := u.roll.demands, feeds := u.roll.feeds, launch := u.launchNo, p0 := rec_.p0, p1 := rec_.p1, p2 := rec_.p2, rmv := rec_.rmv, rm := rec_.rm, epoch := BitVec.ofNat 8 u.epochs, state := 1
      pattern := rows.flatMap fun x => (List.range 16).map fun j => x.extractLsb' (32 * j) 32 }
  let s := s.modTile t fun u =>
    let u := { u with roll := r, epochs := u.epochs + 1, shadowFull := false }
    if bitAt rec_.p0 60 then { u with claim1 := some k.acc } else { u with claim0 := some k.acc }
  match s.readParams t rec_ with
  | (s, true) => s.endTask t k.acc cMEM_UNCORRECTABLE u.eclk
  | (s, false) =>
  match s.rollFault t k r with
  | some c => s.endTask t k.acc c u.eclk
  | none => s.post { op := .groupForm, ev := { id := r.bus } }
/-- Tiles with a roll FORMING on a bus for a launch. -/
def State.forming (s : State) (bus launch : Nat) : List TileNo :=
  (s.tiles.filter fun p => p.2.roll.state = 1 && p.2.roll.bus = bus && p.2.roll.launch = launch && p.2.rollTask.isSome && p.2.roll.stopping.isNone && !p.2.preemptReq
    && p.2.unit.any fun (x : UnitRes) => x.launch = launch).map fun p => BitVec.ofNat 8 p.1
/-- Whether the members forming are as many distinct ones as the group has. -/
def State.complete (s : State) (ts : List TileNo) : Bool :=
  ts.any fun t => (s.tile t).roll.gsize ≤ (ts.map fun x => (s.tile x).roll.member).eraseDups.length
/-- A Peal record of a roll (R388). -/
def State.pealRoll (s : State) (t : TileNo) (event : Nat) : State :=
  let r := (s.tile t).roll
  let seq := ((s.tile t).task r.acc).map fun k => k.seq.toNat
  s.pealTile t 4 event r.launch (seq.getD 0 + r.step % 2 ^ 16 * 2 ^ 48 + r.beats % 2 ^ 32 * 2 ^ 64 + r.miss % 2 ^ 32 * 2 ^ 96)
/-- Schedules beat `n` of a bus, whose clock is `c`, and its decision point (R250). The group's first tile stands for it while it is frozen (R336). -/
def State.schedBeat (s : State) (bus n c : Nat) : State :=
  let t := (s.bus bus).members.headD 0
  let r := (s.tile t).roll
  let s := if r.lead ≤ n || 6 < c - s.clock then s.atClock (c - 6) { op := .decisionPoint, ev := { tile := t, id := bus, num := n } } else s
  s.atClock c { op := .beat, ev := { tile := t, id := bus, num := n } }
/-- What a resumed member raises again (R259): demands raised and not completely served; in the coda only drains (R256). -/
def Roll.again (r : Roll) (t : TileNo) : List (TileNo × Word) :=
  (if r.state = 3 then []
    else (r.oTargets.filter fun p => r.step ≤ p.1 && !(r.slots.any fun o => o.step = p.1 && o.rows.length = r.srows)).map (fun p => (p.2, r.word t 0 p.1 r.srows))
      ++ (r.wTargets.drop r.wDelivered).map fun p => (p.2, r.word t 1 p.1 r.srows))
    ++ (r.dTargets.filter fun p => !r.drained.contains p.1).map (fun p => (p.2, r.word t 2 p.1 r.srows))
/-- Raises them, to be offered 2 clocks later. -/
def State.raiseAgain (s : State) (t : TileNo) : State :=
  let back := (s.tile t).roll.again t
  let s := s.modRoll t fun r => { r with demands := r.demands ++ back.map fun p => { due := (s.tile t).eclk + 2, launch := r.launch, tile := p.1, word := p.2 : Demand } }
  if back = [] then s else s.atClock (s.clock + 2) { op := .demandAppend, ev := { tile := t } }
/-- GROUP_FORM (R249, R259): the group of the bus forms, or its members differ and fail and the bus is free for another launch's. -/
def execGroupForm (s : State) : Out :=
  let n := s.ev.id
  if (s.bus n).formed then .next s
  else match findFrom (fun l => s.complete (s.forming n l)) 0 s.nextLaunch with
    | none => .next s
    | some l =>
      let ts := s.forming n l
      let r0 := (s.tile (ts.headD 0)).roll
      let same := ts.all fun t => let r := (s.tile t).roll; bits r.p0 31 0 = bits r0.p0 31 0 && r.plen = r0.plen && bits r.p1 19 0 = bits r0.p1 19 0
      let distinct := (ts.map fun t => (s.tile t).roll.member).eraseDups.length = ts.length
      if !same || !distinct then .next ((ts.foldl (fun s t => s.endTask t (s.tile t).roll.acc cBADPARAM (s.tile t).eclk) s).post { op := .groupForm, ev := { id := n } })
      else
        let s := s.modBus n fun _ => { launch := l, members := ts, formed := true, beat := r0.beats, coda := ts.any fun t => (s.tile t).roll.coda }
        let s := ts.foldl (fun s t => ((s.modRoll t fun r => { r with state := 2, coda := false }).raiseAgain t).pealRoll t 0) s
        .next (s.schedBeat n r0.beats (s.clock + 8))

/-! ## Demands (R251, R254, R262) -/

/-- A member's next demand of a kind, if it exists for the step. -/
def Roll.raiseOne (r : Roll) (t : TileNo) (due kind step : Nat) : Roll :=
  match kind with
  | 0 => { r with raisedO := step + 1, nO := r.nO + 1, oTargets := r.oTargets ++ [(step, targetOf t r.opranks r.nO)]
                  demands := r.demands ++ [{ due := due, launch := r.launch, tile := targetOf t r.opranks r.nO, word := r.word t 0 step r.srows }] }
  | 1 =>
    if r.needsW step then
      { r with raisedW := step + 1, nW := r.nW + 1, wTargets := r.wTargets ++ [(step, targetOf t r.wranks r.nW)]
               demands := r.demands ++ [{ due := due, launch := r.launch, tile := targetOf t r.wranks r.nW, word := r.word t 1 step r.srows }] }
    else { r with raisedW := step + 1 }
  | _ =>
    if r.needsD step then
      { r with raisedD := step + 1, nD := r.nD + 1, dTargets := r.dTargets ++ [(step, targetOf t r.drranks r.nD)]
               demands := r.demands ++ [{ due := due, launch := r.launch, tile := targetOf t r.drranks r.nD, word := r.word t 2 step r.srows }] }
    else { r with raisedD := step + 1 }
/-- Raises the demands of a kind for the steps below `upto`. -/
def Roll.raiseTo (r : Roll) (t : TileNo) (due kind upto : Nat) : Roll :=
  let first := match kind with | 0 => r.raisedO | 1 => r.raisedW | _ => r.raisedD
  (List.range (min upto r.nsteps - first)).foldl (fun r i => r.raiseOne t due kind (first + i)) r
/-- Demands raised at the start of a beat; `s` is the next step to compute, plus LEAD (R251). -/
def Roll.raiseAll (r : Roll) (t : TileNo) (due s : Nat) : Roll :=
  ((r.raiseTo t due 0 (s + r.laop + 1 - r.lead)).raiseTo t due 1 (s + r.law + 1 - r.lead)).raiseTo t due 2 (s + r.ladr + 1 - r.lead)
/-- Changes a roll by what it raises, and offers that 2 clocks later. -/
def State.raise (s : State) (t : TileNo) (f : Nat → Roll → Roll) : State :=
  let due := (s.tile t).eclk + 2
  let n := (s.tile t).roll.demands.length
  let s := s.modRoll t (f due)
  if (s.tile t).roll.demands.length = n then s else s.atClock (s.clock + 2) { op := .demandAppend, ev := { tile := t } }
/-- Offers a demand to its tile: accepted when the queue takes it and a unit of the launch is resident (R251); at a frozen tile it waits (R336). -/
def State.offer (s : State) (d : Demand) : Option State :=
  let u := s.tile d.tile
  if !u.frozen && (u.unit.any fun x => x.launch = d.launch) && u.qTakes 2 1 then some (s.modTile d.tile fun u => { u with demandQ := u.demandQ ++ [d.word], queueAdded := true })
  else none
/-- DEMAND_APPEND (R251): offers the due demands in order; a tile that refuses one keeps back those behind it. Those of a launch that is over go. -/
def execDemandAppend (s : State) : Out :=
  let t := s.ev.tile
  let u := s.tile t
  let x := (u.roll.demands.filter fun d => (s.launch d.launch).status = 0).foldl (fun (a : State × List Demand) d =>
    if u.eclk < d.due || a.2.any fun e => e.tile = d.tile then (a.1, a.2 ++ [d])
    else match a.1.offer d with
      | some s => (s, a.2)
      | none => (a.1, a.2 ++ [d])) (s, [])
  let s := x.1.modRoll t fun r => { r with demands := x.2 }
  if (x.2.any fun d => d.due ≤ u.eclk) && !(s.waiters.any fun w => w.op = .demandAppend && w.ev.tile = t) then .next (s.retry .demandAppend) else .next s
/-- DEMAND (R262). -/
def execDemand (d : Reg) (try_ : Bool) (s : State) : Out :=
  s.guardI onCF [] [.x d] fun s =>
    match s.me.demandQ with
    | w :: ws => ((s.modMe fun u => { u with demandQ := ws }).answer d w).done
    | [] => if try_ then (s.answer d 0).done else s.stall rDEMAND_WAIT

/-! ## The ending of a member (R255 to R258) -/

/-- Steps whose drains are owed and not yet written. -/
def Roll.owes (r : Roll) : Bool := (List.range r.step).any fun s => r.needsD s && !r.drained.contains s
/-- A member whose pipeline is empty ends, if it is at its end; `at_` is the engine clock of the end. -/
def State.rollSettle (s : State) (t : TileNo) (at_ : Nat) : State :=
  let r := (s.tile t).roll
  match (s.tile t).rollTask with
  | none => s
  | some k =>
    if r.pipe ≠ [] then s
    else if k.cancel then (if r.state = 2 && r.stopping.isNone then s else s.post { op := .taskCancelStop, ev := { tile := t, id := r.acc } })
    else match r.stopping with
      | some c => s.endTask t r.acc c at_
      | none => if r.state = 3 && !r.owes then s.endTask t r.acc 0 at_ else s
/-- A member whose pass or write faults fails then (R229, R237, R264, R363), and its group has lost it (R258). -/
def State.rollBreak (s : State) (t : TileNo) (c : BitVec 16) : State :=
  let r := (s.tile t).roll
  let s := if (s.bus r.bus).formed && (s.bus r.bus).members.contains t then s.modBus r.bus fun b => { b with lost := true } else s
  s.endTask t r.acc (r.stopping.getD c) (s.tile t).eclk
/-- A member stops with a fault once its pipeline is empty (R255, R258). -/
def State.rollFail (s : State) (t : TileNo) (c : BitVec 16) : State :=
  (s.modRoll t fun r => { r with stopping := some (r.stopping.getD c) }).rollSettle t (s.tile t).eclk
/-- The member's task fails in this clock when its pipeline is empty already (R179, R255). -/
def State.failNow (s : State) (t : TileNo) : State :=
  match (s.tile t).task (s.tile t).roll.acc with
  | some k => if k.ended.any (· ≠ 0) && k.endAt ≤ (s.tile t).eclk then { s with agenda := { op := .taskFail, ev := { tile := t, id := k.acc } } :: s.agenda } else s
  | none => s
/-- The members of a bus that are not yet in the coda. -/
def State.rollers (s : State) (b : Bus) : List TileNo := b.members.filter fun t => (s.tile t).roll.state = 2
/-- A member enters the coda (R256, R257): it owes only the drains of steps computed. -/
def State.enterCoda (s : State) (t : TileNo) : State :=
  let s := s.modRoll t fun r => { r with state := 3 }
  let s := s.raise t fun due r => r.raiseTo t due 2 r.step
  let s := s.endDrains t (fun d => (s.tile t).roll.step ≤ d.step) 2
  (s.pealRoll t 2).rollSettle t ((s.tile t).eclk)
/-- ROLL_STOP: a roll has just left the window with state `num` and code `aux` (R251, R253, R256, R258, R267); `id` is its task's own number. -/
def execRollStop (s : State) : Out :=
  let t := s.ev.tile
  let r := (s.tile t).roll
  if r.uid ≠ s.ev.id then .next s
  else
    let st : BitVec 3 := if s.ev.num = 4 then 4 else if s.ev.num = 6 then 7 else if s.ev.aux = cSTARVED.toNat then 5 else 6
    let s := s.endDrains t (fun _ => true) 2
    let s := s.modRoll t fun r => { r with state := st, drSlots := [], pipe := [], late := [] }
    let s := s.raise t fun due r =>
      { r with demands := r.demands ++ (ranksOf (r.opranks ||| r.wranks ||| r.drranks)).map fun i =>
          { due := due, launch := r.launch, tile := tileAt (clusterOf t) i, word := r.word t 3 0 0 : Demand } }
    let b := s.bus r.bus
    if !(b.formed && b.members.contains t) then .next s
    else
      let left := b.members.filter fun x => x ≠ t
      let s := s.modBus r.bus fun b => { b with members := left, lost := b.lost || st ≠ 4, formed := left ≠ [] }
      .next (if left = [] then s.post { op := .groupForm, ev := { id := r.bus } } else s)

/-! ## Decision points and beats (R250, R251, R254, R255, R257 to R259) -/

/-- Whether the stripe of a step is present (R252). -/
def Roll.present (r : Roll) (s : Nat) : Bool := let o : OpSlot := r.slots.getD (s % 2) {}; o.step = s && o.rows.length = r.srows && r.srows ≠ 0
/-- Drain slots in use at an engine clock (R253). -/
def Roll.drUsed (r : Roll) (now : Nat) : List DrainSlot := r.drSlots.filter fun d => match d.doneAt with | some c => now ≤ c | none => true
/-- Whether a member is ready for step `s` (R254); `lost` members are not. -/
def Tile.rollReady (u : Tile) : Bool :=
  let r := u.roll
  r.present r.step && (!r.needsW r.step || u.shadowFull) && (!r.needsD r.step || (r.drUsed u.eclk).length < 2)
/-- The reminders a member sends for what leaves it unready (R254). -/
def Tile.reminders (u : Tile) (t : TileNo) : List (TileNo × Word) :=
  let r := u.roll
  let s := r.step
  (if r.present s then [] else (r.oTargets.filter fun p => p.1 = s).map fun p => (p.2, lateWord (r.word t 0 s r.srows)))
    ++ (if !r.needsW s || u.shadowFull then [] else (r.wTargets.filter fun p => p.1 = s).map fun p => (p.2, lateWord (r.word t 1 s r.srows)))
    ++ (if !r.needsD s || (r.drUsed u.eclk).length < 2 then []
        else ((r.drUsed u.eclk).filter fun d => !(r.drains.any fun o => o.step = d.step) && d.doneAt.isNone).flatMap fun d =>
          (r.dTargets.filter fun p => p.1 = d.step).map fun p => (p.2, lateWord (r.word t 2 d.step r.srows)))
/-- DECISION_POINT of beat `num` (R254, R255, R257, R259). Its late part decides: an item complete in the decision clock counts (R250); a CODA that
arrives in that clock does not (R257), so the clock's begin notes in `w0` whether the group is in its coda. -/
def execDecisionPoint (s : State) : Out :=
  if !s.late then .next (s.postLate { op := .decisionPoint, ev := { s.ev with w0 := ofBool (s.bus s.ev.id).coda } })
  else
  let n := s.ev.id
  let b := s.bus n
  let ms := s.rollers b
  let r := (s.tile (ms.headD 0)).roll
  if !b.formed || b.beat ≠ s.ev.num || ms = [] || r.step = r.nsteps then .next s
  else if s.ev.w0 = 1 then .next (s.modBus n fun b => { b with kind := .coda })
  else if ms.all fun t => (s.tile t).preemptReq then .next (s.modBus n fun b => { b with kind := .stop })
  else if s.ev.num < r.lead then .next (s.modBus n fun b => { b with kind := .rest })
  else if ms.all (fun t => (s.tile t).rollReady) && !b.lost then .next (s.modBus n fun b => { b with kind := .compute })
  else if r.restlim < r.rests + 1 && !b.lost then
    .next (ms.foldl (fun s t => (s.rollFail t cSTARVED).failNow t) (s.modBus n fun b => { b with kind := .starved }))
  else .next (ms.foldl (fun s t => s.modRoll t fun r => { r with late := (s.tile t).reminders t }) (s.modBus n fun b => { b with kind := .rest }))
/-- The weights that a member computes its next step with: a swap that the step requires happens first (R250, R252). -/
def State.rollSwap (s : State) (t : TileNo) : State :=
  if (s.tile t).roll.needsW (s.tile t).roll.step then s.modTile t fun u => { u with planeA := u.planeS, planeS := {}, shadowFull := false } else s
/-- What fails a member at a computing beat: a bad pair of a sparse tile (R229), or an accumulator row that cannot be read (R363). -/
def State.stripeFault (s : State) (t : TileNo) : State × Option (BitVec 16) :=
  let r := (s.tile t).roll
  let e := r.entry r.step
  let row0 := (if bitAt r.p0 60 then 128 else 0) + bits e 6 0
  if (s.tile t).planeA.bad.any fun g => g / 256 < r.nlen && g % 256 < r.klen then (s, some cBADPARAM)
  else if eZr e then (s, none)
  else match s.readOwn t ((List.range r.srows).map fun i => eccAcc (row0 + i)) with
    | (s, true) => (s, some cMEM_UNCORRECTABLE)
    | (s, false) => (s, none)
/-- A computing beat of a member (R247, R250, R252, R253). -/
def State.stripe (s : State) (t : TileNo) : State :=
  let u := s.tile t
  let r := u.roll
  let e := r.entry r.step
  let n := r.step
  match (s.rollSwap t).stripeFault t with
  | (s, some c) => s.rollBreak t c
  | (s, none) =>
  let w := (s.tile t).planeA
  let o : OpSlot := r.slots.getD (n % 2) {}
  let row0 := (if bitAt r.p0 60 then 128 else 0) + bits e 6 0
  let res := (List.range r.srows).map fun i =>
    accRowStep w r.la r.pa r.klen r.nlen (fun j => (Map.get 0 o.elems (256 * i + j)).toInt) (fun q => (Map.get 0 o.scales (256 * i + q)).toNat)
      (if eZr e then 0 else u.accAt (row0 + i))
  let pipe : List PipeRow := res.zipIdx.map fun x => { row := row0 + x.2, value := x.1.1, step := n, idx := x.2, drain := eDr e }
  let s := s.modTile t fun u =>
    { u with acc := pipe.foldl (fun c p => Map.set c p.row p.value) u.acc, ecc := pipe.foldl (fun c p => Map.del c (eccAcc p.row)) u.ecc }
  let s := s.modTask t r.acc fun k => { k with flags := res.foldl (fun f x => f ||| x.2) k.flags }
  let s := s.modRoll t fun r =>
    { r with
      pipe := r.pipe ++ pipe
      slots := r.slots.set (n % 2) { step := n + 2, freeAt := u.eclk + enterAt r.pa w.prec (r.srows - 1) }
      drSlots := if eDr e then r.drUsed u.eclk ++ [{ step := n : DrainSlot }] else r.drSlots
      step := n + 1, rests := 0 }
  (List.range r.srows).foldl (fun s i => s.atClock (s.clock + enterAt r.pa w.prec i + 136) { op := .rowFinal, ev := { tile := t, id := r.acc, num := n, aux := i } }) s
/-- BEAT `num` of bus `id` (R250, R251, R254, R256 to R259). A group that pre-emption stops leaves the bus to one that waits (R249) and takes a CODA
that came after the decision with it (R257). -/
def execBeat (s : State) : Out :=
  let n := s.ev.id
  let b := s.bus n
  let ms := s.rollers b
  let r := (s.tile (ms.headD 0)).roll
  if !b.formed || b.beat ≠ s.ev.num || ms = [] then .next s
  else if b.lost then .next (ms.foldl (fun s t => s.rollFail t cGROUP_LOST) s)
  else if b.kind = .starved then .next s
  else if b.kind = .stop then
    .next ((ms.foldl (fun s t => s.modRoll t fun r => { r with state := 1, coda := b.coda }) (s.modBus n fun b => { b with formed := false, members := [] })).post
      { op := .groupForm, ev := { id := n } })
  else if r.step = r.nsteps || b.kind = .coda then .next (ms.foldl (fun s t => s.enterCoda t) s)
  else
    let leadIn := b.beat < r.lead
    let compute := !leadIn && b.kind = .compute
    let s := ms.foldl (fun s t =>
      let s := s.raise t fun due r => r.raiseAll t due (if leadIn then b.beat else r.step + r.lead)
      let s := if compute then s.stripe t
        else if leadIn then s
        else
          let late := (s.tile t).roll.late.filter fun p => !((s.tile p.1).demandQ.contains p.2) && !((s.tile t).roll.demands.any fun d => (d.tile, d.word) = p)
          ((s.raise t fun due r =>
            { r with miss := min (r.miss + 1) (2 ^ 32 - 1), rests := r.rests + 1, late := [],
                                 demands := r.demands ++ late.map fun p => { due := due, launch := r.launch, tile := p.1, word := p.2 : Demand } }).pealRoll t 1).countAt t 6 1
      s.modRoll t fun r => { r with beats := r.beats + 1 }) s
    let s := s.modBus n fun b => { b with beat := b.beat + 1, kind := .rest, beatAt := some s.clock }
    .next (s.schedBeat n (b.beat + 1) (s.clock + r.period))

/-! ## Rows final, captured and drained (R236, R253, R264) -/

/-- ROW_FINAL of a roll: the row leaves the pipeline, captured where its step drains. -/
def State.rollRowFinal (s : State) (t : TileNo) (n i : Nat) : State :=
  let r := (s.tile t).roll
  match r.pipe.find? fun p => p.step = n && p.idx = i with
  | none => s
  | some p =>
    let s := s.modRoll t fun r =>
      { r with
        pipe := r.pipe.filter fun q => !(q.step = n && q.idx = i)
        drSlots := if p.drain then r.drSlots.map fun d => if d.step = n then { d with captured := Map.set d.captured i p.value } else d else r.drSlots }
    let s := match r.drains.find? fun d => d.step = n with
      | some d => if p.drain then s.postFirst { op := .rollDrainWrite, ev := { tile := t, id := d.id } } else s
      | none => s
    s.rollSettle t ((s.tile t).eclk + 1)
/-- ROW_FINAL (R236): of the MATMUL or the roll that the tile's array holds. -/
def execRowFinal (s : State) : Out :=
  let t := s.ev.tile
  let u := s.tile t
  if u.mat.any fun m => m.acc = s.ev.id then .next (s.matRowFinal t s.ev.id s.ev.num s.ev.aux)
  else if u.roll.acc = s.ev.id then .next (s.rollRowFinal t s.ev.num s.ev.aux)
  else .next s
/-- WEIGHT_LOAD_COMPLETE (R236, R241, R252): the tile is in the shadow plane. -/
def execWeightLoadComplete (s : State) : Out :=
  match (s.tile s.ev.tile).wload with
  | some w => .next (s.modTile s.ev.tile fun u => { u with wload := none, planeS := w.plane, shadowFull := w.isTask || w.roll })
  | none => .next s

/-- A bank as one run of elements from its first row. -/
def State.bankSide (s : State) (a : Nat) : Side :=
  let f := s.fmtAt a
  { h := { fmt := bits f 4 0, scaled := bitAt f 23, blk := bits f 22 21, layout := bitAt f 20, dims := 1, ext0 := 2 ^ 21 }, base := bankBase a }
/-- Rows of a bank that hold elements (R57). -/
def State.dataRows (s : State) (a : Nat) : Nat := if bitAt (s.fmtAt a) 23 then bits (s.fmtAt a) 19 7 else 4096
/-- The element whose first bit an address names: none when it names none (R55, R56, R263). -/
def State.elemNo (s : State) (a : Nat) : Option Nat :=
  let x := s.bankSide a
  let off := a - bankBase a
  if x.h.layout then (if off / 64 % x.h.planes = 0 then some (512 * (off / 64 / x.h.planes) + off % 64 * 8) else none)
  else if off * 8 % container x.h.fmt = 0 then some (off * 8 / container x.h.fmt) else none
/-- Elements that a bank's data rows hold. -/
def State.elemCap (s : State) (a : Nat) : Nat :=
  let x := s.bankSide a
  if x.h.layout then s.dataRows a / x.h.planes * 512 else s.dataRows a * 512 / container x.h.fmt
/-- ROLL_DRAIN_WRITE (R264): one row per clock of the DRAIN numbered `id`; of several DRAINs of one step the first to come serves it. A write that
faults, or that meets an uncorrectable error, fails the roll, and the DRAIN returns ENDED. -/
def State.rollDrainWrite (s : State) : State :=
  let t := s.ev.tile
  let u := s.tile t
  let r := u.roll
  match r.drains.find? fun d => d.id = s.ev.id with
  | none => s
  | some d =>
    match r.drSlots.find? fun x => x.step = d.step && x.doneAt.isNone with
    | none => s
    | some x =>
      if r.drains.any fun e => e.step = d.step && e.id < d.id then s
      else if d.lastAt = some u.eclk then s.retry .rollDrainWrite
      else match Map.find x.captured x.written with
        | none => s
        | some v =>
          let b := s.bankSide d.addr
          let n0 := (s.elemNo d.addr).getD 0 + x.written * d.pitch
          let rec_ : TaskRec := { rmv := r.rmv, rm := r.rm }
          let o := s.drainTo rec_ b n0 0 r.nlen v
          match (match s.sFault d.tile d.addr with
            | some c => (s, some c)
            | none => match s.readPart t (o.rows ++ o.scales) with
              | (s, true) => (s, some cMEM_UNCORRECTABLE)
              | (s, false) => (s, none)) with
          | (s, some c) => ((s.endDrains t (fun e => e.step = d.step) 2).rollBreak t c)
          | (s, none) =>
          let s := s.engineWrite (o.rows ++ o.scales)
          let s := s.fillList (((o.rows ++ o.scales).map fun w => w.1 / 16).eraseDups)
          let s := s.modTask t r.acc fun k => { k with flags := k.flags ||| o.flags }
          if x.written + 1 = r.srows then
            let s := s.modRoll t fun r =>
              { r with drained := d.step :: r.drained, drains := r.drains.filter fun e => e.id ≠ d.id
                       drSlots := r.drSlots.map fun y => if y.step = d.step then { y with written := r.srows, doneAt := some u.eclk } else y }
            let s := s.endDrains t (fun e => e.step = d.step) 1
            let s := s.modStrmOf d.tile d.st fun z => { z with awaits := z.awaits.map fun a => if a.id = d.id then { a with vals := [0], ready := true } else a }
            ((s.atClock (s.clock + 1) { op := .interlockedResult, ev := { tile := d.tile, st := d.st, id := d.id } }).rollSettle t (u.eclk + 1))
          else
            ((s.modRoll t fun r =>
              { r with drSlots := r.drSlots.map fun y => if y.step = d.step && y.doneAt.isNone then { y with written := y.written + 1 } else y
                       drains := r.drains.map fun e => if e.id = d.id then { e with lastAt := some u.eclk } else e }).atClock (s.clock + 1)
                { op := .rollDrainWrite, ev := { tile := t, id := d.id } })
/-- ROLL_DRAIN_WRITE, which gives way to a stream at a bank (R17). -/
def execRollDrainWrite (s : State) : Out := s.giveWay .rollDrainWrite s.rollDrainWrite

/-! ## FEED and DRAIN (R260, R263, R264) -/

/-- What ends FEED or DRAIN of a step early: a different epoch, a roll that has left, or a step behind the coda. -/
def Roll.isOver (r : Roll) (epoch : BitVec 8) (step : Nat) : Bool := r.epoch ≠ epoch || !(r.state = 1 || r.state = 2 || r.state = 3) || (r.state = 3 && r.step ≤ step)
/-- The checks FEED and DRAIN share: faults of R49 for the address, then ILLEGAL_USE. -/
def State.withDemand (s : State) (w : Word) (kind : Nat) (bad : Bool) (a : Nat) (k : State → Out) : Out :=
  match s.sFault s.ct a with
  | some c => s.trapAddr c (BitVec.ofNat 64 a)
  | none =>
    if bits w 63 62 ≠ kind || bad || clusterOf (BitVec.ofNat 8 (bits w 7 0)) ≠ clusterOf s.ct || clusterOf (keyTile a) ≠ clusterOf s.ct then s.trap cILLEGAL_USE
    else k s
/-- The rows that a run of elements occupies, in rows beyond the first. -/
def Side.extraRows (b : Side) (n len : Nat) : Nat :=
  if b.h.layout then b.h.planes * ((n + len - 1) / 512 - n / 512 + 1) - 1
  else (rowOf ((b.h.packedAt b.base (n + len - 1) 0 0).1 + (container b.h.fmt - 1) / 8) - rowOf (b.h.packedAt b.base n 0 0).1) / 64
/-- FEED. -/
def execFeed (d a b : Reg) (s : State) : Out :=
  s.guardI onCF [.x a, .x b] [.x d] fun s =>
    let w := s.x a
    let addr := bits (s.x b) 31 0
    let t : TileNo := BitVec.ofNat 8 (bits w 7 0)
    s.withDemand w 0 (bits w 39 32 ≤ bits w 31 24) addr fun s =>
      let r := (s.tile t).roll
      let f := s.fmtAt addr
      let x := s.bankSide addr
      match s.elemNo addr with
      | none => s.trap cFORMAT_MISMATCH
      | some n =>
        if bits f 4 0 ≠ r.afmt || !bitAt f 23 || bits f 22 21 ≠ r.ablk || n % r.la ≠ 0 || s.elemCap addr < n + r.klen then s.trap cFORMAT_MISMATCH
        else if !s.cur.marked then s.stall rMARK
        else let rows := (List.range (x.extraRows n r.klen + 1)).map (fun i => rowOf addr + 64 * i)
            ++ ((List.range (ceilDiv r.klen r.la)).map fun q => rowOf (s.scaleAt x.h x.base (n + q * r.la) 0 0)).eraseDups
        s.gated rows fun s => match s.readRows s.ct rows with
        | (s, true) => s.lostRead addr
        | (s, false) =>
          let id := s.nextId
          let op : FeedOp :=
            { id := id, step := bits w 55 40, row := bits w 31 24, epoch := BitVec.ofNat 8 (bits w 23 16), tile := s.ct, st := s.cs
              elems := (List.range r.klen).filterMap fun j => let y := BitVec.ofInt 16 (x.readAt s t r.pa (n + j, 0, 0)); if y = 0 then none else some (j, y)
              scales := (List.range (ceilDiv r.klen r.la)).filterMap fun q => let e := s.scaleByte t x (n + q * r.la, 0, 0); if e = 0 then none else some (q, e) }
          let s := s.awaitX d
          let s := s.modRoll t fun r => { r with feeds := r.feeds ++ [op] }
          (s.atClock (s.clock + (if keyTile addr = s.ct then 4 else 8) + x.extraRows n r.klen) { op := .feedStage, ev := { tile := t, id := id } }).done
/-- FEED_STAGE (R252, R263): the row is staged, refused, or waits for its slot, or for the resumption of the unit whose roll it feeds (log entry 49). -/
def execFeedStage (s : State) : Out :=
  let t := s.ev.tile
  let u := s.tile t
  let r := u.roll
  match r.feeds.find? fun f => f.id = s.ev.id with
  | none => .next s
  | some f =>
    let o : OpSlot := r.slots.getD (f.step % 2) {}
    let answer (s : State) (v : Nat) : State := (s.modRoll t fun r => { r with feeds := r.feeds.filter fun g => g.id ≠ f.id }).resolve f.tile f.st f.id [BitVec.ofNat 4096 v]
    if r.isOver f.epoch f.step then .next (answer s 2)
    else if u.rollTask.isNone then .next (s.retry .feedStage)
    else if f.step < r.step || (o.step = f.step && (o.rows.contains f.row || r.present f.step)) then .next (answer s 1)
    else if (2 ≤ f.step && r.step + 1 < f.step) || u.eclk < o.freeAt then .next (s.retry .feedStage)
    else
      let o : OpSlot := if o.step = f.step then o else { step := f.step, freeAt := o.freeAt }
      let o := { o with
        rows := insertNat f.row o.rows
        elems := f.elems.foldl (fun m p => Map.set m (256 * f.row + p.1) p.2) o.elems
        scales := f.scales.foldl (fun m p => Map.set m (256 * f.row + p.1) p.2) o.scales }
      .next (answer (s.modRoll t fun r => { r with slots := r.slots.set (f.step % 2) o }) 0)
/-- DRAIN. -/
def execDrain (d a b : Reg) (s : State) : Out :=
  s.guardI onCF [.x a, .x b] [.x d] fun s =>
    let w := s.x a
    let addr := bits (s.x b) 31 0
    let pitch := bits (s.x b) 55 32
    let t : TileNo := BitVec.ofNat 8 (bits w 7 0)
    s.withDemand w 2 false addr fun s =>
      let r := (s.tile t).roll
      let x := s.bankSide addr
      match s.elemNo addr with
      | none => s.trap cFORMAT_MISMATCH
      | some n =>
        let bl := blkLen x.h.blk
        if x.h.fmt = 0 || elemOf x.h.fmt = .reserved || x.h.layout || (x.h.scaled && (n % bl ≠ 0 || pitch % bl ≠ 0 || r.nlen % bl ≠ 0))
            || s.elemCap addr < n + (bits w 39 32 - 1) * pitch + r.nlen then s.trap cFORMAT_MISMATCH
        else if !s.cur.marked then s.stall rMARK
        else
          let id := s.nextId
          let step := bits w 55 40
          let s := s.awaitX d
          if r.isOver (BitVec.ofNat 8 (bits w 23 16)) step then (s.resolve s.ct s.cs id [2]).done
          else if r.drained.contains step then (s.resolve s.ct s.cs id [1]).done
          else
            ((s.modRoll t fun r => { r with drains := r.drains ++ [{ id := id, step := step, addr := addr, pitch := pitch, tile := s.ct, st := s.cs : DrainOp }] }).atClock
              (s.clock + 1) { op := .rollDrainWrite, ev := { tile := t, id := id } }).done

/-! ## CODA, ROLLSTAT, WLOAD (R241, R257, R265 to R267) -/

/-- CODA (R266). -/
def execCoda (a : Reg) (s : State) : Out :=
  s.guard onCF [.x a] fun s =>
    let t : TileNo := BitVec.ofNat 8 (bits (s.x a) 7 0)
    match s.tileFault s.ct t with
    | some c => s.trap c
    | none =>
      let r := (s.tile t).roll
      (if r.state = 2 && (s.bus r.bus).formed then s.modBus r.bus fun b => { b with coda := true } else s).done
/-- What ROLLSTAT reads of a roll with a selector (R267). -/
def Roll.stat (r : Roll) (sel : Nat) : Word :=
  BitVec.ofNat 64 (match sel with
    | 0 => r.state.toNat + r.epoch.toNat * 2 ^ 8 + r.member * 2 ^ 16
    | 1 => r.beats
    | 2 => r.step
    | 3 => r.miss
    | _ => r.rests)
/-- ROLLSTAT (R267). -/
def execRollstat (d a : Reg) (sel : BitVec 3) (s : State) : Out :=
  s.guardI onCF [.x a] [.x d] fun s =>
    let t : TileNo := BitVec.ofNat 8 (bits (s.x a) 7 0)
    if 4 < sel.toNat then s.trap cILLEGAL_ENCODING
    else match s.tileFault s.ct t with
      | some c => s.trap c
      | none =>
        (s.answer d ((s.tile t).roll.stat sel.toNat)).done

/-- A handle's current version, with its first plane of dimensions 0 and 1 as the box, in the format that its bank has now. -/
def State.handleSide (s : State) (h : Handle) : Side :=
  { h := s.liveShape h.shape h.cur, base := h.cur, iv := { l0 := 0, h0 := h.shape.ext 0, l1 := 0, h1 := h.shape.ext 1, l2 := 0, h2 := 1 } }
/-- WLOAD to a tile's array (R241, R265). Its rows are read as a stream's: a fault of R49 traps, after an uncorrectable error nothing is loaded
(R363), it waits for a frozen tile (R336), and a channel's row at or above WM keeps it waiting or traps (R295). -/
def State.wloadTo (s : State) (t : TileNo) (remote : Bool) (w : Word) : Out :=
  s.withRecord w 1 fun rs s =>
    let r := rs.headD 0
    let sparse := bitAt r 27
    let bh := bits r 11 0
    let mh := bits r 23 12
    let k0 := bits r 55 32
    let n0 := bits r 79 56
    match s.me.handle bh, (if sparse then s.me.handle mh else some {}) with
    | some hb, some hm =>
      let b := s.handleSide hb
      let m := s.handleSide hm
      if bits r 511 80 ≠ 0 || bits r 31 28 ≠ 0 || (mh ≠ 0 && !sparse) then s.trap cILLEGAL_USE
      else if b.h.space ≠ 0 || (sparse && m.h.space ≠ 0) then s.trap cILLEGAL_USE
      else
        let p := readPrec b.h.fmt (bits r 26 24)
        if !b.h.scaledMx || (sparse && m.h.fmt ≠ 0) || p.isNone || k0 % blkLen b.h.blk ≠ 0 then s.trap cFORMAT_MISMATCH
        else if b.h.ext 0 < k0 + 128 || b.h.ext 1 < n0 + 128 || (sparse && (m.h.ext 0 < k0 / 4 + 32 || m.h.ext 1 < n0 + 128)) then s.trap cHANDLE_RANGE
        else match (if remote then s.tileFault s.ct t else none) with
          | some c => s.trap c
          | none =>
            let u := s.tile t
            let roll := u.roll
            let load (s : State) (f : State → State) : Out :=
              match (if (s.sFault s.ct b.base).isSome || !sparse then s.sFault s.ct b.base else s.sFault s.ct m.base) with
              | some c => s.trapAddr c (BitVec.ofNat 64 (if (s.sFault s.ct b.base).isSome then b.base else m.base))
              | none =>
                if ([t, keyTile b.base] ++ if sparse then [keyTile m.base] else []).any fun x => x ≠ s.ct && (s.tile x).frozen then s.stall rINTERLOCK
                else s.gated (s.rectRows b k0 n0 128 128 (p.getD 2) ++ if sparse then s.rectRows m (k0 / 4) n0 32 128 8 else []) fun s =>
                match s.readTile s.ct b m k0 n0 128 128 (p.getD 2) sparse with
                | (s, some _) => s.lostRead b.base
                | (s, none) =>
                  let s := f s
                  let plane := s.loadTile s.ct b m k0 n0 128 128 (p.getD 2) sparse
                  let a : Act := { op := .weightLoadComplete, ev := { tile := t } }
                  let s := s.modTile t fun x => { x with wload := some { plane := plane, roll := u.rolling } }
                  (if keyTile b.base = t && (!sparse || keyTile m.base = t) then s.atClock (s.clock + b.loadClocks k0 n0 128 128 (p.getD 2) sparse) a else s.later a).done
            if u.rolling then
              if roll.state = 3 || roll.nW ≤ roll.wDelivered then s.trap cILLEGAL_USE
              else if sparse ≠ roll.sparse || roll.period < occupancy roll.pa (p.getD 2) roll.srows then s.trap cFORMAT_MISMATCH
              else if u.wload.isSome || u.shadowFull then s.stall rINTERLOCK
              else if !s.cur.marked then s.stall rMARK
              else load s fun s => s.modRoll t fun r => { r with wDelivered := r.wDelivered + 1 }
            else if remote then s.trap cILLEGAL_USE
            else if u.wload.isSome || u.released TaskRec.matmul then s.stall rINTERLOCK
            else if !s.cur.marked then s.stall rMARK
            else load s id
    | _, _ =>
      if bits r 511 80 ≠ 0 || bits r 31 28 ≠ 0 || (mh ≠ 0 && !sparse) then s.trap cILLEGAL_USE else s.trap cHANDLE_INVALID
def execWload (a : Reg) (s : State) : Out := s.guard onCF [.x a] fun s => s.wloadTo s.ct false (s.x a)
def execWloadR (a b : Reg) (s : State) : Out :=
  s.guard onCF [.x a, .x b] fun s => s.wloadTo (tileAt (clusterOf s.ct) (bits (s.x b) 2 0)) true (s.x a)

end Sys2Proof.Machine
end

