-- ==== Sys2Proof/Machine/Coll.lean ====
section
/-! DEFINITION. Collective groups and the collective sequencer: COLLDEF, COLL tasks, exchange, reduction order, commit, Knell
(R297 to R308). What the other members of a group do is free (log entry 6). -/
namespace Sys2Proof.Machine

/-! ## Groups (R297, R298) -/

/-- Group `n` of a context. -/
def State.group (s : State) (c n : Nat) : Group := Map.get {} (s.ctx c).groups n
/-- Changes a group. -/
def State.modGroup (s : State) (c n : Nat) (f : Group → Group) : State :=
  { s with ctxs := Map.set s.ctxs c { s.ctx c with groups := Map.set (s.ctx c).groups n (f (s.group c n)) } }
/-- Drops a group. -/
def State.dropGroup (s : State) (c n : Nat) : State := { s with ctxs := Map.set s.ctxs c { s.ctx c with groups := Map.del (s.ctx c).groups n } }
/-- GTIMEOUT in ns. -/
def gTimeout (d : Row) : Nat := bits d 255 224 * 1000
/-- SEALED of a group. -/
def gSealed (d : Row) : Bool := bitAt d 8
/-- The neighbours of this member in the group's spanning tree, in which member i > 0 has the parent floor((i - 1)/2) (R297). -/
def Group.neighbours (g : Group) : List Nat :=
  (if g.own = 0 then [] else [(g.own - 1) / 2]) ++ [2 * g.own + 1, 2 * g.own + 2].filter fun i => i < g.members.length
/-- Whether no path leads to a tree neighbour (R307). -/
def State.treeCut (s : State) (g : Group) : Bool := g.neighbours.any fun i => !s.reaches (g.members.getD i 0)
/-- The member table of a descriptor; none when MTAB does not translate. -/
def State.memberTable (s : State) (t : TileNo) (d : Row) (n : Nat) : Option (List Nat) :=
  (List.range n).mapM fun i => match s.gKey t (bits d 311 256 + 2 * i) true false, s.gKey t (bits d 311 256 + 2 * i + 1) true false with
    | .ok a, .ok b => some ((Mem.read s.mem a.key).toNat + 256 * (Mem.read s.mem b.key).toNat)
    | _, _ => none
/-- A member table that does not translate is reported with the first fault's subcause (R372). -/
def State.reportTable (s : State) (t : TileNo) (d : Row) (n : Nat) : State :=
  match (List.range (2 * n)).findSome? fun i => match s.gKey t (bits d 311 256 + i) true false with
      | .ok _ => none
      | .error sub => some sub with
  | some sub => s.report cTRANSLATION sub
  | none => s
/-- A descriptor's field out of range or reserved (R297). -/
def descBad (d : Row) : Bool :=
  let nax := bits d 10 9
  let a0 := bits d 21 11
  let a1 := bits d 32 22
  let a2 := bits d 43 33
  bits d 511 312 ≠ 0 || bits d 207 44 ≠ 0 || bits d 7 5 ≠ 0 || nax = 0 || bits d 255 224 = 0 || a0 = 0 || a1 = 0 || a2 = 0 || (nax < 2 && a1 ≠ 1)
    || (nax < 3 && a2 ≠ 1) || 1058 < a0 * a1 * a2
/-- The result of a failed COLLDEF. -/
def collError (n : Nat) : Word := BitVec.ofNat 64 (2 ^ 63 + n)
/-- The mark of a COLLDEF that waits for group `n`. -/
def collMark (n : Nat) : Nat := 2 ^ 102 + n
/-- The failure of a COLLDEF that needs no wait. -/
def State.collRefusal (s : State) (c : Nat) (d : Row) : Option Nat :=
  let n := bits d 21 11 * bits d 32 22 * bits d 43 33
  if 64 ≤ ((s.ctx c).groups.filter fun g => g.2.live).length then some 1
  else if descBad d then some 2
  else match s.memberTable s.ct d n with
    | none => some 2
    | some ms => if ms.eraseDups.length ≠ ms.length then some 2 else if !ms.contains Config.packageNumber.val then some 5 else none
/-- COLLDEF (R298): the group is entered, and the stream waits until its members have defined it. -/
def execColldef (d a : Reg) (s : State) : Out :=
  s.guardI onC [.x a] [.x d] fun s =>
    let c := s.tileCtx s.ct
    match (s.ctx c).groups.find? fun p => s.cur.waitN = some (collMark p.1) with
    | some (n, g) =>
      if g.timedOut then ((s.dropGroup c n).answer d (collError 4)).done
      else if s.clock < g.peersAt then s.stall rBARRIER
      else if g.mismatch then ((s.dropGroup c n).answer d (collError 3)).done
      else ((s.modGroup c n fun g => { g with live := true }).answer d (BitVec.ofNat 64 (n + g.own * 2 ^ 16))).done
    | none => s.withRecord (s.x a) 1 fun rs s =>
      let r := rs.headD 0
      match (s.ctx c).groups.find? fun p => !p.2.live && p.2.desc = r && p.2.defTile = s.ct && p.2.defUnit = s.me.unitNo with
      | some (n, _) => (s.modCur fun z => { z with waitN := some (collMark n) }).stall rBARRIER
      | none =>
        match s.collRefusal c r with
        | some e => ((if descBad r || e ≠ 2 then s else s.reportTable s.ct r (bits r 21 11 * bits r 32 22 * bits r 43 33)).answer d (collError e)).done
        | none => if (findFrom (fun i => !Map.has (s.ctx c).groups i) 0 64).isNone then s.stall rBARRIER else
          let ms := (s.memberTable s.ct r (bits r 21 11 * bits r 32 22 * bits r 43 33)).getD []
          let n := (findFrom (fun i => !Map.has (s.ctx c).groups i) 0 64).getD 0
          let alone := ms.length = 1
          let g : Group :=
            { desc := r, members := ms, own := ms.findIdx fun m => m = Config.packageNumber.val, ax0 := bits r 21 11, ax1 := bits r 32 22
              ax2 := bits r 43 33, defTile := s.ct, defUnit := s.me.unitNo, since := s.fabric, peersAt := if alone then 0 else s.clock + 1 + Config.freeDelay s.fresh
              mismatch := !alone && Config.freeChoice s.fresh }
          let s := { (s.modGroup c n fun _ => g) with fresh := s.fresh + 1 }
          (s.modCur fun z => { z with waitN := some (collMark n) }).stall rBARRIER
/-- COLLDEF_TIMEOUT (R298): group `id` of context `num` was not defined by every member in time. -/
def execColldefTimeout (s : State) : Out :=
  match Map.find (s.ctx s.ev.num).groups s.ev.id with
  | some g => if !g.live && s.clock < g.peersAt && g.since + gTimeout g.desc ≤ s.fabric then .next (s.modGroup s.ev.num s.ev.id fun g => { g with timedOut := true }) else .next s
  | none => .next s
/-- GROUP of a COLL task. -/
def TaskRec.group (r : TaskRec) : Nat := bits r.p0 63 58
/-- Whether a COLL record names a group. -/
def TaskRec.inGroup (r : TaskRec) (n : Nat) : Bool := r.eng = 5 && r.group = n
/-- Whether a COLL task of a tile names a group. -/
def Tile.inGroup (u : Tile) (n : Nat) : Bool := u.window.any (fun k => k.record.inGroup n) || u.posts.any fun k => k.record.inGroup n
/-- COLLDEF with FREE (R298): the tasks of units that are away count too. -/
def execColldefFree (d a : Reg) (s : State) : Out :=
  s.guardI onC [.x a] [.x d] fun s =>
    let c := s.tileCtx s.ct
    let n := bits (s.x a) 5 0
    if !(s.group c n).live then s.trap cILLEGAL_USE
    else if (s.tiles.any fun p => s.tileCtx (BitVec.ofNat 8 p.1) = c && p.2.inGroup n)
        || s.saved.any (fun x => (s.launch x.launch).ctx = c && x.tile.inGroup n) then
      s.stall rTWAIT
    else ((s.dropGroup c n).answer d 0).done

/-! ## Layouts (R300 to R302) -/

/-- PARTIAL. -/
def layPartial (w : Nat) (ax : Nat) : Bool := w.testBit (18 + ax)
/-- The shard list of a dimension: axes, the most significant first. -/
def layList (w d : Nat) : List Nat := (List.range 3).filterMap fun i => let v := (w >>> (6 * d + 4 - 2 * i)) % 4; if v = 0 then none else some (v - 1)
/-- Every axis a layout names. -/
def layAxes (w : Nat) : List Nat := layList w 0 ++ layList w 1 ++ layList w 2 ++ (List.range 3).filter fun a => layPartial w a
/-- Whether a layout breaks R300. -/
def layBad (w : Nat) : Bool :=
  w >>> 21 ≠ 0 || (layAxes w).eraseDups.length ≠ (layAxes w).length
    || (List.range 3).any fun d => (List.range 2).any fun i => (w >>> (6 * d + 4 - 2 * i)) % 4 = 0 && (w >>> (6 * d + 2 - 2 * i)) % 4 ≠ 0
/-- Sizes of the axes. -/
def Group.ax (g : Group) (a : Nat) : Nat := if a = 0 then g.ax0 else if a = 1 then g.ax1 else g.ax2
/-- The coordinates of a member, and the member of coordinates (R297). -/
def Group.coord (g : Group) (m a : Nat) : Nat := if a = 0 then m / (g.ax1 * g.ax2) else if a = 1 then m / g.ax2 % g.ax1 else m % g.ax2
def Group.memberAt (g : Group) (c : Nat → Nat) : Nat := (c 0 * g.ax1 + c 1) * g.ax2 + c 2
/-- The number of shards along a dimension. -/
def Group.shards (g : Group) (w d : Nat) : Nat := (layList w d).foldl (fun n a => n * g.ax a) 1
/-- A member's shard index along a dimension (R300). -/
def Group.shardOf (g : Group) (w d m : Nat) : Nat := (layList w d).foldl (fun k a => k * g.ax a + g.coord m a) 0
/-- Reduced axes: partial in the source and not in the destination. -/
def reducedAxes (src dst : Nat) : List Nat := (List.range 3).filter fun a => layPartial src a && !layPartial dst a
/-- The number of contributions (R303). -/
def Group.contribs (g : Group) (src dst : Nat) : Nat := (reducedAxes src dst).foldl (fun n a => n * g.ax a) 1
/-- Layouts of a task. -/
def TaskRec.srclay (r : TaskRec) : Nat := bits r.p1 31 0
def TaskRec.dstlay (r : TaskRec) : Nat := bits r.p1 63 32
def TaskRec.collOp (r : TaskRec) : Nat := bits r.p0 39 37
def TaskRec.collMode (r : TaskRec) : Nat := bits r.p0 36 35
def TaskRec.inpath (r : TaskRec) : Bool := bitAt r.p0 34
def TaskRec.tlog (r : TaskRec) : Bool := bitAt r.p0 33
def TaskRec.traceLen (r : TaskRec) : Nat := bits r.p0 23 0
/-- The digit of axis `a` of an index over a list of axes, the first most significant. -/
def digitOf (g : Group) : List Nat → Nat → Nat → Nat
  | [], _, _ => 0
  | x :: rest, a, k => let below := rest.foldl (fun n y => n * g.ax y) 1; if x = a then k / below % g.ax a else digitOf g rest a k
/-- Where contribution `q` to a destination element lies: the member, and its relative source element (R302, R303). `i` is the element's relative
index in this member's box, whose lengths are `ld`; `ls` are those of the source box. -/
def Group.sourceOf (g : Group) (src dst : Nat) (ls ld i : Nat × Nat × Nat) (q : Nat) : Nat × (Nat × Nat × Nat) :=
  let pick (x : Nat × Nat × Nat) (d : Nat) : Nat := if d = 0 then x.1 else if d = 1 then x.2.1 else x.2.2
  let global (d : Nat) : Nat := g.shardOf dst d g.own * pick ld d + pick i d
  let c (a : Nat) : Nat :=
    if (reducedAxes src dst).contains a then digitOf g (reducedAxes src dst) a q
    else match findFrom (fun d => (layList src d).contains a) 0 3 with
      | some d => digitOf g (layList src d) a (global d / pick ls d)
      | none => g.coord g.own a
  (g.memberAt c, (global 0 % pick ls 0, global 1 % pick ls 1, global 2 % pick ls 2))

/-! ## Release (R299, R301) -/

/-- Lengths of a box. -/
def Side.lens (x : Side) : Nat × Nat × Nat := (x.iv.len 0, x.iv.len 1, x.iv.len 2)
/-- Elements of a box. -/
def Side.count (x : Side) : Nat := if x.iv.empty then 0 else x.iv.len 0 * x.iv.len 1 * x.iv.len 2
/-- Elements per chunk of 4,096 bytes (R302). -/
def chunkElems (fmt : Nat) : Nat := 32768 / container fmt
/-- Chunks of a destination. -/
def Side.chunks (x : Side) : Nat := ceilDiv x.count (chunkElems x.h.fmt)
/-- The format an operation needs (R299). -/
def collFmt (op : Nat) : Option Nat := if op ≤ 2 then some 0x01 else if op = 3 then some 0x03 else if op ≤ 5 then some 0x13 else none
/-- The fault of a COLL task at release. -/
def State.collFault (s : State) (t : TileNo) (k : Task) : Option (BitVec 16) :=
  let u := s.tile t
  let r := k.record
  let a := s.side t k 0
  let b := s.side t k 1
  let g := s.group (s.tileCtx t) r.group
  let p := g.contribs r.srclay r.dstlay
  let part := (List.range 3).any (layPartial r.srclay ·)
  let fields := g.live && r.rolesOk [some false, some true, none, none] && a.h.space ≤ 1 && b.h.space ≤ 1 && a.h.fmt = b.h.fmt && !a.h.scaled && !b.h.scaled
    && r.prows = 0 && bits r.p0 57 40 = 0 && bits r.p0 32 24 = 0 && bits r.p2 63 56 = 0 && bits r.p3 63 32 = 0 && bits r.p3 5 0 = 0
    && keyTile (bits r.p3 31 0) = t && (s.sFault t (bits r.p3 31 0)).isNone && r.collOp ≠ 6 && r.collMode ≠ 3 && (!r.tlog || r.collMode = 1)
    && (r.collOp = 7 || collFmt r.collOp = some b.h.fmt) && !layBad r.srclay && !layBad r.dstlay
  let extents := (List.range 3).all fun d => g.shards r.srclay d * a.iv.len d = g.shards r.dstlay d * b.iv.len d
  let axes := (List.range 3).all fun x => !layPartial r.dstlay x || layPartial r.srclay x
  if !fields || !extents || !axes || (r.collOp = 7 && part) || (r.collOp ≠ 7 && !part)
      || ((r.tlog || r.collMode = 2) && r.traceLen < p * b.chunks) then some cBADPARAM
  else (u.boxesOf r).findSome? fun y => if y.2.2.shape.space = 0 then s.sFault t (k.bases.getD y.1 0) else none
/-- The place of a group as the steps of a collective carry it: context and handle. -/
def groupWord (c n : Nat) : Word := BitVec.ofNat 64 (c * 64 + n)
/-- The sealing of `n` messages that this member sends of a collective (R383): a slot that cannot seal sends nothing. DESIGN CHOICE (log entry 93): a
message goes to every other member for each chunk, and for a Knell. -/
def State.sealColl (s : State) (g : Group) (n : Nat) : Option State :=
  if gSealed g.desc && 1 < g.members.length then s.sealMany (bits g.desc 4 0) (n * (g.members.length - 1)) else some s
/-- Changes a run of a group. -/
def Group.modRun (g : Group) (t : TileNo) (acc : Nat) (f : CollRun → CollRun) : Group :=
  { g with runs := g.runs.map fun x => if x.tile = t && x.acc = acc then f x else x }
/-- The first run of a group begins when it is not already running (R301): its contributions are on their way, its timeout runs, and what the other
members do is free: a Knell of one of them may come (R307). -/
def State.runNext (s : State) (c n : Nat) : State :=
  match (s.group c n).runs with
  | [] => s
  | x :: _ =>
    if x.running then s
    else match (s.tile x.tile).task x.acc with
      | none => s
      | some k =>
        let g := s.group c n
        let b := s.side x.tile k 1
        let p := g.contribs k.record.srclay k.record.dstlay
        let s := s.modGroup c n fun g => g.modRun x.tile x.acc fun x => { x with running := true, progress := s.fabric }
        let e : EvArgs := { tile := x.tile, id := x.acc, w0 := groupWord c n, w1 := zext64 x.seq }
        let s := match s.sealColl g b.chunks with
          | some s => (List.range b.chunks).foldl (fun (s : State) ch => (List.range p).foldl (fun (s : State) q => s.later { op := .collContribution, ev := { e with num := ch, aux := q } }) s) s
          | none => s
        let s := if 1 < g.members.length && Config.freeChoice s.fresh then
          s.later { op := .knell, ev := { e with num := 1 + (Config.freeStatus s.fresh).toNat % 6, aux := (Config.freeReply s.fresh).toNat % g.members.length } } else s
        let s := if s.treeCut g then s.post { op := .knell, ev := { e with num := 2, aux := g.own } } else s
        if b.chunks = 0 then s.later { op := .collCommit, ev := e } else s
/-- A record of the sequencer (R388). -/
def State.pealColl (s : State) (t : TileNo) (event : Nat) (seq : BitVec 32) (cause result group : Nat) : State :=
  match s.partOf t with
  | some p => s.pealHub p 6 event 0xFF (s.tile t).launchNo (seq.toNat + cause * 2 ^ 32 + result * 2 ^ 40 + group * 2 ^ 48)
  | none => s
/-- The state as the collective sequencer translates in it: through its own TLB (R373). -/
def State.asSeq (s : State) (t : TileNo) : State := s.modTile t fun u => { u with tlb := s.hubTlb hubSeq }
/-- The sequencer's TLB after it has used two boxes of G-space. -/
def State.seqLearn (s : State) (t : TileNo) (a b : Side) : State :=
  let learn (s : State) (x : Side) (wr : Bool) : State :=
    if x.h.space = 1 then
      { s with hubTlbs := Map.set s.hubTlbs hubSeq (s.learn (s.hubTlb hubSeq) (s.tileCtx t) (BitVec.ofNat 64 (x.elemAt (x.iv.l0, x.iv.l1, x.iv.l2))) (!wr) wr) }
    else s
  learn (learn s a false) b true

/-! ## The end of a collective (R306 to R308) -/

/-- The status row (R306). -/
def statusRow (g : Group) (x : CollRun) (declined : Bool) (cause result : Nat) (detector : Option Nat) : Row :=
  BitVec.ofNat 512 (result + (if declined then 4 else 0) + (if x.inpath then 8 else 0) + cause * 2 ^ 8 + x.seq.toNat * 2 ^ 32 + x.flags.toNat * 2 ^ 128
    + (detector.getD (2 ^ 32 - 1)) * 2 ^ 192 + g.members.length * 2 ^ 224)
/-- Whether in-path reduction was permitted and declined (R305). -/
def TaskRec.declined (r : TaskRec) (g : Group) : Bool := r.inpath && gSealed g.desc
/-- The run of a task. -/
def State.collRun (s : State) (t : TileNo) (acc : Nat) : Option (Nat × Group × CollRun) :=
  (s.ctx (s.tileCtx t)).groups.findSome? fun p => (p.2.runs.find? fun x => x.tile = t && x.acc = acc).map fun x => (p.1, p.2, x)
/-- A collective leaves the sequencer: its status row is written and the next of its group begins. -/
def State.collEnd (s : State) (t : TileNo) (n : Nat) (g : Group) (x : CollRun) (r : TaskRec) (cause result : Nat) (detector : Option Nat) : State :=
  let c := s.tileCtx t
  let s := s.putRow (bits r.p3 31 0) (statusRow g x (r.declined g) cause result detector)
  let s := s.pealColl t 3 x.seq cause result n
  (s.modGroup c n fun g => { g with runs := g.runs.filter fun y => !(y.tile = t && y.acc = x.acc) }).runNext c n
/-- A collective is aborted on this member (R307, R308); the task fails with `code`. -/
def State.collAbort (s : State) (t : TileNo) (acc cause detector : Nat) (code : BitVec 16) : State :=
  match s.collRun t acc, (s.tile t).working acc with
  | some (n, g, x), some k =>
    let s := if detector = g.own then (s.sealColl g 1).getD s else s
    let s := (s.pealColl t 2 x.seq cause 1 n).modGroup (s.tileCtx t) n fun g => { g with aborted := x.seq :: g.aborted }
    (s.collEnd t n g x k.record cause 1 (some detector)).endTask t acc code (s.tile t).eclk
  | _, _ => s
/-- A released COLL task takes the group's next sequence number (R301); the first of a group takes 0 (log entry 25). One of which a Knell has come
already is aborted with that Knell's cause and detector (log entry 88). -/
def State.startColl (s : State) (t : TileNo) (k : Task) : State :=
  let c := s.tileCtx t
  let n := k.record.group
  let g := s.group c n
  let s := if g.live then s.modGroup c n fun g => { g with seq := g.seq + 1, doomed := g.doomed.filter fun x => x.1 ≠ g.seq } else s
  let s := s.pealColl t 0 g.seq 0 0 n
  match s.collFault t k with
  | some e => (if g.live then s.modGroup c n fun h => { h with aborted := g.seq :: h.aborted } else s).endTask t k.acc e (s.tile t).eclk
  | none =>
    let s := s.modGroup c n fun h => { h with runs := h.runs ++ [{ tile := t, acc := k.acc, seq := g.seq : CollRun }] }
    match g.doomed.find? fun x => x.1 = g.seq with
    | some x => s.collAbort t k.acc x.2.1 x.2.2 cABORTED
    | none => s.runNext c n
/-- The group that a step of a collective names. -/
def State.evGroup (s : State) : Nat × Nat := ((s.ev.w0.toNat) / 64, (s.ev.w0.toNat) % 64)
/-- A Knell of a group for a collective that does not run here (R307, R308): a second one for an aborted collective has no effect. DESIGN CHOICE (log entry
88): of one whose task is not released here yet, cause and detector are kept, and that task is aborted when it takes the collective's number, which the
group's sequence number thereby passes. Any other collective has its commit, and the cause is kept for the next one that fails to progress. -/
def Group.knell (g : Group) (seq : BitVec 32) (cause detector : Nat) : Group :=
  if g.aborted.contains seq || g.doomed.any fun x => x.1 = seq then g
  else if (seq - g.seq).toNat < 2 ^ 31 then { g with doomed := g.doomed ++ [(seq, cause, detector)] }
  else { g with pendingCause := cause }
/-- KNELL (R307, R308): for collective `w1` of task `id` in group `w0`, cause `num` from member `aux`. -/
def execKnell (s : State) : Out :=
  let t := s.ev.tile
  match s.collRun t s.ev.id with
  | some _ => .next (s.collAbort t s.ev.id s.ev.num s.ev.aux cABORTED)
  | none =>
    let (c, n) := s.evGroup
    .next (if (s.group c n).live then s.modGroup c n fun g => g.knell (s.ev.w1.setWidth 32) s.ev.num s.ev.aux else s)
/-- PROGRESS_TIMEOUT (R307): no progress within GTIMEOUT. -/
def execProgressTimeout (s : State) : Out :=
  let t := s.ev.tile
  match s.collRun t s.ev.id with
  | some (n, g, x) =>
    if x.running && x.progress + gTimeout g.desc ≤ s.fabric then
      .next ((s.modGroup (s.tileCtx t) n fun g => { g with pendingCause := 0 }).collAbort t s.ev.id (if g.pendingCause = 0 then 1 else g.pendingCause) g.own cABORTED)
    else .next s
  | none => .next s
/-- COLL_COMMIT (R308): the commit has reached this member; the task completes DONE. -/
def execCollCommit (s : State) : Out :=
  let t := s.ev.tile
  match s.collRun t s.ev.id, (s.tile t).working s.ev.id with
  | some (n, g, x), some k =>
    if x.chunks.length < (s.side t k 1).chunks then .next s
    else
      let s := s.pealColl t 1 x.seq 0 0 n
      .next ((s.collEnd t n g x k.record 0 0 none).endTask t s.ev.id 0 (s.tile t).eclk)
  | _, _ => .next s

/-! ## Contributions (R302, R303, R305) -/

/-- The relative element of number `n` of a box (R302). -/
def elemIndex (l : Nat × Nat × Nat) (n : Nat) : Nat × Nat × Nat := (n % l.1, n / l.1 % l.2.1, n / l.1 / l.2.1)
/-- The element numbers of a chunk. -/
def Side.chunkRange (x : Side) (ch : Nat) : List Nat := (List.range (min (chunkElems x.h.fmt) (x.count - ch * chunkElems x.h.fmt))).map (ch * chunkElems x.h.fmt + ·)
/-- An absolute element of a box. -/
def Side.absolute (x : Side) (i : Nat × Nat × Nat) : Nat × Nat × Nat := (x.iv.l0 + i.1, x.iv.l1 + i.2.1, x.iv.l2 + i.2.2)
/-- The values of contribution `q` to a chunk: this member's own are read from its source box; those of the others are free (log entry 6). -/
def State.contribution (s : State) (t : TileNo) (g : Group) (r : TaskRec) (a b : Side) (ch q : Nat) : Except TransFault (List Nat) :=
  (b.chunkRange ch).zipIdx.mapM fun e =>
    let x := g.sourceOf r.srclay r.dstlay a.lens b.lens (elemIndex b.lens e.1) q
    if x.1 = g.own then s.readContainer t a (a.absolute x.2) else .ok ((Config.freeReply (s.fresh + e.2)).toNat % 2 ^ container b.h.fmt)
/-- Values combined pairwise over g, an odd one passing unchanged (R303, KEYED). -/
def collPairs (op : Nat) : List Nat → List Nat × Flags
  | a :: b :: rest => let x := combineLane op a b; let y := collPairs op rest; (x.1 :: y.1, x.2 ||| y.2)
  | xs => (xs, 0)
/-- The pairwise tree, level by level. -/
def keyedTree (op : Nat) : Nat → List Nat → Nat × Flags
  | 0, xs => (xs.headD 0, 0)
  | fuel + 1, xs => if xs.length ≤ 1 then (xs.headD 0, 0) else let y := collPairs op xs; let z := keyedTree op fuel y.1; (z.1, y.2 ||| z.2)
/-- Values combined in a given order (R303, ARRIVAL and REPLAY). -/
def foldOrder (op : Nat) : List Nat → Nat × Flags
  | [] => (0, 0)
  | x :: rest => rest.foldl (fun a y => let z := combineLane op a.1 y; (z.1, a.2 ||| z.2)) (x, 0)
/-- The order in which the contributions to a chunk arrived; in one clock the lower g goes first. -/
def arrivalOrder (cs : List Contribution) : List Nat :=
  (cs.foldl (fun (l : List Contribution) c => l.filter (fun d => d.at_ < c.at_ || (d.at_ = c.at_ && d.g < c.g)) ++ [c] ++ l.filter (fun d => !(d.at_ < c.at_ || (d.at_ = c.at_ && d.g < c.g)))) []).map
    Contribution.g
/-- The order that a trace gives for a chunk; none when it is no permutation. -/
def State.traceOrder (s : State) (t : TileNo) (r : TaskRec) (p ch : Nat) : Except TransFault (Option (List Nat)) :=
  match (List.range p).mapM fun j => s.spaceRead t { space := 1 } (bits r.p2 55 0 + 2 * (ch * p + j)) 2 with
  | .ok ns => .ok (if (List.range p).all ns.contains then some ns else none)
  | .error e => .error e
/-- The granules of D that a chunk completes (R62). -/
def Side.chunkGranules (b : Side) (ch : Nat) (done : List Nat) : List Nat :=
  let elem (n : Nat) : List Nat :=
    let i := b.absolute (elemIndex b.lens n)
    b.h.granules b.base { l0 := i.1, h0 := i.1 + 1, l1 := i.2.1, h1 := i.2.1 + 1, l2 := i.2.2, h2 := i.2.2 + 1 }
  ((b.chunkRange ch).flatMap elem).eraseDups.filter fun g =>
    (List.range b.count).all fun n => done.contains (n / chunkElems b.h.fmt) || !(elem n).contains g
/-- Whether every element with bytes in a row of D lies in a chunk that is complete: the row may be written, once (R302). -/
def Side.rowDone (b : Side) (done : List Nat) (row : Nat) : Bool :=
  (List.range b.count).all fun n => done.contains (n / chunkElems b.h.fmt) || !((b.writes (b.absolute (elemIndex b.lens n)) 0).any fun w => rowOf w.1 = row)
/-- Every contribution to a chunk has arrived: it is combined, the rows of D that are complete are written, and its arrival order logged (R302, R303). -/
def State.finishChunk (s : State) (t : TileNo) (n : Nat) (g : Group) (x : CollRun) (k : Task) (ch : Nat) : State :=
  let r := k.record
  let b := s.side t k 1
  let p := g.contribs r.srclay r.dstlay
  let cs := x.got.filter fun c => c.chunk = ch
  let fail (s : State) (e : TransFault) : State := (s.reportFault e).collAbort t k.acc 5 g.own (TransFault.code e)
  let order : Except TransFault (Option (List Nat)) := if r.collMode = 2 then (s.asSeq t).traceOrder t r p ch else .ok (some (if r.collMode = 0 then List.range p else arrivalOrder cs))
  match order with
  | .error e => fail s e
  | .ok none => s.collAbort t k.acc 4 g.own cBADPARAM
  | .ok (some order) =>
    let vals (j : Nat) : List Nat := order.map fun q => ((cs.find? fun c => c.g = q).map fun c => c.vals.getD j 0).getD 0
    let outs := (b.chunkRange ch).zipIdx.map fun e => (e.1, if r.collMode = 0 then keyedTree r.collOp 11 (vals e.2) else foldOrder r.collOp (vals e.2))
    let ws := outs.flatMap fun o => b.writes (b.absolute (elemIndex b.lens o.1)) o.2.1
    let log : List ByteWrite := if r.tlog then
      order.zipIdx.flatMap fun q => (List.range 2).map fun i => (bits r.p2 55 0 + 2 * (ch * p + q.2) + i, 0xFF, BitVec.ofNat 8 (q.1 >>> (8 * i))) else []
    let done := ch :: x.chunks.map Prod.fst
    let all := x.pend ++ ws
    let now := all.filter fun w => b.rowDone done (rowOf w.1)
    let s0 := s
    let s := s.asSeq t
    match s.keyWrites t b.h now, s.keyWrites t { space := 1 } log with
    | .ok ks, .ok ls =>
      match s0.readPart t (ks ++ ls) with
      | (s, true) => s.collAbort t k.acc 5 g.own cMEM_UNCORRECTABLE
      | (s, false) =>
      let fl := outs.foldl (fun f o => f ||| o.2.2) (0 : Flags)
      let s := (s.sealRows t b.h (rowsOf ks).length).writeRows t k.acc (ks ++ ls) (if b.h.space = 0 then b.chunkGranules ch done else [])
      let s := s.modTask t k.acc fun k => { k with flags := k.flags ||| fl, prog := k.prog + 1 }
      let s := s.modGroup (s.tileCtx t) n fun g => g.modRun t k.acc fun x =>
        { x with chunks := (ch, order) :: x.chunks, got := x.got.filter fun c => c.chunk ≠ ch, flags := x.flags ||| fl
                 pend := all.filter fun w => !b.rowDone done (rowOf w.1) }
      if done.length < b.chunks then s else s.later { op := .collCommit, ev := { tile := t, id := k.acc } }
    | .error e, _ => fail s0 e
    | _, .error e => fail s0 e
/-- The rows of the source that this member's contribution to a chunk is read from. -/
def State.contribRows (s : State) (t : TileNo) (g : Group) (r : TaskRec) (a b : Side) (ch q : Nat) : List Nat :=
  s.rowsAt t a.h ((b.chunkRange ch).flatMap fun e =>
    let x := g.sourceOf r.srclay r.dstlay a.lens b.lens (elemIndex b.lens e) q
    if x.1 = g.own then a.elemBytes (a.absolute x.2) else [])
/-- COLL_CONTRIBUTION (R302, R303): contribution `aux` to chunk `num` arrives; whether a router combined on its path is free (R305). -/
def execCollContribution (s : State) : Out :=
  let t := s.ev.tile
  match s.collRun t s.ev.id, (s.tile t).working s.ev.id with
  | some (n, g, x), some k =>
    let r := k.record
    let a := s.side t k 0
    let b := s.side t k 1
    if x.got.any (fun c => c.chunk = s.ev.num && c.g = s.ev.aux) || x.chunks.any (fun c => c.1 = s.ev.num) then .next s
    else match s.fetchRows t k.acc a.h ((s.asSeq t).contribRows t g r a b s.ev.num s.ev.aux) with
    | (s, true) => .next (s.collAbort t s.ev.id 5 g.own cMEM_UNCORRECTABLE)
    | (s, false) =>
      match ((s.asSeq t).view (((s.tile t).task k.acc).getD k)).contribution t g r a b s.ev.num s.ev.aux with
      | .error e => .next ((s.reportFault e).collAbort t s.ev.id 5 g.own (TransFault.code e))
      | .ok vs =>
        let way := r.inpath && !gSealed g.desc && r.collOp ≠ 7 && r.collMode ≠ 2 && !r.tlog && 1 < g.members.length && Config.freeChoice s.fresh
        let x := { x with
          got := x.got ++ [{ chunk := s.ev.num, g := s.ev.aux, at_ := s.clock, vals := vs : Contribution }], progress := s.fabric, inpath := x.inpath || way }
        let s := { s with fresh := s.fresh + vs.length + 1 }.seqLearn t a b
        let s := s.modGroup (s.tileCtx t) n fun g => g.modRun t s.ev.id fun _ => x
        if (x.got.filter fun c => c.chunk = s.ev.num).length < g.contribs r.srclay r.dstlay then .next s
        else .next (s.finishChunk t n g x k s.ev.num)
  | _, _ =>
    let (c, n) := s.evGroup
    .next (if (s.group c n).live then s.modGroup c n fun g => { g with dropped := g.dropped + 1 } else s)

end Sys2Proof.Machine
end

