-- ==== Sys2Proof/Machine/Release.lean ====
section
/-! DEFINITION. TASK_RELEASE and TASK_CANCEL_STOP: the executors of R166 (R62, R72, R167, R172, R177, R180, R204, R234, R237, R248, R258, R301, R307, R367). -/
namespace Sys2Proof.Machine

/-- The accumulator bank that a matrix or roll task claims. -/
def TaskRec.bank (r : TaskRec) : Nat := if r.op = 0 then (if r.mBank then 1 else 0) else if bitAt r.p0 60 then 1 else 0
/-- Whether a destination lies in an accumulator bank. -/
def Dest.inBank (d : Dest) (b : Nat) : Bool :=
  match d with
  | .acc r => r % 256 / 128 = b
  | .accs r n => (List.range n).any fun k => (r + k) % 256 / 128 = b
  | _ => false
/-- Whether a result of the V stream is in flight to a row of a bank (R204). -/
def Tile.vToBank (u : Tile) (b : Nat) : Bool :=
  u.v.flights.any (fun f => f.dest.inBank b) || (u.v.frame.valid && u.v.frame.flights.any fun f => f.dest.inBank b)
    || u.v.awaits.any fun a => a.dests.any fun d => d.inBank b
/-- Released tasks of a class in a tile. -/
def Tile.inService (u : Tile) (eng : Nat) : Nat := (u.window.filter fun k => k.st = 2 && k.record.eng = eng).length
/-- Whether the executor of a class is free for a task (R166, R177, R204, R237, R301). -/
def State.executorFree (s : State) (t : TileNo) (k : Task) : Bool :=
  let u := s.tile t
  match k.record.eng with
  | 0 => u.freeChannel.isSome
  | 1 => u.inService 1 = 0
  | 2 => u.inService 2 = 0 && u.wload.isNone && !u.vToBank k.record.bank
  | 5 => (s.tiles.map fun p => p.2.inService 5).sum < 4 && !(u.window.any fun o => o.acc < k.acc && o.st = 1 && o.record.inGroup k.record.group)
  | _ => false
/-- TASK_RELEASE (R177): one task of class `num`; a failing extent fails it at once, before this tick's acceptance (R183). -/
def execTaskRelease (s : State) : Out :=
  let t := s.ev.tile
  let u := s.tile t
  if u.unit.isNone || u.preemptReq then .next s
  else match s.pickReady t s.ev.num (s.executorFree t) with
    | none => .next s
    | some k =>
      let x := s.releaseTask t k
      let s := if k.record.eng = 0 then x.1.modTask t k.acc fun k => { k with channel := u.freeChannel.getD 0 } else x.1
      if !x.2 then .next (match (s.tile t).task k.acc with
        | some k => s.failTask t k (k.ended.getD 0)
        | none => s)
      else match (s.tile t).task k.acc with
        | none => .next s
        | some k =>
          .next (match k.record.eng with
            | 0 => if k.record.channel then s.startChannel t k else s.startCopy t k
            | 1 => s.startCopy t k
            | 2 => if k.record.op = 0 then s.startMatmul t k else s.startRoll t k
            | _ => s.startColl t k)
/-- TASK_CANCEL_STOP (R180, R237, R258, R307, R367): a released task that is cancelled stops at its engine's restartable boundary. -/
def execTaskCancelStop (s : State) : Out :=
  let t := s.ev.tile
  let u := s.tile t
  match u.task s.ev.id with
  | none => .next s
  | some k =>
    let leave (s : State) : Out := .next (match (s.tile t).task k.acc with | some k => s.leave t k 6 k.fault | none => s)
    if !k.cancel || k.st ≠ 2 then .next s
    else match k.record.eng with
      | 0 => if k.record.indexed && k.rowIdx ≠ 0 && !k.suspended then .next s else leave s
      | 2 =>
        if k.record.op = 0 then (if u.mat.any fun m => m.acc = k.acc && m.pipe ≠ [] then .next s else leave s)
        else if u.roll.uid ≠ k.uid || u.roll.state = 1 then leave s
        else if u.roll.state = 2 && u.roll.stopping.isNone then .next (s.modBus u.roll.bus fun b => { b with lost := true })
        else if u.roll.pipe ≠ [] then .next s
        else leave s
      | 5 => (match s.collRun t k.acc with
        | some (n, g, x) => leave (((s.pealColl t 2 x.seq 6 1 n).modGroup (s.tileCtx t) n fun g => { g with aborted := x.seq :: g.aborted }).collEnd t n g x k.record 6 1 (some g.own))
        | none => leave s)
      | _ => leave s

end Sys2Proof.Machine
end

