-- ==== Sys2Proof/Machine/Links.lean ====
section
/-! DEFINITION. TLB walks, invalidation, link retries and link failure (R307, R362, R372 to R375, R379, R381). -/
namespace Sys2Proof.Machine

/-- TLB_WALK (R362, R372, R373): the walk of stream `st` of a tile for address `w0` ends, for an access that reads (bit 0 of `num`) or writes (bit 1).
The access of the stream that waits for it goes on, or its translation fault is the synchronous trap of that instruction. -/
def execTlbWalk (s : State) : Out :=
  let t := s.ev.tile
  let st := s.ev.st
  let va := s.ev.w0
  let rd := s.ev.num % 2 = 1
  let wr := s.ev.num / 2 = 1
  let z := s.strmOf t st
  if z.mode ≠ .running || z.waitN ≠ some 1 then .next s
  else match s.gKey t va.toNat rd wr with
    | .ok _ =>
      let s := s.modTile t fun u => { u with tlb := s.learn u.tlb (s.tileCtx t) va rd wr }
      .next (s.modStrmOf t st fun z => { z with waitN := some 2 })
    | .error sub => .next ((s.report cTRANSLATION sub).takeTrap t st cTRANSLATION z.pc va 0 false false)

/-- Whether a cached translation belongs to an invalidation: one of its 64 KiB pages lies in the range (R374). -/
def TlbEntry.hit (e : TlbEntry) (i : Inval) : Bool :=
  e.ctx = i.ctx && (i.whole || (e.va / 2 ^ 16 < i.first + i.count && i.first < (e.va + 2 ^ e.log2) / 2 ^ 16))
/-- Whether a tile's streams have an access to translated memory outstanding that was issued before number `n`. -/
def Tile.egress (u : Tile) (n : Nat) : Bool := allStreams.any fun st => (u.strm st).accs.any fun a => !keyIsS a.key && !a.isMark && a.id < n
/-- Whether a tile has a request outstanding that was issued before number `n`, of its unit or of one saved from there (R374, R375). -/
def State.egress (s : State) (t : TileNo) (n : Nat) : Bool :=
  (s.tile t).egress n || (s.saved.any fun x => x.tileNo = t && x.tile.egress n)
    || s.txTags.any fun x => x.2.busy.any fun r => r.tile = t && r.acc < n
/-- INVAL_SOURCE_ACK (R374): source `num` discards the entries of invalidation `id`, waits for what it issued before, with its engines' rows written,
and acknowledges. `aux` is one more than the number of the first request issued afterwards, once the entries are discarded. -/
def execInvalSourceAck (s : State) : Out :=
  match Map.find s.invals s.ev.id with
  | none => .next s
  | some i =>
    let n := s.ev.num
    let drop (l : List TlbEntry) : List TlbEntry := l.filter fun e => !e.hit i
    let before := if s.ev.aux = 0 then s.nextId else s.ev.aux - 1
    let s := if s.ev.aux ≠ 0 then s
      else if n < 256 then (s.showTile (BitVec.ofNat 8 n)).modTile (BitVec.ofNat 8 n) fun u => { u with tlb := drop u.tlb }
      else { s with hubTlbs := Map.set s.hubTlbs (n - 256) (drop (s.hubTlb (n - 256))) }
    if n < 256 && s.egress (BitVec.ofNat 8 n) before then .next ({ s with ev := { s.ev with aux := before + 1 } }.retry .invalSourceAck)
    else
      let left := i.waiting.filter fun x => x ≠ n
      let s := { s with invals := Map.set s.invals s.ev.id { i with waiting := left }, bgStatus := bgWord ((i.total - left.length) * 100 / i.total) }
      .next (if left = [] then s.post { op := .invalidationComplete, ev := { id := s.ev.id } } else s)
/-- INVALIDATION_COMPLETE (R374, R402): the mailbox is free for another and vector 64 is raised. -/
def execInvalidationComplete (s : State) : Out :=
  match Map.find s.invals s.ev.id with
  | some i => if i.waiting = [] then .next ({ s with invals := Map.del s.invals s.ev.id, mboxBusy := false, bgStatus := bgWord 100 : State }.interrupt 64) else .next s
  | none => .next s

/-- Event 13 of every formed partition: a port has no tile number, so only counters with ALLT count it (R390, log entry 77). -/
def State.countFlit (s : State) : State := (List.range 8).foldl (fun s p => if (s.part p).formed then s.countArg p 13 256 1 fun _ => true else s) s
/-- FLIT_RETRY (R381): port `id` retries a flit; with `num` 1 it was delivered. The 16th retry of one flit that fails takes the link down. -/
def execFlitRetry (s : State) : Out :=
  let n := Map.get 0 s.flitRetries s.ev.id
  if s.ev.num = 1 then .next { s with flitRetries := Map.del s.flitRetries s.ev.id }
  else if 16 ≤ n + 1 then .next ({ s.countFlit with flitRetries := Map.del s.flitRetries s.ev.id }.post { op := .linkDown, ev := { id := s.ev.id } })
  else .next { s.countFlit with flitRetries := Map.set s.flitRetries s.ev.id (n + 1) }
/-- LINK_DOWN (R379, R381, R307): every path through port `id` leaves the table, the failure is reported, and a collective with a tree
neighbour that no path reaches any more is aborted. -/
def execLinkDown (s : State) : Out :=
  let s := { s with portLanes := Map.set s.portLanes s.ev.id 0, routes := s.routes.map fun (p : Nat × List Path) => (p.1, p.2.filter fun (x : Path) => x.port ≠ s.ev.id) }
  let s := s.report cLINK_DOWN s.ev.id
  let lost := s.ctxs.flatMap fun c => c.2.groups.flatMap fun g =>
    if s.treeCut g.2 then (g.2.runs.filter fun x => x.running).map fun x => (x.tile, x.acc, g.2.own) else []
  .next (lost.foldl (fun s x => s.collAbort x.1 x.2.1 2 x.2.2 cABORTED) s)

end Sys2Proof.Machine
end

