-- ==== Sys2Proof/Machine/Launch.lean ====
section
/-! DEFINITION. Launch records, LAUNCH and LAUNCH.W (R24, R27, R196, R197, R341, R343 to R345). -/
namespace Sys2Proof.Machine

/-! ## The launch record (R341) -/

/-- The fields of a record that a launch keeps; `r0` holds bits [511:0]. -/
def launchOf (r0 r1 : Row) : Launch :=
  { prog := bits r0 511 456, args := bits r0 455 400, plane := bits r0 399 344, doneAddr := bits r0 343 288, irq := bitAt r0 276, quota := bits r0 255 244
    nunits := bits r0 243 228, cls := bits r0 227 226, pri := bits r0 225 223, place := bits r0 222 221, depmode := bitAt r0 218, list := bits r1 383 328 }
/-- GEND or PEND. -/
def recEnds (r0 : Row) : Bool := bitAt r0 220 || bitAt r0 219
/-- The dependences that a record uses. -/
def recDeps (r0 r1 : Row) : List Nat := (List.range (bits r0 217 215)).map fun i => bits r1 (384 + 32 * i + 31) (384 + 32 * i)
/-- Check 1 of R344, but for the dependences and the ends. -/
def recBad (r0 r1 : Row) : Bool :=
  bits r0 287 277 ≠ 0 || bits r0 275 256 ≠ 0 || bits r0 214 0 ≠ 0 || bits r1 327 0 ≠ 0 || bits r0 461 456 ≠ 0 || bits r0 349 344 ≠ 0
    || bits r0 243 228 = 0 || 4 < bits r0 217 215 || 2 ≤ bits r0 222 221
/-- Adds a launch with all its units waiting; its identifier is `s.nextLaunch`. -/
def State.addLaunch (s : State) (l : Launch) : State :=
  { s with launches := Map.set s.launches s.nextLaunch { l with waiting := List.range l.nunits, unitsLeft := l.nunits }, nextLaunch := s.nextLaunch + 1 }

/-! ## Gangs (R24, R348) -/

/-- The launch whose gang a launch belongs to: itself, or for a CONCURRENT one its parent's. -/
def State.gangRoot (s : State) : Nat → Nat → Nat
  | 0, n => n
  | fuel + 1, n => if (s.launch n).cls = 2 then (match (s.launch n).parent with
      | some p => s.gangRoot fuel p
      | none => n) else n
/-- The tiles that are taken and returned with a tile's unit: its own for WEAK, else every resident one of its gang. -/
def State.gangTiles (s : State) (t : TileNo) : List TileNo :=
  let l := (s.tile t).launchNo
  if (s.launch l).cls = 0 then [t]
  else
    let g := s.gangRoot s.depth l
    (s.tiles.filter fun (p : Nat × Tile) => p.2.unit.any fun (r : UnitRes) => (s.launch r.launch).cls ≠ 0 && s.gangRoot s.depth r.launch = g).map fun p =>
      BitVec.ofNat 8 p.1
/-- Asks for the pre-emption of tiles. -/
def State.askPreempt (s : State) (ts : List TileNo) : State := ts.foldl (fun s t => s.modTile t fun u => { u with preemptAsk := true }) s

/-! ## LAUNCH and LAUNCH.W (R196, R197) -/

/-- LAUNCH, or with `wait` LAUNCH.W: checks 1 and 2 of R344 for a device record. -/
def State.launchChild (s : State) (d a : Reg) (wait : Bool) : Out :=
  s.guardI onC [.x a] [.x d] fun s =>
    let own := s.me.launchNo
    let p := s.launch own
    if wait && p.cls = 2 then s.trap cILLEGAL_USE
    else if !s.cur.fenced s.ct 4 then s.stall rFENCE
    else s.withRecord (s.x a) 2 fun rs s =>
      let r0 := rs.getD 0 0
      let r1 := rs.getD 1 0
      let l := launchOf r0 r1
      let deps := recDeps r0 r1
      if recBad r0 r1 || recEnds r0 || deps.any (fun n => !(Map.has s.launches n && (s.launch n).parent = some own)) then (s.answer d (postStatus 2)).done
      else if p.share < 1 + l.quota then
        if wait then
          ((s.askPreempt (s.gangTiles s.ct)).modMe fun u => { u with preemptFor := u.unit.map UnitRes.idx }).stall rLAUNCH_QUOTA
        else (s.answer d (postStatus 1)).done
      else
        let n := s.nextLaunch
        let s := s.addLaunch
          { l with parent := some own, parentUnit := (s.me.unit.map UnitRes.idx).getD 0, part := p.part, ctx := p.ctx, share := l.quota
                   pri := min l.pri p.pri, deps := deps, graph := p.graph, phase := p.phase, job := p.job }
        let s := s.modLaunch own fun q => { q with share := q.share - (1 + l.quota), childrenLeft := q.childrenLeft + 1 }
        ((s.later { op := .launchAdmit, ev := { id := n } }).answer d (BitVec.ofNat 64 n)).done
/-- LAUNCH. -/
def execLaunch (d a : Reg) (s : State) : Out := s.launchChild d a false
/-- LAUNCH.W. -/
def execLaunchW (d a : Reg) (s : State) : Out := s.launchChild d a true

end Sys2Proof.Machine
end

