-- ==== Sys2Proof/Decode.lean ====
section
/-! DEFINITION. The decoder and the encoder of instruction words and their literals (R98 to R110 and the encoding table of each entry). -/
namespace Sys2Proof

/-- Why an instruction's words are refused; each raises ILLEGAL_ENCODING (R100, R105 to R107). -/
inductive DecodeError where
  | reservedField | literalCount | reservedCode | badQualifier
  deriving DecidableEq, Repr

/-- The answer of the decoder. -/
abbrev Dec := Except DecodeError Instr

/-- rd, vd or rs1 of a B format: [23:19] (R104). -/
def fD (w : Lane) : Reg := w.extractLsb' 19 5
/-- rs1 or vs1: [18:14]. -/
def fA (w : Lane) : Reg := w.extractLsb' 14 5
/-- rs2 or vs2: [13:9]. -/
def fB (w : Lane) : Reg := w.extractLsb' 9 5
/-- A third register in fn9[8:4] (R105). -/
def fC (w : Lane) : Reg := w.extractLsb' 4 5
/-- imm14, off14 or cidx: [13:0]. -/
def fI (w : Lane) : BitVec 14 := w.extractLsb' 0 14
/-- The pattern field of V3: [8:5]. -/
def fP (w : Lane) : BitVec 4 := w.extractLsb' 5 4
/-- The mask field of V3: [4:2]. -/
def fK (w : Lane) : BitVec 3 := w.extractLsb' 2 3
/-- ssel of V3: [1:0]. -/
def fSs (w : Lane) : BitVec 2 := w.extractLsb' 0 2
/-- A three-bit register number in the rd field: [21:19] (R112). -/
def qD (w : Lane) : QReg := w.extractLsb' 19 3
/-- A three-bit register number in the rs1 field: [16:14]. -/
def qA (w : Lane) : QReg := w.extractLsb' 14 3
/-- A three-bit register number in the rs2 field: [11:9]. -/
def qB (w : Lane) : QReg := w.extractLsb' 9 3

/-- R107: a field that must be zero. -/
def zero {n : Nat} (f : BitVec n) (k : Dec) : Dec :=
  if f = 0 then k else .error .reservedField

/-- R100: an instruction without operand literals. -/
def noLits (ls : List Lane) (i : Instr) : Dec :=
  match ls with
  | [] => .ok i
  | _ => .error .literalCount

/-- Three registers, fn9 = 0 (R126, R186). -/
def dR3 (w : Lane) (ls : List Lane) (k : Reg → Reg → Reg → Instr) : Dec :=
  zero (w.extractLsb' 0 9) <| noLits ls (k (fD w) (fA w) (fB w))
/-- Four registers, the fourth in fn9[8:4] (R126, R130, R288). -/
def dR4 (w : Lane) (ls : List Lane) (k : Reg → Reg → Reg → Reg → Instr) : Dec :=
  zero (w.extractLsb' 0 4) <| noLits ls (k (fD w) (fA w) (fB w) (fC w))
/-- rd and rs1 only. -/
def dDA (w : Lane) (ls : List Lane) (k : Reg → Reg → Instr) : Dec :=
  zero (fI w) <| noLits ls (k (fD w) (fA w))
/-- rs1 only. -/
def dA (w : Lane) (ls : List Lane) (k : Reg → Instr) : Dec :=
  zero (fD w) <| zero (fI w) <| noLits ls (k (fA w))

/-- R129: one literal, or two with Z = 0. -/
def dLit (w : Lane) (ls : List Lane) : Dec :=
  match ls with
  | [l0] => .ok (.lit (fD w) (w.getLsbD 0) l0 none)
  | [l0, l1] => .ok (.lit (fD w) (w.getLsbD 0) l0 (some l1))
  | _ => .error .literalCount

/-- The qualifier literal of R106: reserved bits zero, ORD 1 to 3. -/
def decodeQual (l : Lane) : Except DecodeError (Option Qual) :=
  if l.extractLsb' 5 27 ≠ 0 then .error .badQualifier
  else match (l.extractLsb' 3 2).toNat with
    | 1 => .ok (some ⟨.acquire, l.extractLsb' 0 3⟩)
    | 2 => .ok (some ⟨.release, l.extractLsb' 0 3⟩)
    | 3 => .ok (some ⟨.acqrel, l.extractLsb' 0 3⟩)
    | _ => .error .badQualifier

/-- The optional qualifier literal that ends an M-format instruction (R100). -/
def dQual (ls : List Lane) (k : Option Qual → Instr) : Dec :=
  match ls with
  | [] => .ok (k none)
  | [l] => match decodeQual l with
    | .ok q => .ok (k q)
    | .error e => .error e
  | _ => .error .literalCount

/-- The M format with a mode (R142). -/
def dM (w : Lane) (ls : List Lane) (k : QReg → BitVec 3 → Reg → BitVec 13 → Option Qual → Instr) : Dec :=
  dQual ls (k (w.extractLsb' 21 3) (w.extractLsb' 18 3) (w.extractLsb' 13 5) (w.extractLsb' 0 13))
/-- The M format with one fixed mode (R142, R287). -/
def dMG (m : BitVec 3) (w : Lane) (ls : List Lane) (k : QReg → Reg → BitVec 13 → Option Qual → Instr) : Dec :=
  if w.extractLsb' 18 3 = m then dQual ls (k (w.extractLsb' 21 3) (w.extractLsb' 13 5) (w.extractLsb' 0 13))
  else .error .reservedCode

/-- QEXT and QINS: fn9[8] is X; the index is in fn9[2:0] or in rs2 (R145). -/
def dQIdx (w : Lane) (ls : List Lane) (k : BitVec 3 → Instr) (kx : Reg → Instr) : Dec :=
  zero (w.extractLsb' 3 5) <|
  if w.getLsbD 8 then zero (w.extractLsb' 0 3) <| noLits ls (kx (fB w))
  else zero (fB w) <| noLits ls (k (w.extractLsb' 0 3))

/-- The operand literal of AMO and RAMO (R152): WMASK, WIDTH 0 or 1, OP. -/
def decodeAmoLit (l : Lane) (k : BitVec 4 → Bool → BitVec 8 → Dec) : Dec :=
  zero (l.extractLsb' 16 16) <| zero (l.extractLsb' 5 3) <|
  k (l.extractLsb' 0 4) (l.getLsbD 4) (l.extractLsb' 8 8)
/-- AMO: one operand literal, then an optional qualifier literal (R151). -/
def dAmo (w : Lane) (ls : List Lane) : Dec :=
  match ls with
  | l :: rest => decodeAmoLit l fun op w64 wm => dM w rest fun q m b i ql => .amo q m b i op w64 wm ql
  | [] => .error .literalCount
/-- CAS: the literal holds WMASK and QN (R153). -/
def dCas (w : Lane) (ls : List Lane) : Dec :=
  match ls with
  | l :: rest => zero (l.extractLsb' 16 16) <| zero (l.extractLsb' 3 5) <|
      dM w rest fun q m b i ql => .cas q m b i (l.extractLsb' 0 3) (l.extractLsb' 8 8) ql
  | [] => .error .literalCount
/-- RAMO: exactly the AMO literal (R288). -/
def dRamo (w : Lane) (ls : List Lane) : Dec :=
  match ls with
  | [l] => decodeAmoLit l fun op w64 wm => .ok (.ramo (fD w) (fA w) (qB w) op w64 wm)
  | _ => .error .literalCount
/-- WLOAD: fn[0] is R; rs2 is used only with R (R240). -/
def dWload (w : Lane) (ls : List Lane) : Dec :=
  if w.getLsbD 0 then noLits ls (.wloadR (fA w) (fB w)) else zero (fB w) <| noLits ls (.wload (fA w))
/-- TOPKRD: fn[0] is N; without N the destination is a row register (R240). -/
def dTopk (w : Lane) (ls : List Lane) : Dec :=
  if w.getLsbD 0 then noLits ls (.topkrdN (fD w) (fA w))
  else zero (w.extractLsb' 22 2) <| noLits ls (.topkrd (qD w) (fA w))

/-- The second source by ssel (R105): ssel 1 takes the first literal and needs vs2 = 0; ssel 3 is reserved. -/
def dSrc (w : Lane) (ls : List Lane) (k : Src2 → List Lane → Dec) : Dec :=
  match (fSs w).toNat with
  | 0 => k (.vreg (fB w)) ls
  | 1 => match ls with
    | l :: rest => zero (fB w) <| k (.lit l) rest
    | [] => .error .literalCount
  | 2 => k (.xreg (fB w)) ls
  | _ => .error .reservedCode
/-- A V3 instruction whose only literal is that of its second source. -/
def withSrc (w : Lane) (ls : List Lane) (k : Src2 → Instr) : Dec :=
  dSrc w ls fun b rest => noLits rest (k b)
/-- Binary V3 (R207). -/
def dV3 (w : Lane) (ls : List Lane) (k : Reg → Reg → Src2 → BitVec 4 → BitVec 3 → Instr) : Dec :=
  withSrc w ls fun b => k (fD w) (fA w) b (fP w) (fK w)
/-- Unary V3 (R203): vs2 = 0, ssel = 0, no literal. -/
def dV1 (w : Lane) (ls : List Lane) (k : Reg → Reg → BitVec 4 → BitVec 3 → Instr) : Dec :=
  zero (fB w) <| zero (fSs w) <| noLits ls (k (fD w) (fA w) (fP w) (fK w))
/-- VCMP: the condition literal comes last (R212). -/
def dVcmp (w : Lane) (ls : List Lane) : Dec :=
  dSrc w ls fun b rest =>
    match rest with
    | [l] => zero (l.extractLsb' 4 28) <|
        .ok (.vcmp (qD w) (fA w) b (fP w) (fK w) (l.getLsbD 3) (l.extractLsb' 0 3))
    | _ => .error .literalCount
/-- VCVT: one control literal (R216). -/
def dVcvt (w : Lane) (ls : List Lane) : Dec :=
  match ls with
  | [l] => zero (l.extractLsb' 10 22) <|
      .ok (.vcvt (fD w) (fA w) (fP w) (fK w) (l.extractLsb' 8 2) (l.extractLsb' 6 2) (l.extractLsb' 3 3) (l.extractLsb' 0 3))
  | _ => .error .literalCount
/-- VQUANT: one control literal, mask 0 (R217). -/
def dVquant (w : Lane) (ls : List Lane) : Dec :=
  match ls with
  | [l] => zero (l.extractLsb' 9 23) <|
      .ok (.vquant (fD w) (fA w) (fP w) (l.extractLsb' 7 2) (l.extractLsb' 5 2) (l.extractLsb' 0 5))
  | _ => .error .literalCount
/-- VDEQ: one control literal, pattern 0 (R217). -/
def dVdeq (w : Lane) (ls : List Lane) : Dec :=
  match ls with
  | [l] => zero (l.extractLsb' 9 23) <|
      .ok (.vdeq (fD w) (fA w) (fK w) (l.extractLsb' 7 2) (l.extractLsb' 5 2) (l.extractLsb' 0 5))
  | _ => .error .literalCount

/-- Opcodes 0x00 to 0x0F of the map of R108. -/
def decode0 (op : Nat) (w : Lane) (ls : List Lane) : Dec :=
  match op with
  | 0x01 => dR3 w ls .add
  | 0x02 => dR3 w ls .sub
  | 0x03 => dR3 w ls .mul
  | 0x04 => dR3 w ls .mulh
  | 0x05 => dR3 w ls .mulhu
  | 0x06 => dR3 w ls .div
  | 0x07 => dR3 w ls .divu
  | 0x08 => dR3 w ls .rem
  | 0x09 => dR3 w ls .remu
  | 0x0A => dR3 w ls .and
  | 0x0B => dR3 w ls .or
  | 0x0C => dR3 w ls .xor
  | 0x0D => dR3 w ls .andn
  | 0x0E => dR3 w ls .shl
  | 0x0F => dR3 w ls .shr
  | _ => .ok (.illegalOpcode w)

/-- Opcodes 0x10 to 0x1F of the map of R108. -/
def decode1 (op : Nat) (w : Lane) (ls : List Lane) : Dec :=
  match op with
  | 0x10 => dR3 w ls .sar
  | 0x11 => dR3 w ls .rotr
  | 0x12 => dDA w ls .clz
  | 0x13 => dDA w ls .ctz
  | 0x14 => dDA w ls .popc
  | 0x15 => dR3 w ls .min
  | 0x16 => dR3 w ls .max
  | 0x17 => dR3 w ls .minu
  | 0x18 => dR3 w ls .maxu
  | 0x19 => dR3 w ls .slt
  | 0x1A => dR3 w ls .sltu
  | 0x1B => dR3 w ls .seq
  | 0x1C => dR4 w ls .sel
  | 0x1D => dR4 w ls .mad
  | 0x1E => zero (w.extractLsb' 1 8) <| noLits ls (.bfx (fD w) (fA w) (fB w) (w.getLsbD 0))
  | 0x1F => dR4 w ls .bfi
  | _ => .ok (.illegalOpcode w)

/-- Opcodes 0x20 to 0x2F of the map of R108. -/
def decode2 (op : Nat) (w : Lane) (ls : List Lane) : Dec :=
  match op with
  | 0x20 => noLits ls (.addi (fD w) (fA w) (fI w))
  | 0x21 => noLits ls (.muli (fD w) (fA w) (fI w))
  | 0x22 => noLits ls (.andi (fD w) (fA w) (fI w))
  | 0x23 => noLits ls (.ori (fD w) (fA w) (fI w))
  | 0x24 => noLits ls (.xori (fD w) (fA w) (fI w))
  | 0x25 => zero (w.extractLsb' 6 8) <| noLits ls (.shli (fD w) (fA w) (w.extractLsb' 0 6))
  | 0x26 => zero (w.extractLsb' 6 8) <| noLits ls (.shri (fD w) (fA w) (w.extractLsb' 0 6))
  | 0x27 => zero (w.extractLsb' 6 8) <| noLits ls (.sari (fD w) (fA w) (w.extractLsb' 0 6))
  | 0x28 => zero (w.extractLsb' 6 8) <| noLits ls (.rotri (fD w) (fA w) (w.extractLsb' 0 6))
  | 0x29 => noLits ls (.slti (fD w) (fA w) (fI w))
  | 0x2A => noLits ls (.lui (fD w) (w.extractLsb' 0 19))
  | 0x2B => zero (w.extractLsb' 1 18) <| dLit w ls
  | _ => .ok (.illegalOpcode w)

/-- Opcodes 0x30 to 0x3F of the map of R108. -/
def decode3 (op : Nat) (w : Lane) (ls : List Lane) : Dec :=
  match op with
  | 0x30 => noLits ls (.beq (fD w) (fA w) (fI w))
  | 0x31 => noLits ls (.bne (fD w) (fA w) (fI w))
  | 0x32 => noLits ls (.blt (fD w) (fA w) (fI w))
  | 0x33 => noLits ls (.bge (fD w) (fA w) (fI w))
  | 0x34 => noLits ls (.bltu (fD w) (fA w) (fI w))
  | 0x35 => noLits ls (.bgeu (fD w) (fA w) (fI w))
  | 0x36 => noLits ls (.j (w.extractLsb' 0 24))
  | 0x37 => noLits ls (.call (w.extractLsb' 0 24))
  | 0x38 => dA w ls .ret
  | 0x39 => zero (fA w) <| noLits ls (.loop (fD w) (fI w))
  | 0x3A => zero (w.extractLsb' 3 5) <| noLits ls (.rep (fD w) (fA w) (w.extractLsb' 8 6) (w.getLsbD 2) (w.getLsbD 1) (w.getLsbD 0))
  | 0x3B => zero (w.extractLsb' 0 24) <| noLits ls .nop
  | 0x3C => zero (w.extractLsb' 0 24) <| noLits ls .endStream
  | 0x3D => zero (fD w) <| noLits ls (.trap (w.extractLsb' 0 19))
  | 0x3E => zero (fD w) <| noLits ls (.brk (w.extractLsb' 0 19))
  | _ => .ok (.illegalOpcode w)

/-- Opcodes 0x40 to 0x4F of the map of R108. -/
def decode4 (op : Nat) (w : Lane) (ls : List Lane) : Dec :=
  match op with
  | 0x40 => dM w ls .ldq
  | 0x41 => dM w ls .ldqW
  | 0x42 => dM w ls .ldqWc
  | 0x43 => dM w ls .stq
  | 0x44 => dMG 4 w ls .ldg
  | 0x45 => dMG 4 w ls .stg
  | 0x46 => zero (w.extractLsb' 17 2) <| dQIdx w ls (.qext (fD w) (qA w)) (.qextX (fD w) (qA w))
  | 0x47 => zero (w.extractLsb' 22 2) <| dQIdx w ls (.qins (qD w) (fA w)) (.qinsX (qD w) (fA w))
  | 0x48 => zero (w.extractLsb' 22 2) <| zero (w.extractLsb' 17 2) <| zero (w.extractLsb' 12 2) <| zero (w.extractLsb' 0 4) <| noLits ls (.qrotm (qD w) (qA w) (qB w) (fC w))
  | 0x49 => zero (w.extractLsb' 22 2) <| zero (w.extractLsb' 17 2) <| zero (fI w) <| noLits ls (.qmov (qD w) (qA w))
  | 0x4A => zero (fA w) <| noLits ls (.lds (fD w) (fI w))
  | 0x4B => zero (fD w) <| noLits ls (.sts (fA w) (fI w))
  | 0x4C => noLits ls (.ldc (fD w) (fA w) (fI w))
  | 0x4D => dAmo w ls
  | 0x4E => dCas w ls
  | _ => .ok (.illegalOpcode w)

/-- Opcodes 0x50 to 0x5F of the map of R108. -/
def decode5 (op : Nat) (w : Lane) (ls : List Lane) : Dec :=
  match op with
  | 0x50 => zero (w.extractLsb' 22 2) <| zero (fI w) <| noLits ls (.cbinit (qD w) (fA w))
  | 0x51 => zero (w.extractLsb' 22 2) <| zero (fA w) <| noLits ls (.cbwaitf (qD w) (fI w))
  | 0x52 => zero (w.extractLsb' 22 2) <| zero (fA w) <| noLits ls (.cbwaite (qD w) (fI w))
  | 0x53 => zero (w.extractLsb' 22 2) <| zero (fA w) <| zero (w.extractLsb' 8 5) <| noLits ls (.cbadv (qD w) (w.getLsbD 13) (w.extractLsb' 0 8))
  | 0x54 => zero (w.extractLsb' 3 21) <| noLits ls (.fence (w.extractLsb' 0 3))
  | 0x55 => zero (w.extractLsb' 0 24) <| noLits ls .mark
  | 0x56 => zero (fD w) <| zero (w.extractLsb' 7 4) <| noLits ls (.barinit (fA w) (w.extractLsb' 11 3) (w.extractLsb' 0 7))
  | 0x57 => zero (fD w) <| zero (w.extractLsb' 7 6) <| noLits ls (.bararr (fA w) (w.getLsbD 13) (w.extractLsb' 0 7))
  | 0x58 => zero (w.extractLsb' 7 6) <| noLits ls (.barwait (fD w) (fA w) (w.getLsbD 13) (w.extractLsb' 0 7))
  | 0x59 => zero (fA w) <| noLits ls (.csrr (fD w) (fI w))
  | 0x5A => zero (fD w) <| noLits ls (.csrw (fA w) (fI w))
  | 0x5B => zero (fD w) <| noLits ls (.evt (fA w) (fI w))
  | _ => .ok (.illegalOpcode w)

/-- Opcodes 0x60 to 0x6F of the map of R108. -/
def decode6 (op : Nat) (w : Lane) (ls : List Lane) : Dec :=
  match op with
  | 0x60 => dMG 0 w ls .rldq
  | 0x61 => dMG 0 w ls .rstq
  | 0x62 => dMG 0 w ls .rstqNa
  | 0x63 => zero (w.extractLsb' 12 2) <| zero (w.extractLsb' 0 9) <| dRamo w ls
  | 0x64 => zero (w.extractLsb' 17 2) <| zero (w.extractLsb' 12 2) <| zero (w.extractLsb' 2 7) <| noLits ls (.rcas (fD w) (qA w) (qB w) (w.extractLsb' 0 2))
  | 0x65 => dR3 w ls .renq
  | 0x66 => dR4 w ls .rchase
  | 0x67 => zero (fB w) <| zero (w.extractLsb' 1 8) <| noLits ls (if w.getLsbD 0 then .colldefFree (fD w) (fA w) else .colldef (fD w) (fA w))
  | _ => .ok (.illegalOpcode w)

/-- Opcodes 0x70 to 0x7F of the map of R108. -/
def decode7 (op : Nat) (w : Lane) (ls : List Lane) : Dec :=
  match op with
  | 0x70 => dR3 w ls .shape
  | 0x71 => dA w ls .shfree
  | 0x72 => dDA w ls .post
  | 0x73 => dDA w ls .postTry
  | 0x74 => zero (w.extractLsb' 1 8) <| noLits ls (.rpost (fD w) (fA w) (fB w) (w.getLsbD 0))
  | 0x75 => dDA w ls .twait
  | 0x76 => dDA w ls .tstat
  | 0x77 => dA w ls .tclr
  | 0x78 => zero (w.extractLsb' 3 16) <| noLits ls (.tacq (fD w) (w.extractLsb' 0 3))
  | 0x79 => dA w ls .tend
  | 0x7A => dDA w ls .launch
  | 0x7B => dDA w ls .launchW
  | 0x7C => zero (fD w) <| zero (w.extractLsb' 3 11) <| noLits ls (.cancel (fA w) (w.extractLsb' 0 3))
  | 0x7D => zero (w.extractLsb' 3 11) <| noLits ls (.cwait (fD w) (fA w) (w.extractLsb' 0 3))
  | 0x7E => zero (w.extractLsb' 3 11) <| noLits ls (.cread (fD w) (fA w) (w.extractLsb' 0 3))
  | _ => .ok (.illegalOpcode w)

/-- Opcodes 0x80 to 0x8F of the map of R108. -/
def decode8 (op : Nat) (w : Lane) (ls : List Lane) : Dec :=
  match op with
  | 0x80 => dDA w ls .dqpush
  | 0x81 => zero (w.extractLsb' 0 19) <| noLits ls (.dqpop (fD w))
  | 0x82 => dDA w ls .dqsteal
  | 0x83 => zero (fD w) <| zero (w.extractLsb' 1 8) <| dWload w ls
  | 0x84 => zero (w.extractLsb' 0 24) <| noLits ls .wswap
  | 0x85 => zero (fB w) <| zero (w.extractLsb' 1 8) <| dTopk w ls
  | 0x86 => zero (w.extractLsb' 0 24) <| noLits ls .topkclr
  | 0x87 => zero (w.extractLsb' 1 18) <| noLits ls (.demand (fD w) (w.getLsbD 0))
  | 0x88 => dR3 w ls .feed
  | 0x89 => dR3 w ls .drain
  | 0x8A => dA w ls .coda
  | 0x8B => zero (w.extractLsb' 3 11) <| noLits ls (.rollstat (fD w) (fA w) (w.extractLsb' 0 3))
  | 0x8C => dDA w ls .tagalloc
  | 0x8D => dA w ls .tagfree
  | 0x8E => dR3 w ls .shot
  | 0x8F => zero (w.extractLsb' 1 13) <| noLits ls (.catchTag (fD w) (fA w) (w.getLsbD 0))
  | _ => .ok (.illegalOpcode w)

/-- Opcodes 0x90 to 0x9F of the map of R108. -/
def decode9 (op : Nat) (w : Lane) (ls : List Lane) : Dec :=
  match op with
  | 0x90 => zero (w.extractLsb' 3 11) <| noLits ls (.tagstat (fD w) (fA w) (w.extractLsb' 0 3))
  | 0x98 => zero (w.extractLsb' 1 23) <| noLits ls (if w.getLsbD 0 then .rfeK else .rfe)
  | 0x99 => zero (fA w) <| noLits ls (.srr (fD w) (fI w))
  | 0x9A => zero (fD w) <| noLits ls (.srw (fA w) (fI w))
  | 0x9B => dDA w ls .idle
  | _ => .ok (.illegalOpcode w)

/-- Opcodes 0xA0 to 0xAF of the map of R108. -/
def decodeA (op : Nat) (w : Lane) (ls : List Lane) : Dec :=
  match op with
  | 0xA0 => noLits ls (.vaddi (w.extractLsb' 20 5) (w.extractLsb' 0 20))
  | 0xA1 => noLits ls (.vaddi (w.extractLsb' 20 5) (w.extractLsb' 0 20))
  | 0xA2 => noLits ls (.vmuli (w.extractLsb' 20 5) (w.extractLsb' 0 20))
  | 0xA3 => noLits ls (.vmuli (w.extractLsb' 20 5) (w.extractLsb' 0 20))
  | 0xA4 => noLits ls (.vmovi (w.extractLsb' 20 5) (w.extractLsb' 0 20))
  | 0xA5 => noLits ls (.vmovi (w.extractLsb' 20 5) (w.extractLsb' 0 20))
  | 0xA6 => noLits ls (.vmaxi (w.extractLsb' 20 5) (w.extractLsb' 0 20))
  | 0xA7 => noLits ls (.vmaxi (w.extractLsb' 20 5) (w.extractLsb' 0 20))
  | 0xA8 => noLits ls (.vmini (w.extractLsb' 20 5) (w.extractLsb' 0 20))
  | 0xA9 => noLits ls (.vmini (w.extractLsb' 20 5) (w.extractLsb' 0 20))
  | _ => .ok (.illegalOpcode w)

/-- Opcodes 0xB0 to 0xBF of the map of R108. -/
def decodeB (op : Nat) (w : Lane) (ls : List Lane) : Dec :=
  match op with
  | 0xB0 => dV3 w ls .vadd
  | 0xB1 => dV3 w ls .vsub
  | 0xB2 => dV3 w ls .vmul
  | 0xB3 => dV3 w ls .vfma
  | 0xB4 => dV3 w ls .vmadd
  | 0xB5 => dV3 w ls .vmin
  | 0xB6 => dV3 w ls .vmax
  | 0xB7 => dV1 w ls .vabs
  | 0xB8 => dV1 w ls .vneg
  | 0xB9 => dV1 w ls .vrcp
  | 0xBA => dV1 w ls .vrsq
  | 0xBB => dV1 w ls .vsqrt
  | 0xBC => dV1 w ls .vexp2
  | 0xBD => dV1 w ls .vlog2
  | 0xBE => dV1 w ls .vtanh
  | 0xBF => dV1 w ls .vsigm
  | _ => .ok (.illegalOpcode w)

/-- Opcodes 0xC0 to 0xCF of the map of R108. -/
def decodeC (op : Nat) (w : Lane) (ls : List Lane) : Dec :=
  match op with
  | 0xC0 => zero (w.extractLsb' 22 2) <| dVcmp w ls
  | 0xC1 => dV3 w ls .vsel
  | 0xC2 => dV3 w ls .viadd
  | 0xC3 => dV3 w ls .visub
  | 0xC4 => dV3 w ls .vimul
  | 0xC5 => dV3 w ls .vimin
  | 0xC6 => dV3 w ls .vimax
  | 0xC7 => dV1 w ls .viabs
  | 0xC8 => dV3 w ls .vand
  | 0xC9 => dV3 w ls .vor
  | 0xCA => dV3 w ls .vxor
  | 0xCB => dV3 w ls .vshl
  | 0xCC => dV3 w ls .vshr
  | 0xCD => dV3 w ls .vsar
  | 0xCE => zero (fB w) <| zero (fSs w) <| dVcvt w ls
  | 0xCF => zero (fB w) <| zero (w.extractLsb' 0 5) <| dVquant w ls
  | _ => .ok (.illegalOpcode w)

/-- Opcodes 0xD0 to 0xDF of the map of R108. -/
def decodeD (op : Nat) (w : Lane) (ls : List Lane) : Dec :=
  match op with
  | 0xD0 => zero (fB w) <| zero (fP w) <| zero (fSs w) <| dVdeq w ls
  | 0xD1 => zero (w.extractLsb' 10 4) <| zero (fSs w) <| noLits ls (.vrsum (fD w) (fA w) (w.getLsbD 9) (fP w) (fK w))
  | 0xD2 => zero (w.extractLsb' 10 4) <| zero (fSs w) <| noLits ls (.vrmax (fD w) (fA w) (w.getLsbD 9) (fP w) (fK w))
  | 0xD3 => zero (w.extractLsb' 10 4) <| zero (fSs w) <| noLits ls (.vrmin (fD w) (fA w) (w.getLsbD 9) (fP w) (fK w))
  | 0xD4 => zero (w.extractLsb' 12 2) <| zero (fSs w) <| noLits ls (.vscan (fD w) (fA w) (w.getLsbD 11) (w.extractLsb' 9 2) (fP w) (fK w))
  | 0xD5 => dV1 w ls .vmov
  | 0xD6 => zero (fA w) <| zero (fP w) <| withSrc w ls fun b => .vbcast (fD w) b (fK w)
  | 0xD7 => zero (fK w) <| withSrc w ls fun b => .vext (fD w) (fA w) b (fP w)
  | 0xD8 => zero (fP w) <| zero (fK w) <| withSrc w ls fun b => .vins (fD w) (fA w) b
  | 0xD9 => noLits ls (.vaddc (fD w) (fA w) (fI w))
  | 0xDA => noLits ls (.vmulc (fD w) (fA w) (fI w))
  | 0xDB => noLits ls (.vfmac (fD w) (fA w) (fI w))
  | 0xDC => noLits ls (.vmaddc (fD w) (fA w) (fI w))
  | _ => .ok (.illegalOpcode w)

/-- Opcodes 0xE0 to 0xEF of the map of R108. -/
def decodeE (op : Nat) (w : Lane) (ls : List Lane) : Dec :=
  match op with
  | 0xE0 => noLits ls (.vld (fD w) (fA w) (fI w))
  | 0xE1 => noLits ls (.vst (fD w) (fA w) (fI w))
  | 0xE2 => zero (fA w) <| noLits ls (.vlds (fD w) (fI w))
  | 0xE3 => zero (fA w) <| noLits ls (.vsts (fD w) (fI w))
  | 0xE4 => zero (w.extractLsb' 22 2) <| zero (w.extractLsb' 17 2) <| zero (w.extractLsb' 12 2) <| zero (w.extractLsb' 0 9) <| noLits ls (.vmand (qD w) (qA w) (qB w))
  | 0xE5 => zero (w.extractLsb' 22 2) <| zero (w.extractLsb' 17 2) <| zero (w.extractLsb' 12 2) <| zero (w.extractLsb' 0 9) <| noLits ls (.vmor (qD w) (qA w) (qB w))
  | 0xE6 => zero (w.extractLsb' 22 2) <| zero (w.extractLsb' 17 2) <| zero (fI w) <| noLits ls (.vmnot (qD w) (qA w))
  | 0xE7 => zero (w.extractLsb' 17 2) <| zero (fI w) <| noLits ls (.vmpop (fD w) (qA w))
  | 0xE8 => zero (fD w) <| zero (fB w) <| zero (fSs w) <| noLits ls (.vcqpush (fA w) (fP w) (fK w))
  | 0xE9 => zero (w.extractLsb' 17 2) <| zero (fI w) <| noLits ls (.vcqpop (fD w) (qA w))
  | 0xEA => dA w ls .vcqbal
  | 0xEB => zero (w.extractLsb' 0 19) <| noLits ls (.vcqcnt (fD w))
  | 0xEC => zero (w.extractLsb' 3 21) <| noLits ls (.vsett (w.extractLsb' 0 3))
  | 0xED => zero (fD w) <| noLits ls (.vsetw (fA w) (fI w))
  | 0xEE => zero (w.extractLsb' 23 1) <| zero (w.extractLsb' 5 6) <| noLits ls (.vpat (w.extractLsb' 19 4) (fA w) (w.extractLsb' 11 3) (w.extractLsb' 0 5))
  | 0xEF => zero (fI w) <| noLits ls (.vaclr (fD w) (fA w))
  | _ => .ok (.illegalOpcode w)

/-- Decoding by the opcode byte [31:24] (R104, R108); the 56 unused codes give the row ILLEGAL_OPCODE (R110). -/
def decodeRaw (w : Lane) (ls : List Lane) : Dec :=
  let op := (w.extractLsb' 24 8).toNat
  match op / 16 with
  | 0 => decode0 op w ls
  | 1 => decode1 op w ls
  | 2 => decode2 op w ls
  | 3 => decode3 op w ls
  | 4 => decode4 op w ls
  | 5 => decode5 op w ls
  | 6 => decode6 op w ls
  | 7 => decode7 op w ls
  | 8 => decode8 op w ls
  | 9 => decode9 op w ls
  | 10 => decodeA op w ls
  | 11 => decodeB op w ls
  | 12 => decodeC op w ls
  | 13 => decodeD op w ls
  | 14 => decodeE op w ls
  | _ => .ok (.illegalOpcode w)

/-- The decoder: total on any word and any literals; a term that breaks an encoding rule is refused (R107). -/
def decode (w : Lane) (ls : List Lane) : Dec :=
  match decodeRaw w ls with
  | .ok i => if i.wellFormed then .ok i else .error .reservedCode
  | .error e => .error e

/-- One bit of an encoding. -/
def bit (b : Bool) : BitVec 1 := if b then 1#1 else 0#1
/-- The qualifier literal (R106). -/
def qualLits : Option Qual → List Lane
  | none => []
  | some q => [0#27 ++ (match q.ord with | .acquire => 1#2 | .release => 2#2 | .acqrel => 3#2) ++ q.scope]
/-- vs2 of a second source (R105). -/
def src2Reg : Src2 → Reg
  | .vreg v => v
  | .lit _ => 0
  | .xreg x => x
/-- ssel of a second source (R105). -/
def src2Sel : Src2 → BitVec 2
  | .vreg _ => 0
  | .lit _ => 1
  | .xreg _ => 2
/-- The operand literal of a second source. -/
def src2Lits : Src2 → List Lane
  | .lit l => [l]
  | _ => []

/-- The words of an instruction, the instruction word first and then its literals (R100, R104 and each entry);
the steps that have no encoding have no words. -/
def encode : Instr → Option (List Lane)
  | .add d a b => some [0x01#8 ++ d ++ a ++ b ++ 0#9]
  | .sub d a b => some [0x02#8 ++ d ++ a ++ b ++ 0#9]
  | .mul d a b => some [0x03#8 ++ d ++ a ++ b ++ 0#9]
  | .mulh d a b => some [0x04#8 ++ d ++ a ++ b ++ 0#9]
  | .mulhu d a b => some [0x05#8 ++ d ++ a ++ b ++ 0#9]
  | .div d a b => some [0x06#8 ++ d ++ a ++ b ++ 0#9]
  | .divu d a b => some [0x07#8 ++ d ++ a ++ b ++ 0#9]
  | .rem d a b => some [0x08#8 ++ d ++ a ++ b ++ 0#9]
  | .remu d a b => some [0x09#8 ++ d ++ a ++ b ++ 0#9]
  | .and d a b => some [0x0A#8 ++ d ++ a ++ b ++ 0#9]
  | .or d a b => some [0x0B#8 ++ d ++ a ++ b ++ 0#9]
  | .xor d a b => some [0x0C#8 ++ d ++ a ++ b ++ 0#9]
  | .andn d a b => some [0x0D#8 ++ d ++ a ++ b ++ 0#9]
  | .shl d a b => some [0x0E#8 ++ d ++ a ++ b ++ 0#9]
  | .shr d a b => some [0x0F#8 ++ d ++ a ++ b ++ 0#9]
  | .sar d a b => some [0x10#8 ++ d ++ a ++ b ++ 0#9]
  | .rotr d a b => some [0x11#8 ++ d ++ a ++ b ++ 0#9]
  | .min d a b => some [0x15#8 ++ d ++ a ++ b ++ 0#9]
  | .max d a b => some [0x16#8 ++ d ++ a ++ b ++ 0#9]
  | .minu d a b => some [0x17#8 ++ d ++ a ++ b ++ 0#9]
  | .maxu d a b => some [0x18#8 ++ d ++ a ++ b ++ 0#9]
  | .slt d a b => some [0x19#8 ++ d ++ a ++ b ++ 0#9]
  | .sltu d a b => some [0x1A#8 ++ d ++ a ++ b ++ 0#9]
  | .seq d a b => some [0x1B#8 ++ d ++ a ++ b ++ 0#9]
  | .clz d a => some [0x12#8 ++ d ++ a ++ 0#14]
  | .ctz d a => some [0x13#8 ++ d ++ a ++ 0#14]
  | .popc d a => some [0x14#8 ++ d ++ a ++ 0#14]
  | .sel d a b c => some [0x1C#8 ++ d ++ a ++ b ++ c ++ 0#4]
  | .mad d a b c => some [0x1D#8 ++ d ++ a ++ b ++ c ++ 0#4]
  | .bfx d a b s => some [0x1E#8 ++ d ++ a ++ b ++ 0#8 ++ bit s]
  | .bfi d a b c => some [0x1F#8 ++ d ++ a ++ b ++ c ++ 0#4]
  | .addi d a i => some [0x20#8 ++ d ++ a ++ i]
  | .muli d a i => some [0x21#8 ++ d ++ a ++ i]
  | .andi d a i => some [0x22#8 ++ d ++ a ++ i]
  | .ori d a i => some [0x23#8 ++ d ++ a ++ i]
  | .xori d a i => some [0x24#8 ++ d ++ a ++ i]
  | .slti d a i => some [0x29#8 ++ d ++ a ++ i]
  | .shli d a s => some [0x25#8 ++ d ++ a ++ 0#8 ++ s]
  | .shri d a s => some [0x26#8 ++ d ++ a ++ 0#8 ++ s]
  | .sari d a s => some [0x27#8 ++ d ++ a ++ 0#8 ++ s]
  | .rotri d a s => some [0x28#8 ++ d ++ a ++ 0#8 ++ s]
  | .lui d i => some [0x2A#8 ++ d ++ i]
  | .lit d z l0 none => some [0x2B#8 ++ d ++ 0#18 ++ bit z, l0]
  | .lit d z l0 (some l1) => some [0x2B#8 ++ d ++ 0#18 ++ bit z, l0, l1]
  | .beq a b o => some [0x30#8 ++ a ++ b ++ o]
  | .bne a b o => some [0x31#8 ++ a ++ b ++ o]
  | .blt a b o => some [0x32#8 ++ a ++ b ++ o]
  | .bge a b o => some [0x33#8 ++ a ++ b ++ o]
  | .bltu a b o => some [0x34#8 ++ a ++ b ++ o]
  | .bgeu a b o => some [0x35#8 ++ a ++ b ++ o]
  | .j o => some [0x36#8 ++ o]
  | .call o => some [0x37#8 ++ o]
  | .ret a => some [0x38#8 ++ 0#5 ++ a ++ 0#14]
  | .loop a o => some [0x39#8 ++ a ++ 0#5 ++ o]
  | .rep c a istep s2 s1 sd => some [0x3A#8 ++ c ++ a ++ istep ++ 0#5 ++ bit s2 ++ bit s1 ++ bit sd]
  | .nop => some [0x3B#8 ++ 0#24]
  | .endStream => some [0x3C#8 ++ 0#24]
  | .trap i => some [0x3D#8 ++ 0#5 ++ i]
  | .brk i => some [0x3E#8 ++ 0#5 ++ i]
  | .ldq q m b i ql => some ((0x40#8 ++ q ++ m ++ b ++ i) :: qualLits ql)
  | .ldqW q m b i ql => some ((0x41#8 ++ q ++ m ++ b ++ i) :: qualLits ql)
  | .ldqWc q m b i ql => some ((0x42#8 ++ q ++ m ++ b ++ i) :: qualLits ql)
  | .stq q m b i ql => some ((0x43#8 ++ q ++ m ++ b ++ i) :: qualLits ql)
  | .ldg q b i ql => some ((0x44#8 ++ q ++ 4#3 ++ b ++ i) :: qualLits ql)
  | .stg q b i ql => some ((0x45#8 ++ q ++ 4#3 ++ b ++ i) :: qualLits ql)
  | .qext d a k => some [0x46#8 ++ d ++ 0#2 ++ a ++ 0#5 ++ 0#1 ++ 0#5 ++ k]
  | .qextX d a b => some [0x46#8 ++ d ++ 0#2 ++ a ++ b ++ 1#1 ++ 0#8]
  | .qins d a k => some [0x47#8 ++ 0#2 ++ d ++ a ++ 0#5 ++ 0#1 ++ 0#5 ++ k]
  | .qinsX d a b => some [0x47#8 ++ 0#2 ++ d ++ a ++ b ++ 1#1 ++ 0#8]
  | .qrotm d a b c => some [0x48#8 ++ 0#2 ++ d ++ 0#2 ++ a ++ 0#2 ++ b ++ c ++ 0#4]
  | .qmov d a => some [0x49#8 ++ 0#2 ++ d ++ 0#2 ++ a ++ 0#14]
  | .lds d i => some [0x4A#8 ++ d ++ 0#5 ++ i]
  | .sts a i => some [0x4B#8 ++ 0#5 ++ a ++ i]
  | .ldc d a i => some [0x4C#8 ++ d ++ a ++ i]
  | .amo q m b i op w64 wm ql => some ((0x4D#8 ++ q ++ m ++ b ++ i) :: (0#16 ++ wm ++ 0#3 ++ bit w64 ++ op) :: qualLits ql)
  | .cas q m b i qn wm ql => some ((0x4E#8 ++ q ++ m ++ b ++ i) :: (0#16 ++ wm ++ 0#5 ++ qn) :: qualLits ql)
  | .cbinit c a => some [0x50#8 ++ 0#2 ++ c ++ a ++ 0#14]
  | .cbwaitf c n => some [0x51#8 ++ 0#2 ++ c ++ 0#5 ++ n]
  | .cbwaite c n => some [0x52#8 ++ 0#2 ++ c ++ 0#5 ++ n]
  | .cbadv c p k => some [0x53#8 ++ 0#2 ++ c ++ 0#5 ++ bit p ++ 0#5 ++ k]
  | .fence s => some [0x54#8 ++ 0#21 ++ s]
  | .mark => some [0x55#8 ++ 0#24]
  | .barinit a s i => some [0x56#8 ++ 0#5 ++ a ++ s ++ 0#4 ++ i]
  | .bararr a r i => some [0x57#8 ++ 0#5 ++ a ++ bit r ++ 0#6 ++ i]
  | .barwait d a r i => some [0x58#8 ++ d ++ a ++ bit r ++ 0#6 ++ i]
  | .csrr d i => some [0x59#8 ++ d ++ 0#5 ++ i]
  | .csrw a i => some [0x5A#8 ++ 0#5 ++ a ++ i]
  | .evt a i => some [0x5B#8 ++ 0#5 ++ a ++ i]
  | .rldq q b i ql => some ((0x60#8 ++ q ++ 0#3 ++ b ++ i) :: qualLits ql)
  | .rstq q b i ql => some ((0x61#8 ++ q ++ 0#3 ++ b ++ i) :: qualLits ql)
  | .rstqNa q b i ql => some ((0x62#8 ++ q ++ 0#3 ++ b ++ i) :: qualLits ql)
  | .ramo d a q op w64 wm => some [0x63#8 ++ d ++ a ++ 0#2 ++ q ++ 0#9, 0#16 ++ wm ++ 0#3 ++ bit w64 ++ op]
  | .rcas d a b n => some [0x64#8 ++ d ++ 0#2 ++ a ++ 0#2 ++ b ++ 0#7 ++ n]
  | .renq d a b => some [0x65#8 ++ d ++ a ++ b ++ 0#9]
  | .rchase d a b c => some [0x66#8 ++ d ++ a ++ b ++ c ++ 0#4]
  | .colldef d a => some [0x67#8 ++ d ++ a ++ 0#14]
  | .colldefFree d a => some [0x67#8 ++ d ++ a ++ 0#5 ++ 1#9]
  | .shape d a b => some [0x70#8 ++ d ++ a ++ b ++ 0#9]
  | .feed d a b => some [0x88#8 ++ d ++ a ++ b ++ 0#9]
  | .drain d a b => some [0x89#8 ++ d ++ a ++ b ++ 0#9]
  | .shot d a b => some [0x8E#8 ++ d ++ a ++ b ++ 0#9]
  | .post d a => some [0x72#8 ++ d ++ a ++ 0#14]
  | .postTry d a => some [0x73#8 ++ d ++ a ++ 0#14]
  | .twait d a => some [0x75#8 ++ d ++ a ++ 0#14]
  | .tstat d a => some [0x76#8 ++ d ++ a ++ 0#14]
  | .launch d a => some [0x7A#8 ++ d ++ a ++ 0#14]
  | .launchW d a => some [0x7B#8 ++ d ++ a ++ 0#14]
  | .dqpush d a => some [0x80#8 ++ d ++ a ++ 0#14]
  | .dqsteal d a => some [0x82#8 ++ d ++ a ++ 0#14]
  | .tagalloc d a => some [0x8C#8 ++ d ++ a ++ 0#14]
  | .idle d a => some [0x9B#8 ++ d ++ a ++ 0#14]
  | .shfree a => some [0x71#8 ++ 0#5 ++ a ++ 0#14]
  | .tclr a => some [0x77#8 ++ 0#5 ++ a ++ 0#14]
  | .tend a => some [0x79#8 ++ 0#5 ++ a ++ 0#14]
  | .coda a => some [0x8A#8 ++ 0#5 ++ a ++ 0#14]
  | .tagfree a => some [0x8D#8 ++ 0#5 ++ a ++ 0#14]
  | .rpost d a b t => some [0x74#8 ++ d ++ a ++ b ++ 0#8 ++ bit t]
  | .tacq d c => some [0x78#8 ++ d ++ 0#16 ++ c]
  | .cancel a l => some [0x7C#8 ++ 0#5 ++ a ++ 0#11 ++ l]
  | .cwait d a l => some [0x7D#8 ++ d ++ a ++ 0#11 ++ l]
  | .cread d a l => some [0x7E#8 ++ d ++ a ++ 0#11 ++ l]
  | .rollstat d a l => some [0x8B#8 ++ d ++ a ++ 0#11 ++ l]
  | .tagstat d a l => some [0x90#8 ++ d ++ a ++ 0#11 ++ l]
  | .dqpop d => some [0x81#8 ++ d ++ 0#19]
  | .wload a => some [0x83#8 ++ 0#5 ++ a ++ 0#14]
  | .wloadR a b => some [0x83#8 ++ 0#5 ++ a ++ b ++ 1#9]
  | .wswap => some [0x84#8 ++ 0#24]
  | .topkrd d a => some [0x85#8 ++ 0#2 ++ d ++ a ++ 0#14]
  | .topkrdN d a => some [0x85#8 ++ d ++ a ++ 0#5 ++ 1#9]
  | .topkclr => some [0x86#8 ++ 0#24]
  | .demand d t => some [0x87#8 ++ d ++ 0#18 ++ bit t]
  | .catchTag d a t => some [0x8F#8 ++ d ++ a ++ 0#13 ++ bit t]
  | .rfe => some [0x98#8 ++ 0#24]
  | .rfeK => some [0x98#8 ++ 0#15 ++ 1#9]
  | .srr d i => some [0x99#8 ++ d ++ 0#5 ++ i]
  | .srw a i => some [0x9A#8 ++ 0#5 ++ a ++ i]
  | .vaddi d i => some [0x50#7 ++ d ++ i]
  | .vmuli d i => some [0x51#7 ++ d ++ i]
  | .vmovi d i => some [0x52#7 ++ d ++ i]
  | .vmaxi d i => some [0x53#7 ++ d ++ i]
  | .vmini d i => some [0x54#7 ++ d ++ i]
  | .vadd d a b p k => some ((0xB0#8 ++ d ++ a ++ src2Reg b ++ p ++ k ++ src2Sel b) :: src2Lits b)
  | .vsub d a b p k => some ((0xB1#8 ++ d ++ a ++ src2Reg b ++ p ++ k ++ src2Sel b) :: src2Lits b)
  | .vmul d a b p k => some ((0xB2#8 ++ d ++ a ++ src2Reg b ++ p ++ k ++ src2Sel b) :: src2Lits b)
  | .vfma d a b p k => some ((0xB3#8 ++ d ++ a ++ src2Reg b ++ p ++ k ++ src2Sel b) :: src2Lits b)
  | .vmadd d a b p k => some ((0xB4#8 ++ d ++ a ++ src2Reg b ++ p ++ k ++ src2Sel b) :: src2Lits b)
  | .vmin d a b p k => some ((0xB5#8 ++ d ++ a ++ src2Reg b ++ p ++ k ++ src2Sel b) :: src2Lits b)
  | .vmax d a b p k => some ((0xB6#8 ++ d ++ a ++ src2Reg b ++ p ++ k ++ src2Sel b) :: src2Lits b)
  | .vsel d a b p k => some ((0xC1#8 ++ d ++ a ++ src2Reg b ++ p ++ k ++ src2Sel b) :: src2Lits b)
  | .viadd d a b p k => some ((0xC2#8 ++ d ++ a ++ src2Reg b ++ p ++ k ++ src2Sel b) :: src2Lits b)
  | .visub d a b p k => some ((0xC3#8 ++ d ++ a ++ src2Reg b ++ p ++ k ++ src2Sel b) :: src2Lits b)
  | .vimul d a b p k => some ((0xC4#8 ++ d ++ a ++ src2Reg b ++ p ++ k ++ src2Sel b) :: src2Lits b)
  | .vimin d a b p k => some ((0xC5#8 ++ d ++ a ++ src2Reg b ++ p ++ k ++ src2Sel b) :: src2Lits b)
  | .vimax d a b p k => some ((0xC6#8 ++ d ++ a ++ src2Reg b ++ p ++ k ++ src2Sel b) :: src2Lits b)
  | .vand d a b p k => some ((0xC8#8 ++ d ++ a ++ src2Reg b ++ p ++ k ++ src2Sel b) :: src2Lits b)
  | .vor d a b p k => some ((0xC9#8 ++ d ++ a ++ src2Reg b ++ p ++ k ++ src2Sel b) :: src2Lits b)
  | .vxor d a b p k => some ((0xCA#8 ++ d ++ a ++ src2Reg b ++ p ++ k ++ src2Sel b) :: src2Lits b)
  | .vshl d a b p k => some ((0xCB#8 ++ d ++ a ++ src2Reg b ++ p ++ k ++ src2Sel b) :: src2Lits b)
  | .vshr d a b p k => some ((0xCC#8 ++ d ++ a ++ src2Reg b ++ p ++ k ++ src2Sel b) :: src2Lits b)
  | .vsar d a b p k => some ((0xCD#8 ++ d ++ a ++ src2Reg b ++ p ++ k ++ src2Sel b) :: src2Lits b)
  | .vabs d a p k => some [0xB7#8 ++ d ++ a ++ 0#5 ++ p ++ k ++ 0#2]
  | .vneg d a p k => some [0xB8#8 ++ d ++ a ++ 0#5 ++ p ++ k ++ 0#2]
  | .vrcp d a p k => some [0xB9#8 ++ d ++ a ++ 0#5 ++ p ++ k ++ 0#2]
  | .vrsq d a p k => some [0xBA#8 ++ d ++ a ++ 0#5 ++ p ++ k ++ 0#2]
  | .vsqrt d a p k => some [0xBB#8 ++ d ++ a ++ 0#5 ++ p ++ k ++ 0#2]
  | .vexp2 d a p k => some [0xBC#8 ++ d ++ a ++ 0#5 ++ p ++ k ++ 0#2]
  | .vlog2 d a p k => some [0xBD#8 ++ d ++ a ++ 0#5 ++ p ++ k ++ 0#2]
  | .vtanh d a p k => some [0xBE#8 ++ d ++ a ++ 0#5 ++ p ++ k ++ 0#2]
  | .vsigm d a p k => some [0xBF#8 ++ d ++ a ++ 0#5 ++ p ++ k ++ 0#2]
  | .viabs d a p k => some [0xC7#8 ++ d ++ a ++ 0#5 ++ p ++ k ++ 0#2]
  | .vmov d a p k => some [0xD5#8 ++ d ++ a ++ 0#5 ++ p ++ k ++ 0#2]
  | .vcmp d a b p k u cond => some ((0xC0#8 ++ 0#2 ++ d ++ a ++ src2Reg b ++ p ++ k ++ src2Sel b) :: (src2Lits b ++ [0#28 ++ bit u ++ cond]))
  | .vcvt d a p k part rm dst src => some [0xCE#8 ++ d ++ a ++ 0#5 ++ p ++ k ++ 0#2, 0#22 ++ part ++ rm ++ dst ++ src]
  | .vquant d a p rm blk fmt => some [0xCF#8 ++ d ++ a ++ 0#5 ++ p ++ 0#5, 0#23 ++ rm ++ blk ++ fmt]
  | .vdeq d a k rm blk fmt => some [0xD0#8 ++ d ++ a ++ 0#5 ++ 0#4 ++ k ++ 0#2, 0#23 ++ rm ++ blk ++ fmt]
  | .vrsum d a b p k => some [0xD1#8 ++ d ++ a ++ 0#4 ++ bit b ++ p ++ k ++ 0#2]
  | .vrmax d a b p k => some [0xD2#8 ++ d ++ a ++ 0#4 ++ bit b ++ p ++ k ++ 0#2]
  | .vrmin d a b p k => some [0xD3#8 ++ d ++ a ++ 0#4 ++ bit b ++ p ++ k ++ 0#2]
  | .vscan d a row op p k => some [0xD4#8 ++ d ++ a ++ 0#2 ++ bit row ++ op ++ p ++ k ++ 0#2]
  | .vbcast d b k => some ((0xD6#8 ++ d ++ 0#5 ++ src2Reg b ++ 0#4 ++ k ++ src2Sel b) :: src2Lits b)
  | .vext d a b p => some ((0xD7#8 ++ d ++ a ++ src2Reg b ++ p ++ 0#3 ++ src2Sel b) :: src2Lits b)
  | .vins d a b => some ((0xD8#8 ++ d ++ a ++ src2Reg b ++ 0#4 ++ 0#3 ++ src2Sel b) :: src2Lits b)
  | .vaddc d a c => some [0xD9#8 ++ d ++ a ++ c]
  | .vmulc d a c => some [0xDA#8 ++ d ++ a ++ c]
  | .vfmac d a c => some [0xDB#8 ++ d ++ a ++ c]
  | .vmaddc d a c => some [0xDC#8 ++ d ++ a ++ c]
  | .vld d a i => some [0xE0#8 ++ d ++ a ++ i]
  | .vst d a i => some [0xE1#8 ++ d ++ a ++ i]
  | .vlds d i => some [0xE2#8 ++ d ++ 0#5 ++ i]
  | .vsts d i => some [0xE3#8 ++ d ++ 0#5 ++ i]
  | .vmand d a b => some [0xE4#8 ++ 0#2 ++ d ++ 0#2 ++ a ++ 0#2 ++ b ++ 0#9]
  | .vmor d a b => some [0xE5#8 ++ 0#2 ++ d ++ 0#2 ++ a ++ 0#2 ++ b ++ 0#9]
  | .vmnot d a => some [0xE6#8 ++ 0#2 ++ d ++ 0#2 ++ a ++ 0#14]
  | .vmpop d a => some [0xE7#8 ++ d ++ 0#2 ++ a ++ 0#14]
  | .vcqpush a p k => some [0xE8#8 ++ 0#5 ++ a ++ 0#5 ++ p ++ k ++ 0#2]
  | .vcqpop d f => some [0xE9#8 ++ d ++ 0#2 ++ f ++ 0#14]
  | .vcqbal a => some [0xEA#8 ++ 0#5 ++ a ++ 0#14]
  | .vcqcnt d => some [0xEB#8 ++ d ++ 0#19]
  | .vsett e => some [0xEC#8 ++ 0#21 ++ e]
  | .vsetw a i => some [0xED#8 ++ 0#5 ++ a ++ i]
  | .vpat d a kind k => some [0xEE#8 ++ 0#1 ++ d ++ a ++ kind ++ 0#6 ++ k]
  | .vaclr d c => some [0xEF#8 ++ d ++ c ++ 0#14]
  | .illegalOpcode w => some [w]
  | _ => none

/-- How many operand literals the instruction of a word requires (R100 and the entries): what the decoder must be given
beside the word itself. -/
def litCount (w : Lane) : Nat :=
  let op := (w.extractLsb' 24 8).toNat
  if op == 0x2B || op == 0x4D || op == 0x4E || op == 0x63 || op == 0xCE || op == 0xCF || op == 0xD0 then 1
  else if op == 0xC0 then (if fSs w = 1 then 2 else 1)
  else if 0xB0 ≤ op && op ≤ 0xD8 && fSs w = 1 then 1
  else 0

/-- The instruction word and its literals from one number, the first word in the low bits (R2, R100). -/
def tableWords (w : Nat) : Lane × List Lane :=
  let w0 : Lane := BitVec.ofNat 32 w
  (w0, (List.range (litCount w0)).map fun i => BitVec.ofNat 32 (w >>> (32 * (i + 1))))

/-- The instruction that the decoder reads from an opcode-table word; bits above `nbits` are zero. -/
def decodeTableWord (nbits w : Nat) : Option Instr :=
  let p := tableWords (w % 2 ^ nbits)
  match decode p.1 p.2 with
  | .ok i => some i
  | .error _ => none

end Sys2Proof
end

