-- ==== Sys2Proof/Machine/Control.lean ====
section
/-! DEFINITION. Branches, calls, loops, REP, NOP, TRAP and BRK (R103, R131 to R141). END is with the units. -/
namespace Sys2Proof.Machine

/-- The nibble of a lane in a line's header (R99). -/
def nibble (ws : List Lane) (lane : Nat) : Nat := bits (ws.headD 0) (4 * lane - 1) (4 * lane - 4)
/-- Whether a line's header is well formed (R99, R101). -/
def headerOk (ws : List Lane) : Bool := bits (ws.headD 0) 31 28 = 0 && (List.range 7).all fun i => nibble ws (i + 1) < 7
/-- A line of instruction memory; lines not loaded hold words 0xFFFF_FFFF (R342). -/
def Tile.line (t : Tile) (n : Nat) : List Lane := Map.get (List.replicate 8 0xFFFFFFFF) t.imem n
/-- The fault of a branch target in its line (R103). -/
def targetFault (ws : List Lane) (st : Stream) (target : LaneAddr) : Option (BitVec 16) :=
  let l := bits target 2 0
  if l = 0 then some cBRANCH_TO_HEADER
  else
    let k := nibble ws l
    if k = 4 || k = 5 || k = 6 then some cBRANCH_TO_LITERAL
    else if k = streamNo st then none
    else some cBRANCH_TO_FOREIGN
/-- Own lane address plus an offset, modulo 65,536 (R105). -/
def State.target {n : Nat} (s : State) (o : BitVec n) : LaneAddr := s.cur.pc + o.signExtend 16

/-- Whether a branch to a line that is not in the buffer will fail its check when the line arrives (R103); a malformed header comes before the
check (R101, log entry 11). -/
def State.willFail (s : State) (target : LaneAddr) : Bool :=
  let ws := s.me.line (bits target 15 3)
  headerOk ws && (targetFault ws s.cs target).isSome
/-- A taken branch with its results (R103, R132); `after` continues behind the target (R134). A target in the buffered line is checked at once. For
another the stream waits for the line, and the trap of a failing check comes with it; the results of a branch that does not fail land at their own
tick all the same (R12, R115). -/
def State.branch (s : State) (target : LaneAddr) (after : Bool) (results : List Flight) : Out :=
  let away (fails : Bool) : Out :=
    .next (s.modCur fun z =>
      { z with pc := target, check := some { target := target, after := after, lane := z.pc, fails := fails }
               flights := if fails then z.flights else z.flights ++ results, stall := rISSUED, waitN := none })
  match s.cur.buf with
  | some (n, ws) =>
    if n = bits target 15 3 then
      match targetFault ws s.cs target with
      | some c => s.trapAddr c (zext64 target)
      | none =>
        .next (s.modCur fun z =>
          { z with pc := if after then target + 1 else target, flights := z.flights ++ results, stall := rISSUED, waitN := none })
    else away (s.willFail target)
  | none => away (s.willFail target)

/-- A scalar result that a branch brings with it, landing at the next tick. -/
def State.linkFlight (s : State) (d : Reg) (w : Word) : Flight :=
  { id := s.nextId, dest := .x d, data := w.setWidth 4096, land := s.now + 1, lane := s.cur.pc }

/-- A conditional branch (R131). -/
def State.condBranch (s : State) (a b : Reg) (o : BitVec 14) (c : Word → Word → Bool) : Out :=
  s.guard onAll [.x a, .x b] fun s => if c (s.x a) (s.x b) then s.branch (s.target o) false [] else s.done

def execBeq (a b : Reg) (o : BitVec 14) (s : State) : Out := s.condBranch a b o fun x y => x == y
def execBne (a b : Reg) (o : BitVec 14) (s : State) : Out := s.condBranch a b o fun x y => x != y
def execBlt (a b : Reg) (o : BitVec 14) (s : State) : Out := s.condBranch a b o fun x y => x.toInt < y.toInt
def execBge (a b : Reg) (o : BitVec 14) (s : State) : Out := s.condBranch a b o fun x y => y.toInt ≤ x.toInt
def execBltu (a b : Reg) (o : BitVec 14) (s : State) : Out := s.condBranch a b o fun x y => x.toNat < y.toNat
def execBgeu (a b : Reg) (o : BitVec 14) (s : State) : Out := s.condBranch a b o fun x y => y.toNat ≤ x.toNat
/-- R133. -/
def execJ (o : BitVec 24) (s : State) : Out :=
  s.guard onAll [] fun s => s.branch (s.cur.pc + o.setWidth 16) false []
/-- R133: the link is x31 := own lane address. -/
def execCall (o : BitVec 24) (s : State) : Out :=
  s.guardX onAll [.x 31] fun s => s.bump.branch (s.cur.pc + o.setWidth 16) false [s.linkFlight 31 (zext64 s.cur.pc)]
/-- R134: continues behind lane x[rs1][15:0]. -/
def execRet (a : Reg) (s : State) : Out :=
  s.guard onAll [.x a] fun s => s.branch ((s.x a).setWidth 16) true []
/-- R135. -/
def execLoop (a : Reg) (o : BitVec 14) (s : State) : Out :=
  s.guardX onAll [.x a] fun s =>
    let c := s.x a - 1
    if c ≠ 0 then s.bump.branch (s.target o) false [s.linkFlight a c]
    else (s.setX a 1 c).done
/-- R136, R137: the next instruction of the stream is the body. -/
def execRep (c : BitVec 5) (a : Reg) (istep : BitVec 6) (s2 s1 sd : Bool) (s : State) : Out :=
  s.guard onAll [.x a] fun s =>
    let n := if a = 0 then c.toNat else (s.x a).toNat
    if 65535 < n then s.trap cILLEGAL_USE
    else .next (s.advance.modCur fun z => { z with rep := some { count := n, idx := 0, istep := istep, s2 := s2, s1 := s1, sd := sd } })
/-- R140. -/
def execNop (s : State) : Out := s.guard onAll [] fun s => s.done
/-- R141. -/
def execTrap (i : BitVec 19) (s : State) : Out :=
  s.guard onAll [] fun s => s.trapWith cUSER_TRAP (zext64 s.cur.pc) (zext64 i) true

/-- The tiles that freeze with a tile: every member of its roll group (R336, R337). -/
def State.frozenWith (s : State) (t : TileNo) : List TileNo :=
  t :: (s.buses.filter fun b => b.2.formed && b.2.members.contains t).flatMap fun b => b.2.members
/-- Freezes a tile, with the members of its roll group, at the end of this clock (R336). -/
def State.freeze (s : State) (t : TileNo) : State :=
  (s.frozenWith t).foldl (fun s m => s.modTile m fun u => { u with freezeReq := true }) s
/-- R141, R337: with halt-on-break set, BRK freezes the tile and raises no trap. -/
def execBrk (i : BitVec 19) (s : State) : Out :=
  s.guard onAll [] fun s =>
    if s.me.haltBrk then .next (s.freeze s.ct)
    else s.trapWith cBREAKPOINT (zext64 s.cur.pc) (zext64 i) true

end Sys2Proof.Machine
end

