-- ==== Sys2Proof/Machine/Issue.lean ====
section
/-! DEFINITION. From a stream's slot to the instruction it issues: the walk, the line fetch, the checks of the line, REP's field steps and the
decoder (R9, R10, R100 to R103, R107, R111, R114, R137, R138). -/
namespace Sys2Proof.Machine

/-! ## The walk (R9, R100 to R102) -/

/-- What the walk of a stream from a lane finds in a line. -/
inductive Found where
  | instr (lane : Nat) | orphan (lane : Nat) | nothing
  deriving DecidableEq, Repr

/-- Walks the lanes of a line from lane `l`, `n` lanes to go; `owner` tells whether an instruction of the stream lies below. -/
def walkLanes (ws : List Lane) (st : Stream) (start : Nat) : Nat → Nat → Bool → Found
  | _, 0, _ => .nothing
  | l, n + 1, owner =>
    let k := nibble ws l
    if k = streamNo st then (if start ≤ l then .instr l else walkLanes ws st start (l + 1) n true)
    else if k = streamNo st + 4 && start ≤ l && !owner then .orphan l
    else walkLanes ws st start (l + 1) n owner
/-- The next instruction lane of a stream at or after a lane of a line. -/
def walk (ws : List Lane) (st : Stream) (start : Nat) : Found := walkLanes ws st start 1 7 false
/-- The literals of the instruction at a lane (R100). -/
def literals (ws : List Lane) (st : Stream) (lane : Nat) : List Lane :=
  (((List.range (7 - lane)).map fun i => lane + 1 + i).takeWhile fun l => nibble ws l ≠ streamNo st).filterMap fun l =>
    if nibble ws l = streamNo st + 4 then some (ws.getD l 0) else none

/-! ## Checks (R111, R114) -/

/-- Stream legality by opcode (R114). -/
def opLegal (op : Nat) (st : Stream) : Bool :=
  if op < 0x40 || (0x50 ≤ op && op ≤ 0x5B) || op = 0x78 || op = 0x79 then true
  else if op < 0x67 || op = 0x83 || (0x87 ≤ op && op ≤ 0x90) then onCF st
  else if op < 0xA0 then onC st
  else onV st
/-- A privileged code (R111). -/
def opPrivileged (op : Nat) : Bool := 0x98 ≤ op && op ≤ 0x9B

/-! ## REP's steps (R137, R138) -/

/-- The fields of a format that REP steps: first, second and third register field and the immediate, as position and width. -/
structure RepFields where
  f1 : Option (Nat × Nat) := none
  f2 : Option (Nat × Nat) := none
  f3 : Option (Nat × Nat) := none
  imm : Option (Nat × Nat) := none
  deriving DecidableEq, Repr
/-- R109 and R137: the fields by opcode; a control code has none. -/
def repFields (op : Nat) : RepFields :=
  if 0x30 ≤ op && op ≤ 0x3F then {}
  else if (0x20 ≤ op && op ≤ 0x29) || (0x4A ≤ op && op ≤ 0x4C) || (0x50 ≤ op && op ≤ 0x54) || (0x56 ≤ op && op ≤ 0x5B)
      || (0xE0 ≤ op && op ≤ 0xE3) || (0xEC ≤ op && op ≤ 0xEE) then { f1 := some (19, 5), f2 := some (14, 5), imm := some (0, 14) }
  else if op = 0x2A || op = 0x2B then { f1 := some (19, 5) }
  else if (0x40 ≤ op && op ≤ 0x45) || op = 0x4D || op = 0x4E || (0x60 ≤ op && op ≤ 0x62) then
    { f1 := some (21, 3), f2 := some (13, 5), imm := some (0, 13) }
  else if 0xA0 ≤ op && op ≤ 0xA9 then { f1 := some (20, 5) }
  else if 0xD9 ≤ op && op ≤ 0xDC then { f1 := some (19, 5), f2 := some (14, 5), imm := some (0, 14) }
  else { f1 := some (19, 5), f2 := some (14, 5), f3 := some (9, 5) }
/-- Adds to a field modulo its width. -/
def stepField (w : Lane) (on : Bool) (f : Option (Nat × Nat)) (k : Int) : Lane :=
  match f with
  | some (p, n) => if on then setBits w (p + n - 1) p (wrapInt n (bits w (p + n - 1) p + k)) else w
  | none => w
/-- The body's word at repetition idx (R137). -/
def Rep.word (r : Rep) (w : Lane) : Lane :=
  let f := repFields (bits w 31 24)
  let w := stepField w r.sd f.f1 r.idx
  let w := stepField w r.s1 f.f2 r.idx
  let w := stepField w r.s2 f.f3 r.idx
  stepField w true f.imm (r.idx * simm r.istep)
/-- R138: whether the body may not be repeated. -/
def Rep.refuses (r : Rep) (w : Lane) : Bool :=
  let op := bits w 31 24
  let f := repFields op
  (0x30 ≤ op && op ≤ 0x3E) || opPrivileged op || (r.sd && f.f1.isNone) || (r.s1 && f.f2.isNone) || (r.s2 && f.f3.isNone)
    || (r.istep ≠ 0 && f.imm.isNone)

/-! ## One slot -/

/-- What a slot gives: the stream's state without an issue, or the instruction to issue. -/
inductive Slot where
  | idle (s : State) | run (i : Instr) (s : State)

/-- A trap as a slot's answer. -/
def State.slotTrap (s : State) (code : BitVec 16) (lane : LaneAddr) (addr : Word) : Slot :=
  .idle (s.takeTrap s.ct s.cs code lane addr 0 false false)

/-- Requests a line from the fetch unit and waits (R10). -/
def State.fetchLine (s : State) (n : Nat) : State :=
  let s :=
    if (s.cur.fetch.map Prod.fst) = some n then s
    else
      let s := (s.modCur fun z => { z with fetch := some (n, none) }).modMe fun u => if u.fetchQ.contains s.cs then u else { u with fetchQ := u.fetchQ ++ [s.cs] }
      if s.me.fetchedAt = some s.now then s else s.post { op := .lineFetch, ev := { tile := s.ct } }
  s.modCur fun z => { z with stall := rFETCH }

/-- The instruction of a word with its literals, as the current stream issues it: R111 up to the encoding, then R138. -/
def State.decodeSlot (s : State) (w : Lane) (ls : List Lane) : Slot :=
  let op := bits w 31 24
  let refuse (c : BitVec 16) : Slot := s.slotTrap c s.cur.pc (zext64 s.cur.pc)
  let w' := match s.cur.rep with | some r => r.word w | none => w
  match decode w' ls with
  | .ok i =>
    match s.cur.rep with
    | some r =>
      if r.idx = 0 && r.refuses w && !unusedOpcode op && opLegal op s.cs && !(opPrivileged op && s.cur.priv = 0) then refuse cILLEGAL_USE else .run i s
    | none => .run i s
  | .error _ =>
    if !opLegal op s.cs then refuse cILLEGAL_STREAM
    else if opPrivileged op && s.cur.priv = 0 then refuse cPRIVILEGE
    else refuse cILLEGAL_ENCODING

/-- The walk in the buffered line `n`: an instruction, an orphan literal, or the next line (R100 to R102). A REP of count 0 skips its body (R137).
DESIGN CHOICE (log entry 62): R10 says when the request of the line after a last issue arises, and not when that of the line after one that holds
nothing of the stream does; here it arises in the tick in which the empty line becomes usable. -/
def State.walkSlot (s : State) (n : Nat) (ws : List Lane) : Nat → Slot
  | 0 => .idle s
  | fuel + 1 =>
    match walk ws s.cs (bits s.cur.pc 2 0) with
    | .orphan l => s.slotTrap cILLEGAL_LINE (BitVec.ofNat 16 (8 * n + l)) (BitVec.ofNat 64 (8 * n + l))
    | .nothing =>
      let s := s.modCur fun z => { z with pc := BitVec.ofNat 16 (8 * (n + 1)) }
      .idle (s.fetchLine (bits s.cur.pc 15 3))
    | .instr l =>
      let s := s.modCur fun z => { z with pc := BitVec.ofNat 16 (8 * n + l) }
      if s.cur.rep.any fun r => r.count = 0 then
        let s := s.modCur fun z => { z with rep := none, pc := z.pc + 1 }
        if l = 7 then .idle (s.fetchLine (bits s.cur.pc 15 3)) else s.walkSlot n ws fuel
      else s.decodeSlot (ws.getD l 0) (literals ws s.cs l)

/-- A line has arrived (R10): its header is checked (R101), then the branch that led to it (R103). DESIGN CHOICE (log entry 11): a malformed header comes
before the check, so that the branch has had its effect, the link of CALL or the counter of LOOP with it, and the trap is the line's. A malformed line
does not stay in the buffer: the stream enters it again if it returns there. -/
def State.enterLine (s : State) (n : Nat) : Slot :=
  if s.cur.fetchBad then
    (s.modCur fun z => { z with fetch := none, fetchBad := false }).slotTrap cMEM_UNCORRECTABLE s.cur.pc (zext64 s.cur.pc)
  else
  let ws := s.me.line n
  let s := s.modCur fun z => { z with buf := if headerOk ws then some (n, ws) else none, fetch := none }
  let land := fun (z : Strm) => match z.check with
    | some k => { z with check := none, pc := if k.after then k.target + 1 else k.target }
    | none => z
  if !headerOk ws then
    s.slotTrap cILLEGAL_LINE (BitVec.ofNat 16 (8 * n)) (BitVec.ofNat 64 (8 * n))
  else
    match s.cur.check with
    | some k => match targetFault ws s.cs k.target with
      | some c => s.slotTrap c k.lane (zext64 k.target)
      | none =>
        let s := s.modCur land
        if bits s.cur.pc 15 3 = n then s.walkSlot n ws 8 else .idle (s.fetchLine (bits s.cur.pc 15 3))
    | none => s.walkSlot n ws 8

/-- The slot of the current stream (R9, R10). -/
def State.slot (s : State) : Slot :=
  let z := s.cur
  match z.mode with
  | .running =>
    let n := bits z.pc 15 3
    match z.buf, z.check with
    | some (m, ws), none =>
      if m = n then s.walkSlot n ws 8
      else match z.fetch with
        | some (k, some u) => if k = n && u ≤ s.now then s.enterLine n else .idle (s.fetchLine n)
        | _ => .idle (s.fetchLine n)
    | _, _ => match z.fetch with
      | some (k, some u) => if k = n && u ≤ s.now then s.enterLine n else .idle (s.fetchLine n)
      | _ => .idle (s.fetchLine n)
  | .held => .idle (s.modCur fun z => { z with stall := rHELD })
  | _ => .idle (s.modCur fun z => { z with stall := rNONE })

/-- A line that holds one instruction in lane 1 and its literals behind it, for a stream; the other lanes are empty (R99, R100). -/
def soloLine (st : Stream) (w : Lane) (ls : List Lane) : List Lane :=
  let kinds := (List.range 7).map fun i => if i = 0 then streamNo st else if i ≤ ls.length then streamNo st + 4 else 3
  let header := (List.range 7).foldl (fun h i => h + kinds.getD i 3 * 16 ^ i) 0
  BitVec.ofNat 32 header :: w :: ls ++ List.replicate (6 - ls.length) 0
/-- The stream on which an opcode issues: V for the vector codes, else C (R114). -/
def homeStream (op : Nat) : Stream := if 0xA0 ≤ op && op ≤ 0xEF then .V else .C
/-- A unit runs on a tile with the given words as its next instruction: what DISPATCH and the fetch unit leave (log entry 10). -/
def Tile.ready (u : Tile) (w : Lane) (ls : List Lane) : Tile :=
  let st := homeStream (bits w 31 24)
  let line := soloLine st w ls
  { u.modStrm st (fun z => { z with mode := .running, pc := 1, buf := some (0, line), fetch := none, check := none, rep := none }) with
    imem := Map.set u.imem 0 line, unit := some (u.unit.getD {}), frozen := false }

/-- R10: the fetch unit reads one line in a tick; the line is usable two ticks later, when a read with an uncorrectable error traps (R363). -/
def execLineFetch (s : State) : Out :=
  let t := s.ev.tile
  let u := s.tile t
  if u.fetchedAt = some u.ttick then .next s
  else match u.fetchQ with
    | [] => .next s
    | st :: rest => match s.readOwn t (((u.strm st).fetch.map fun f => eccLine f.1).toList) with
      | (s, bad) =>
        .next (s.modTile t fun u =>
          { u.modStrm st (fun z => { z with fetch := z.fetch.map fun f => (f.1, some (u.ttick + 2)), fetchBad := bad }) with
            fetchQ := rest, fetchedAt := some u.ttick })

/-- R110: an instruction lane with an unused opcode traps on every stream and at every privilege. -/
def execIllegalOpcode (_w : Lane) (s : State) : Out := s.trap cILLEGAL_OPCODE

end Sys2Proof.Machine
end

