-- ==== Sys2Proof/Machine/Traps.lean ====
section
/-! DEFINITION. Results landing, handler entry and return, asynchronous traps, the supervisor registers and IDLE
(R11 to R18, R47, R161, R323 to R326, R354 to R359, R363). -/
namespace Sys2Proof.Machine

/-! ## Landing (R12, R13, R15, R16) -/

/-- One result lands: its flags are ORed into FLAGS (R47). -/
def State.land (s : State) (t : TileNo) (st : Stream) (f : Flight) : State :=
  (s.writeDest t st f.dest f.data f.bits).modStrmOf t st fun z => { z with flags := z.flags ||| f.flags }
/-- RESULT_LAND: every result of a stream whose tick has come, in order of issue (R13). -/
def execResultLand (s : State) : Out :=
  let t := s.ev.tile
  let st := s.ev.st
  let due := (s.strmOf t st).flights.filter fun f => f.land ≤ (s.tile t).ttick
  let s := s.modStrmOf t st fun z => { z with flights := z.flights.filter fun f => !(f.land ≤ (s.tile t).ttick) }
  .next (due.foldl (fun s f => s.land t st f) s)
/-- INTERLOCKED_RESULT (R15, R143): a result that is ready is written and its pending bits clear. -/
def execInterlockedResult (s : State) : Out :=
  let t := s.ev.tile
  let st := s.ev.st
  match (s.strmOf t st).awaits.find? fun w => w.id = s.ev.id with
  | none => .next s
  | some w =>
    if !w.ready || w.loads ≠ [] then .next s
    else if (s.tile t).ttick < w.minLand && !(s.tile t).preemptReq then .next (s.retry .interlockedResult)
    else
      let s := (w.dests.zip w.vals).foldl (fun s p => s.writeDest t st p.1 p.2 (BitVec.allOnes 4096)) s
      .next (s.modStrmOf t st fun z =>
        { z with awaits := z.awaits.filter fun a => a.id ≠ w.id, pending := z.pending.filter fun d => !w.dests.contains d })
/-- Whether a result that must land by tick `t` waits for a row (R16). -/
def Tile.lateAt (u : Tile) (t : Nat) : Bool := allStreams.any fun st => (u.strm st).flights.any fun f => f.late t
/-- STRETCH_END (R16, R17): the late row has arrived; this clock is the stretch's last. -/
def execStretchEnd (s : State) : Out :=
  if (s.tile s.ev.tile).lateAt ((s.tile s.ev.tile).ttick + 1) then .next s
  else .next (s.modTile s.ev.tile fun u => { u with stretchOver := true })

/-! ## Entering the handler and returning (R354 to R359) -/

/-- The lane that a stream issues next, found by its walk through instruction memory (R9, R102). The walk ends in a malformed line, which the
stream would enter (R101): there at the stream's own lane, else at the header (log entry 63). -/
def Tile.nextLane (u : Tile) (st : Stream) : Nat → LaneAddr → LaneAddr
  | 0, pc => pc
  | fuel + 1, pc =>
    match walk (u.line (bits pc 15 3)) st (bits pc 2 0) with
    | .instr l => BitVec.ofNat 16 (bits pc 15 3 * 8 + l)
    | .orphan l => BitVec.ofNat 16 (bits pc 15 3 * 8 + l)
    | .nothing =>
      if headerOk (u.line (bits pc 15 3)) then u.nextLane st fuel (BitVec.ofNat 16 ((bits pc 15 3 + 1) * 8)) else BitVec.ofNat 16 (bits pc 15 3 * 8)
/-- The lane that a stream has not yet issued: a branch that fails its check, or what the walk finds from where it goes on (R103, R357). -/
def Tile.notIssued (u : Tile) (st : Stream) (z : Strm) : LaneAddr :=
  if z.check.any BranchCheck.fails then z.home else u.nextLane st 8192 z.home
/-- HANDLER_ENTRY (R355, R356). With C ended a held trap is unrecoverable, and the unit stops (R354). -/
def execHandlerEntry (s : State) : Out :=
  let t := s.ev.tile
  let u := s.tile t
  if u.nextHeld.isSome && (u.c.mode = .ended || u.c.mode = .noEntry) then .next (s.failUnit t)
  else match u.mayEnter with
    | none => .next s
    | some st => .next (s.modTile t fun (u : Tile) =>
        let c : Strm := u.c.abandon
        { u with c := if c.mode = Mode.held then c else { c with pc := u.notIssued .C c, check := none } }.enter st)
/-- ASYNC_TRAP (R286, R363): the stream takes an asynchronous fault before its next issue. -/
def execAsyncTrap (s : State) : Out :=
  let t := s.ev.tile
  let st := s.ev.st
  let z := s.strmOf t st
  match z.asyncs.find? fun a => a.due ≤ (s.tile t).ttick with
  | none => .next s
  | some a =>
    if z.mode ≠ .running || (s.tile t).preemptReq || (s.tile t).stretched then .next s
    else
      let y := z.abandon
      .next ((s.modStrmOf t st fun _ => { y with asyncs := y.asyncs.erase a }).takeTrap t st a.code ((s.tile t).notIssued st y) a.addr a.info false true)
/-- RFE (R359): the return is checked under R103; both streams issue again from the next tick. DESIGN CHOICE (log entry 11): the check looks at the
nibble of the lane alone, and a lane with a reserved nibble, which R103's table does not name, is no instruction lane of the stream: BRANCH_TO_FOREIGN. -/
def execRfe (s : State) : Out :=
  s.guardP [] [] fun s =>
    match s.me.handling with
    | none => s.trap cILLEGAL_USE
    | some st =>
      let tpc := (s.me.strm st).frame.tpc
      let ws := s.me.line (bits tpc 15 3)
      if !(s.me.strm st).framed then s.stall rINTERLOCK
      else match targetFault ws st tpc with
      | some c => s.trapAddr c (zext64 tpc)
      | none =>
        .next ({ s with slots := s.slots.filter fun p => p ≠ (s.ct, st) }.modMe fun u =>
          (u.leave st).modStrm .C fun z => { z with stall := rISSUED })
/-- RFE.K (R359): the unit fails as by an unrecoverable trap. -/
def execRfeK (s : State) : Out :=
  s.guardP [] [] fun s => if s.me.handling = none then s.trap cILLEGAL_USE else .next (s.failUnit s.ct)

/-! ## Supervisor registers (R324 to R326, R357) -/

/-- Usable tiles, clusters and dies, pseudo-channels and ports (R326). -/
def State.devcnt (s : State) : Word :=
  let tiles := (List.range 256).filter fun t => !s.isFenced (BitVec.ofNat 8 t)
  let clus := (List.range 32).filter fun c => tiles.any fun t => t / 8 = c
  let dies := (List.range 4).filter fun d => tiles.any fun t => t / 64 = d
  let pch := 512 - s.pchFenced.length
  let p2 := ((List.range 35).filter fun p => Map.get 2 s.portLanes p = 2).length
  let p1 := ((List.range 35).filter fun p => Map.get 2 s.portLanes p = 1).length
  BitVec.ofNat 64 (tiles.length + clus.length * 2 ^ 15 + dies.length * 2 ^ 21 + pch * 2 ^ 24 + p2 * 2 ^ 34 + p1 * 2 ^ 40)
/-- FENCEMAPd (R325). -/
def State.fencemap (s : State) (d : Nat) : Word :=
  BitVec.ofNat 64 ((List.range 64).foldl (fun a i => if s.isFenced (BitVec.ofNat 8 (64 * d + i)) then a + 2 ^ i else a) 0)
/-- The plane image of 264 bytes and its checksum (R333). -/
def planeCrc (r : Nat → Word) : BitVec 32 := crc32c ((List.range 33).flatMap fun i => (leBytes 8 (r (0x100 + i)).toNat).map BitVec.toNat)

/-- The stream that TSEL shows; 3 reads as C (R357). -/
def Tile.shown (u : Tile) : Stream := streamOf u.tsel.toNat
/-- TSTATUS (R357). -/
def Frame.tstatus (f : Frame) : Word :=
  BitVec.ofNat 64 ((f.rep.map Rep.count).getD 0 * 2 ^ 32 + (f.rep.map Rep.idx).getD 0 * 2 ^ 16 + f.flights.length * 2 ^ 6 + f.ppriv.toNat * 2)
    ||| ofBool f.valid ||| ofBool f.resumeNext <<< 3 ||| ofBool f.rep.isSome <<< 4 ||| ofBool f.async <<< 5
/-- File and number of a destination in FRDEST (R357). -/
def Dest.frNum : Dest → Nat
  | .none => 0
  | .x n => n.toNat * 16
  | .q n => n.toNat * 16 + 1
  | .acc r => r * 16 + 2
  | .accs r _ => r * 16 + 2
  | .mask n => n.toNat * 16 + 3
  | .vtype => 4
  | .vwbase => 16 + 4
  | .pat n => (2 + n.toNat) * 16 + 4
/-- Width of a destination's value, for the words that read 0 (R357). -/
def Dest.width : Dest → Nat
  | .x _ => 64
  | .q _ => 512
  | .acc _ => 4096
  | .accs _ _ => 4096
  | .mask _ => 512
  | _ => 64
/-- FRDEST's word of a result in flight, LEFT counted from a tick (R357, R358). -/
def Flight.destWord (r : Flight) (now : Nat) : Word := BitVec.ofNat 64 (r.flags.toNat * 2 ^ 32 + (r.land - now) % 2 ^ 16 * 2 ^ 16) ||| BitVec.ofNat 64 r.dest.frNum
/-- FRDEST and FRDATA of a record (R357, R358). -/
def Frame.frdest (f : Frame) : Word :=
  match f.flights[f.recSel.toNat]? with
  | some r => r.destWord f.stopTick
  | none => 0
def Frame.frdata (f : Frame) : Word :=
  match f.flights[f.recSel.toNat]? with
  | some r => if 64 * f.wordSel.toNat < r.dest.width then BitVec.ofNat 64 (bits r.data (64 * f.wordSel.toNat + 63) (64 * f.wordSel.toNat)) else 0
  | none => 0
/-- TPENDING: held and not yet handled. -/
def Tile.tpending (u : Tile) : Nat :=
  (allStreams.map fun st => if (u.strm st).trapped && u.handling ≠ some st then 2 ^ streamNo st else 0).sum

/-- A supervisor register as C reads it, none for a number that is not listed (R325, R357). -/
def State.sreg (s : State) (n : Nat) : Option Word :=
  let u := s.me
  let f := (u.strm u.shown).frame
  match n with
  | 0x000 => some (zext64 u.c.priv)
  | 0x001 => some (BitVec.ofNat 64 ((s.partOf s.ct).getD 0))
  | 0x002 => some s.devcnt
  | 0x003 => some (ofBool u.haltBrk)
  | 0x006 => some 0
  | 0x008 => some (s.fencemap 0)
  | 0x009 => some (s.fencemap 1)
  | 0x00A => some (s.fencemap 2)
  | 0x00B => some (s.fencemap 3)
  | 0x040 => some (zext64 u.tsel)
  | 0x041 => some f.tstatus
  | 0x042 => some (zext64 f.cause)
  | 0x043 => some (zext64 f.tpc)
  | 0x044 => some f.taddr
  | 0x045 => some f.tinfo
  | 0x046 => some (zext64 u.tvec)
  | 0x047 => some (BitVec.ofNat 64 u.tpending)
  | 0x048 => some (Map.get 0 f.scratch 0)
  | 0x049 => some (Map.get 0 f.scratch 1)
  | 0x04A => some (Map.get 0 f.scratch 2)
  | 0x04B => some (Map.get 0 f.scratch 3)
  | 0x04C => some (zext64 f.recSel ||| zext64 f.wordSel <<< 4)
  | 0x04D => some f.frdest
  | 0x04E => some f.frdata
  | 0x121 => some (zext64 (planeCrc u.planeReg))
  | n =>
    if 0x100 ≤ n && n ≤ 0x120 then some (u.planeReg n)
    else if 0x128 ≤ n && n ≤ 0x12D then some (BitVec.ofNat 64 (u.qCount (n - 0x128)))
    else none
/-- Whether RESUMENEXT, TPC, a scratch word or FRSEL of a frame is written (R357). -/
def Frame.write (f : Frame) (n : Nat) (w : Word) : Frame :=
  match n with
  | 0x041 => { f with resumeNext := bitAt w 3 }
  | 0x043 => { f with tpc := w.setWidth 16 }
  | 0x048 => { f with scratch := Map.set f.scratch 0 w }
  | 0x049 => { f with scratch := Map.set f.scratch 1 w }
  | 0x04A => { f with scratch := Map.set f.scratch 2 w }
  | 0x04B => { f with scratch := Map.set f.scratch 3 w }
  | 0x04C => { f with recSel := w.setWidth 4, wordSel := BitVec.ofNat 6 (bits w 9 4) }
  | _ => f
/-- A write of SRW takes effect, in the frame that TSEL showed when it issued; a write of 3 to TSEL reads as 0 (R324, R357). -/
def Tile.writeSreg (u : Tile) (n : Nat) (w : Word) (sel : Nat) : Tile :=
  if n = 0x040 then { u with tsel := if bits w 1 0 = 3 then 0 else w.setWidth 2 }
  else u.modStrm (streamOf sel) fun z => { z with frame := z.frame.write n w }
/-- FRDATA shows a record whose row loads are not all performed: it has no value yet (R18, R357). -/
def Frame.recordOut (f : Frame) : Bool := (f.flights[f.recSel.toNat]?).any fun r => r.loads ≠ []
/-- Whether a register of a frame is accessed before the frame is written, or FRDATA before the record has its value: the access waits (R95, R117, R357,
log entry 65). -/
def State.frameBusy (s : State) (n : Nat) : Bool :=
  let z := s.me.strm s.me.shown
  (0x041 ≤ n && n ≤ 0x04E && n ≠ 0x046 && n ≠ 0x047 && !z.framed) || (n = 0x04E && z.frame.recordOut)
/-- SRR (R324). -/
def execSrr (d : Reg) (i : BitVec 14) (s : State) : Out :=
  s.guardP [] [.x d] fun s =>
    match s.sreg i.toNat with
    | some w => if s.frameBusy i.toNat then s.stall rINTERLOCK else (s.answer d w).done
    | none => s.trap cILLEGAL_USE
/-- SRW (R324): the register changes at the next tick; WAKE sends a wake. -/
def execSrw (a : Reg) (i : BitVec 14) (s : State) : Out :=
  s.guardP [.x a] [] fun s =>
    if (s.sreg i.toNat).isNone then s.trap cILLEGAL_USE
    else if s.frameBusy i.toNat then s.stall rINTERLOCK
    else if i = 6 then
      let t : TileNo := (s.x a).setWidth 8
      if s.partOf t ≠ s.partOf s.ct then s.trap cPARTITION else (s.later { op := .wake, ev := { tile := t } }).done
    else (s.modCur fun z => { z with delayed := z.delayed ++ [.sreg i.toNat (z.xr a) s.me.tsel.toNat (s.now + 1)] }).done
/-- WAKE (R324): a wake arrives at a tile. -/
def execWake (s : State) : Out := .next (s.modTile s.ev.tile fun u => { u with woken := true })

/-- The mark of a stream that waits in IDLE. -/
def idleMark : Nat := 2 ^ 52
/-- The causes of IDLE that hold: the time, a wake, a queue entry (R324). -/
def State.idleCauses (s : State) (a : Reg) : Word :=
  ofBool ((s.x a ≠ 0 && (s.x a).toNat ≤ s.now) || (s.cur.waitN = some idleMark && s.me.idleTimer)) ||| ofBool s.me.woken <<< 1 ||| ofBool (s.cur.waitN = some idleMark && s.me.queueAdded) <<< 2
/-- IDLE (R324). -/
def execIdle (d a : Reg) (s : State) : Out :=
  s.guardP [.x a] [.x d] fun s =>
    let w := s.idleCauses a
    if w ≠ 0 then ((s.modMe fun u => { u with woken := false, idleUntil := 0, idleTimer := false }).answer d w).done
    else if s.cur.waitN = some idleMark then s.stall rSLEEP
    else ((s.modMe fun u => { u with queueAdded := false, idleUntil := (s.x a).toNat, idleTimer := false }).modCur fun z =>
      { z with waitN := some idleMark }).stall rSLEEP
/-- IDLE_TIMER_EXPIRY (R324): the time that IDLE waits for has come. -/
def execIdleTimerExpiry (s : State) : Out :=
  .next (s.modTile s.ev.tile fun u =>
    if u.idleUntil ≠ 0 && u.idleUntil ≤ u.ttick && u.c.waitN = some idleMark then { u with idleTimer := true } else u)

end Sys2Proof.Machine
end

