-- ==== Sys2Proof/Machine/Dispatcher.lean ====
section
/-! DEFINITION. The dispatcher: launch queues, admission, dispatch rounds, completion words and the scheduler cores
(R24, R338 to R353). -/
namespace Sys2Proof.Machine

/-- Whether a core serves the queues: the gate is open and the active core has not halted (R351, R352). -/
def State.serving (s : State) : Bool := s.gate && !(if s.active then s.halted1 else s.halted0)
/-- Appends a journal record, before what it records takes effect; every 4,096 records a checkpoint of the tables is written (R350). Where in HBM the
records lie, and their 32 bytes, the spec does not give (log entry 73). -/
def State.journalled (s : State) (kind id val : Nat) : State :=
  let j := s.journal ++ [{ kind := kind, id := id, val := val : Journal }]
  if j.length = 4096 then { s with journal := [], checkpoint := s.checkpoint + 1, tables := ⟨s.launches, s.hostQs, s.kickmap, s.poolFree⟩ } else { s with journal := j }
/-- A DISPATCH record (R388). -/
def State.pealDispatch (s : State) (event l units : Nat) : State :=
  let q := (s.launch (s.rootLaunch s.depth l)).host.map Prod.fst
  s.pealHub (s.launch l).part 7 event 0xFF l ((s.launch l).status.toNat + units % 2 ^ 16 * 2 ^ 16 + q.getD 0 * 2 ^ 32)
/-- A host launch queue. -/
def State.hostQ (s : State) (q : Nat) : HostQ := Map.get {} s.hostQs q
/-- Changes a queue. -/
def State.modQ (s : State) (q : Nat) (f : HostQ → HostQ) : State := { s with hostQs := Map.set s.hostQs q (f (s.hostQ q)) }
/-- Records written and not consumed (R340). -/
def HostQ.behind (q : HostQ) : Nat := (q.tail - q.head).toNat
/-- A queue is looked at. -/
def State.kick (s : State) (q : Nat) : State := s.later { op := .queueConsume, ev := { id := q } }

/-! ## G-space as the dispatcher reads it (R341, R342) -/

/-- The byte of a G-space address in a context. -/
def State.hubKey (s : State) (c va : Nat) : Option Nat :=
  match s.hubTranslate hubDisp c (BitVec.ofNat 64 va) true false with
  | .ok p => some p.key
  | .error _ => none
/-- A row at a row-aligned G-space address. -/
def State.hubRow (s : State) (c va : Nat) : Option Row := (s.hubKey c va).map s.row
/-- A word at an aligned G-space address. -/
def State.hubWord (s : State) (c va : Nat) : Option Word := (s.hubKey c va).map fun k => Mem.word s.mem k
/-- A byte at a G-space address. -/
def State.hubByte (s : State) (c va : Nat) : Option Byte := (s.hubKey c va).map fun k => Mem.read s.mem k
/-- Rounds up to a row boundary. -/
def rowUp (n : Nat) : Nat := (n + 63) / 64 * 64

/-- A unit image (R342): counts, entry lanes, trap handler lane, and where its parts begin. -/
structure UnitImage where
  nlines : Nat
  entries : List Nat
  nseg : Nat
  nconst : Nat
  tvec : Nat
  consts : Nat
  segs : Nat
  deriving DecidableEq, Repr
/-- The image whose header is a row; none when the header breaks R342. -/
def imageOf (r : Row) : Option UnitImage :=
  let n := bits r 15 0
  let c := bits r 95 80
  if n = 0 || 8192 < n || 16384 < c || bits r 191 144 ≠ 0 || bits r 511 192 ≠ 0 then none
  else some
    { nlines := n, entries := [bits r 31 16, bits r 47 32, bits r 63 48], nseg := bits r 79 64, nconst := c, tvec := bits r 143 128
      consts := 64 + rowUp (32 * n), segs := 64 + rowUp (32 * n) + rowUp (4 * c) }
/-- The image of a launch. -/
def State.image (s : State) (l : Launch) : Option UnitImage := (s.hubRow l.ctx l.prog).bind imageOf
/-- Segment `i` of an image: tile offset, length and offset in the image. -/
def State.segment (s : State) (l : Launch) (m : UnitImage) (i : Nat) : Option (Nat × Nat × Nat) :=
  match s.hubWord l.ctx (l.prog + m.segs + 16 * i), s.hubWord l.ctx (l.prog + m.segs + 16 * i + 8) with
  | some a, some b => some (bits a 31 0, bits a 63 32, b.toNat)
  | _, _ => none
/-- The segments of an image. -/
def State.segments (s : State) (l : Launch) (m : UnitImage) : List (Nat × Nat × Nat) := (List.range m.nseg).filterMap (s.segment l m)
/-- Where the pages of a range of addresses begin: at its own start, then at every 64 KiB boundary inside it (R372). -/
def pageStarts (g : Nat × Nat) : List Nat :=
  if g.2 = 0 then [] else (List.range ((g.1 + g.2 - 1) / 2 ^ 16 - g.1 / 2 ^ 16 + 1)).map fun i => if i = 0 then g.1 else (g.1 / 2 ^ 16 + i) * 2 ^ 16
/-- Whether every page of some ranges (start, bytes) translates. -/
def State.mapped (s : State) (c : Nat) (gs : List (Nat × Nat)) : Bool := (gs.flatMap pageStarts).all fun a => (s.hubKey c a).isSome
/-- The dispatcher comes to addresses in turn: its TLB holds their leaves, and the first that does not translate is reported and ends the reading (R372). -/
def State.usePages (s : State) (c : Nat) : List Nat → State
  | [] => s
  | a :: rest =>
    let s := s.hubUsed hubDisp c (BitVec.ofNat 64 a) true false
    if (s.hubKey c a).isSome then s.usePages c rest else s
/-- The dispatcher reads some ranges. -/
def State.useRanges (s : State) (c : Nat) (gs : List (Nat × Nat)) : State := s.usePages c (gs.flatMap pageStarts)
/-- The ranges of an image's lines and constant words, header first; its header alone where that breaks R342. -/
def State.codeRanges (s : State) (l : Launch) : List (Nat × Nat) :=
  (l.prog, 64) :: match s.image l with
    | none => []
    | some m => [(l.prog, m.segs)]
/-- The ranges of a whole image. -/
def State.imageRanges (s : State) (l : Launch) : List (Nat × Nat) :=
  s.codeRanges l ++ match s.image l with
    | none => []
    | some m => (l.prog + m.segs, 16 * m.nseg) :: (s.segments l m).map fun g => (l.prog + g.2.2, g.2.1)
/-- The range of a plane image: its 33 registers (R333). -/
def Launch.planeRange (l : Launch) : Nat × Nat := (l.plane, 264)
/-- The ranges that check 7 of R344 reads. -/
def State.loadRanges (s : State) (l : Launch) : List (Nat × Nat) := s.imageRanges l ++ [(l.args, 1), l.planeRange]
/-- Check 7 of R344: PROG, ARGS and PLANE translate and the image keeps to R342. -/
def State.imageOk (s : State) (l : Launch) : Bool :=
  s.mapped l.ctx (s.loadRanges l) && match s.image l with
    | none => false
    | some m => (s.segments l m).length = m.nseg && (s.segments l m).all fun g => g.1 + g.2.1 ≤ 0x600000

/-! ## Queues (R339, R340, R343, R344) -/

/-- DBBASE: the offset of the doorbell window in BAR0 (R339, R401). -/
def dbBase : Nat := 0x80000
/-- The tail line and the head line of a queue. -/
def tailLine (q : Nat) : Nat := dbBase + 64 * q
def headLine (q : Nat) : Nat := dbBase + 4096 + 64 * q
/-- TAIL_WRITE (R339, R401): the host writes the word at offset `id` of BAR0; word 0 of a tail line takes TAIL from `num`, and other words are ignored. -/
def execTailWrite (s : State) : Out :=
  let q := (s.ev.id - dbBase) / 64
  if s.ev.id ≠ tailLine q || 64 ≤ q || !s.ide then .next s
  else .next (({ s.modQ q (fun h => { h with tail := BitVec.ofNat 32 s.ev.num }) with kickmap := s.kickmap ||| ((1 : BitVec 64) <<< q) } : State).kick q)
/-- The dependences of a host record as launches; none when one names no valid record. -/
def HostQ.hostDeps (q : HostQ) (ds : List Nat) : Option (List Nat) :=
  ds.mapM fun d => if d / 2 ^ 16 ≠ 0 || d = 0 || 2 ^ q.log2n ≤ d || q.hist.length < d then none else q.hist[q.hist.length - d]?
/-- A new level of members' counters with its extra member, as a member of its parent. -/
def newLevel (parent : Nat) : Level := { members := 1, parent := parent }
/-- One more member. -/
def Level.join (l : Level) : Level := { l with members := l.members + 1 }
/-- The extra member leaves: the level is closed (R343). -/
def Level.shut (l : Level) : Level := { l with members := l.members - 1, isOpen := false }
/-- A job's key: job numbers are a partition's own. -/
def jobKey (p j : Nat) : Nat := p * 2 ^ 16 + j
/-- Opens the phase and the graph of a queue where none is open (R343). -/
def State.openLevels (s : State) (q : Nat) : State :=
  let h := s.hostQ q
  let j := jobKey h.part h.job
  let s := match h.phase with
    | some _ => s
    | none =>
      let l : Level := Map.get (newLevel 0) s.jobs j
      { s.modQ q (fun h => { h with phase := some s.nextLevel }) with
        jobs := Map.set s.jobs j (if l.status = 0 then l.join else (newLevel 0).join)
        phases := Map.set s.phases s.nextLevel (newLevel j)
        nextLevel := s.nextLevel + 1 }
  match (s.hostQ q).graph with
  | some _ => s
  | none =>
    let p := (s.hostQ q).phase.getD 0
    { s.modQ q (fun h => { h with graph := some s.nextLevel }) with
      phases := Map.set s.phases p (Map.get {} s.phases p : Level).join
      graphs := Map.set s.graphs s.nextLevel (newLevel p)
      nextLevel := s.nextLevel + 1 }
/-- Closes the graph, and with `both` the phase, of a queue. -/
def State.shutLevels (s : State) (q : Nat) (both : Bool) : State :=
  let h := s.hostQ q
  let g := h.graph.getD 0
  let p := h.phase.getD 0
  let s := { s.modQ q (fun h => { h with graph := none, phase := if both then none else h.phase }) with
    graphs := Map.set s.graphs g (Map.get {} s.graphs g : Level).shut
    phases := if both then Map.set s.phases p (Map.get {} s.phases p : Level).shut else s.phases }
  let s := s.endGraph g
  if both then s.endPhase p else s
/-- A launch is refused: it completes REJECTED and frees its entries (R24, R344). -/
def State.reject (s : State) (n : Nat) : State :=
  let s := { s with tiles := s.tiles.map fun (p : Nat × Tile) => if p.2.flipped && p.2.placing.any fun (q : Nat × Nat) => q.1 = n then (p.1, { p.2 with placing := none }) else p }
  (s.modLaunch n fun l => { l with worst := 4, waiting := [], unitsLeft := 0 }).endLaunch s.depth n
/-- The record at the head of a queue is consumed: checks 1 and 2 have been applied; `bad` says that check 1 failed (R344). -/
def State.consume (s : State) (q : Nat) (r0 r1 : Row) (deps : Option (List Nat)) (bad : Bool) : State :=
  let h := s.hostQ q
  let l := launchOf r0 r1
  let n := s.nextLaunch
  let s := s.openLevels q
  let g := (s.hostQ q).graph.getD 0
  let p := (s.hostQ q).phase.getD 0
  let gone := (Map.get {} s.graphs g : Level).status ≠ 0
  let s := s.addLaunch
    { l with host := some (q, h.head.toNat), part := h.part, ctx := h.ctx, pri := h.pri, share := l.quota, deps := deps.getD [], pooled := !bad, graph := g
             phase := p, job := jobKey h.part h.job }
  let s := { s with poolFree := if bad then s.poolFree else s.poolFree - (1 + l.quota), graphs := Map.set s.graphs g (Map.get {} s.graphs g : Level).join }
  let s := (s.modQ q fun h => { h with head := h.head + 1, hist := (h.hist ++ [n]).drop (h.hist.length + 1 - 2 ^ h.log2n) }).journalled 0 n (h.head + 1).toNat
  let s := if (s.hostQ q).head = (s.hostQ q).tail then { s with kickmap := s.kickmap &&& ~~~((1 : BitVec 64) <<< q) } else s
  let s := if recEnds r0 then s.shutLevels q (bitAt r0 219) else s
  if bad then s.reject n else if gone then s.cancelLaunch s.depth n else s.post { op := .launchAdmit, ev := { id := n } }
/-- QUEUE_CONSUME of queue `id` (R339, R340, R344): the next record, when its pool entries can be reserved. -/
def execQueueConsume (s : State) : Out :=
  let q := s.ev.id
  let h := s.hostQ q
  if !h.enable || !s.serving || s.recovery then .next s
  else if 2 ^ h.log2n < h.behind then .next ((s.modQ q fun h => { h with enable := false }).report cQUEUE_OVERRUN q)
  else if h.behind = 0 then .next s
  else
    let a := h.base + 128 * (h.head.toNat % 2 ^ h.log2n)
    let s := s.useRanges h.ctx [(a, 128)]
    match s.hubRow h.ctx a, s.hubRow h.ctx (a + 64) with
    | some r0, some r1 =>
      let deps := h.hostDeps (recDeps r0 r1)
      let bad := recBad r0 r1 || deps.isNone
      if !bad && s.poolFree < 1 + bits r0 255 244 then .next (s.retry .queueConsume)
      else
        let s := s.consume q r0 r1 deps bad
        .next (if (s.hostQ q).behind = 0 then s else s.kick q)
    | _, _ => .next (s.kick q)

/-! ## Admission (R24, R26, R344) -/

/-- Tiles of a partition that are not fenced. -/
def State.usable (s : State) (p : Nat) : Nat :=
  ((List.range 256).filter fun t => s.partOf (BitVec.ofNat 8 t) = some p && !s.isFenced (BitVec.ofNat 8 t)).length
/-- The tiles that have a unit of a launch. -/
def State.resident (s : State) (n : Nat) : List TileNo :=
  (s.tiles.filter fun (p : Nat × Tile) => p.2.unit.any fun (r : UnitRes) => r.launch = n).map fun p => BitVec.ofNat 8 p.1
/-- LIST as tile numbers; none when it does not translate. -/
def State.readList (s : State) (l : Launch) : Option (List TileNo) := (List.range l.nunits).mapM fun i => s.hubByte l.ctx (l.list + i)
/-- Whether every unit of a class runs at once. -/
def isGang (cls : Nat) : Bool := cls = 1 || cls = 2
/-- Checks 3 to 5 of R344. -/
def State.admitsClass (s : State) (l : Launch) : Bool :=
  let par := l.parent.map s.launch
  let room := s.usable l.part - (if l.cls = 2 then (par.map Launch.nunits).getD 0 else 0)
  l.cls ≠ 3
    && !(l.cls = 2 && !(par.any fun (p : Launch) => isGang p.cls) || (l.cls = 2 && (s.resident (l.parent.getD 0)) = []))
    && !(isGang l.cls && room < l.nunits)
/-- Check 6 of R344. -/
def State.admitsList (s : State) (l : Launch) : Bool :=
  l.place ≠ 1 || match s.readList l with
    | none => false
    | some ts => ts.all (fun t => !s.isFenced t && s.partOf t = some l.part) && !(isGang l.cls && ts.eraseDups.length ≠ ts.length)
/-- Checks 3 to 7 of R344. -/
def State.admits (s : State) (l : Launch) : Bool := s.admitsClass l && s.admitsList l && s.imageOk l
/-- The ranges that admission comes to read: LIST for check 6, then those of check 7. -/
def State.admitRanges (s : State) (l : Launch) : List (Nat × Nat) :=
  if !s.admitsClass l then []
  else (if l.place = 1 then [(l.list, l.nunits)] else []) ++ (if s.admitsList l then s.loadRanges l else [])
/-- LAUNCH_ADMIT of launch `id` (R344). -/
def execLaunchAdmit (s : State) : Out :=
  let n := s.ev.id
  let l := s.launch n
  if !s.serving || !Map.has s.launches n || l.status ≠ 0 || l.admitted || l.cancelled then .next s
  else
    let s := s.useRanges l.ctx (s.admitRanges l)
    if !s.admits l then .next (s.reject n) else
    let s := s.modLaunch n fun l => { l with admitted := true, order := s.admitCtr, listTiles := if l.place = 1 then (s.readList l).getD [] else [] }
    .next (((({ s with admitCtr := s.admitCtr + 1 } : State).journalled 1 n 0).pealDispatch 0 n l.nunits).redispatch l.part)

/-! ## Planes on their way (R333, R346) -/

/-- The plane image of a launch, by register number. -/
def State.planeImage (s : State) (l : Launch) (n : Nat) : Word := (s.hubWord l.ctx (l.plane + 8 * (n - 0x100))).getD 0
/-- Sends a tile a launch's plane: the registers that differ from its active plane, or all of them, then the end record. -/
def State.sendPlane (s : State) (t : TileNo) (n : Nat) (whole : Bool) : State :=
  let l := s.launch n
  let s := s.useRanges l.ctx [l.planeRange]
  let u := s.tile t
  let rs := (List.range 33).map (0x100 + ·) |>.filter fun r => whole || s.planeImage l r ≠ u.planeReg r
  (rs.foldl (fun s r => s.post { op := .planeDiff, ev := { tile := t, id := r, w0 := s.planeImage l r } }) s).post
    { op := .planeEnd, ev := { tile := t, id := n, w0 := zext64 (planeCrc (s.planeImage l)) } }
/-- PLANE_DIFF: a difference record, of register `id`. -/
def execPlaneDiff (s : State) : Out :=
  if 0x100 ≤ s.ev.id && s.ev.id ≤ 0x120 then .next (s.modTile s.ev.tile fun u => { u with plane2 := Map.set u.plane2 s.ev.id s.ev.w0 }) else .next s
/-- PLANE_END: the end record, of launch `id` with checksum `w0`. -/
def execPlaneEnd (s : State) : Out :=
  let s := s.modTile s.ev.tile fun u => { u with planeEnd := some (s.ev.id, s.ev.w0.setWidth 32) }
  .next (if (s.tile s.ev.tile).unit.isNone then s.post { op := .planeFlip, ev := { tile := s.ev.tile } } else s)
/-- R58: whether a BANKFMT is refused. -/
def bankFmtBad (f : Word) : Bool :=
  let fmt := bits f 4 0
  let w := mxWidth fmt
  let scaled := bitAt f 23
  let must := (8 ≤ fmt && fmt ≤ 14 && fmt ≠ 0) || fmt = 6 || fmt = 7
  let either := fmt = 4 || fmt = 5
  let rows := bits f 19 7
  let elems := if bitAt f 20 then rows * 512 / w else rows * (512 / container fmt)
  elemOf fmt = .reserved || (must && !scaled) || (!must && !either && scaled) || (scaled && bits f 22 21 = 3)
    || (bitAt f 20 && (w = 0 || rows % w ≠ 0)) || (scaled && 4096 < rows)
    || (scaled && bits f 22 21 ≠ 3 && 262144 < rows * 64 + ceilDiv elems (blkLen (bits f 22 21)))
/-- R332: whether a plane is refused. -/
def planeBad (r : Nat → Word) : Bool :=
  let q (n : Nat) : Word := r (0x11B + n)
  (List.range 24).any (fun i => bankFmtBad (r (0x100 + i)) || bits (r (0x100 + i)) 63 26 ≠ 0 || bits (r (0x100 + i)) 6 5 ≠ 0)
    || bits (r 0x118) 47 41 = 0 || 64 < bits (r 0x118) 47 41
    || (bits (r 0x118) 23 7 ≠ 0 && 98304 < bits (r 0x118) 40 24 + bits (r 0x118) 23 7)
    || (bits (r 0x11A) 12 0 ≠ 0 && 98304 < bits (r 0x11A) 29 13 + bits (r 0x11A) 12 0) || 4096 < bits (r 0x11A) 12 0 || bits (r 0x119) 4 0 ≠ 0
    || (List.range 6).any (fun n => bits (q n) 27 16 < bits (q n) 11 0 || 2048 < bits (q n) 27 16 || bits (q n) 63 28 ≠ 0 || bits (q n) 15 12 ≠ 0)
    || 2048 < ((List.range 6).map fun n => bits (q n) 11 0).sum
    || bits (r 0x118) 6 0 ≠ 0 || bits (r 0x119) 63 56 ≠ 0 || bits (r 0x11A) 63 30 ≠ 0
/-- The tile that a launch's unit was to have is free again. -/
def State.unplace (s : State) (t : TileNo) : State :=
  (s.modTile t fun u => { u with placing := none, flipped := false }).redispatch ((s.partOf t).getD 0)
/-- Whether the unit of a saved entry resumes on a tile. -/
def State.resumes (s : State) (t : TileNo) (n i : Nat) : Bool := s.saved.any fun x => x.launch = n && x.idx = i && x.tileNo = t
/-- The tiles where units of a gang are being placed. -/
def State.placingOf (s : State) (n : Nat) : List (TileNo × Nat × Nat) :=
  let g := s.gangRoot s.depth n
  s.tiles.filterMap fun (p : Nat × Tile) => match p.2.placing with
    | some q => if s.gangRoot s.depth q.1 = g && (s.launch q.1).cls ≠ 0 then some (BitVec.ofNat 8 p.1, q.1, q.2) else none
    | none => none
/-- Starts or resumes the unit that a tile is to have. -/
def State.startAt (s : State) (x : TileNo × Nat × Nat) : State :=
  s.post { op := if s.resumes x.1 x.2.1 x.2.2 then .unitResume else .unitPlace, ev := { tile := x.1, id := x.2.1, num := x.2.2 } }
/-- PLANE_FLIP (R332 to R334): only while no unit is resident. A plane that fails its checksum is sent again whole; a refused one ends its launch. -/
def execPlaneFlip (s : State) : Out :=
  let t := s.ev.tile
  let u := s.tile t
  match u.planeEnd with
  | none => .next s
  | some (n, crc) =>
    if u.unit.isSome then .next s
    else
      let mine := u.placing.any fun (p : Nat × Nat) => p.1 = n
      let live := mine && (s.launch n).status = 0 && !(s.launch n).cancelled
      let keep (s : State) : State := s.modTile t fun u => { u with plane2 := u.plane, planeEnd := none }
      if planeCrc u.planeReg2 ≠ crc then
        let s := (keep s).report cCFG_MISMATCH t.toNat
        .next (if live then s.sendPlane t n true else if mine then s.unplace t else s)
      else if planeBad u.planeReg2 then
        let s := (keep s).report cCFG_INVALID t.toNat
        let s := if !live then s else if (s.launch n).placed = 0 then s.reject n else s.cancelLaunch s.depth n
        .next (if mine then s.unplace t else s)
      else
        let s := s.modTile t fun u => { u with plane := u.plane2, planeEnd := none, flipped := mine }
        if !mine then .next s
        else if !live then .next (s.unplace t)
        else if (s.launch n).cls = 0 then .next (s.startAt (t, n, (u.placing.map Prod.snd).getD 0))
        else
          let g := s.placingOf n
          .next (if g.all fun x => (s.tile x.1).flipped then g.foldl State.startAt s else s)

/-! ## Rounds (R346 to R348) -/

/-- R346: a tile of a partition that is free. -/
def State.isFree (s : State) (p : Nat) (t : TileNo) : Bool :=
  s.partOf t = some p && !s.isFenced t && (s.tile t).unit.isNone && (s.tile t).placing.isNone && (s.tile t).planeEnd.isNone
/-- The free tiles in ascending order. -/
def State.freeTiles (s : State) (p : Nat) : List TileNo := ((List.range 256).map (BitVec.ofNat 8 ·)).filter (s.isFree p)
/-- The saved units that are placed with a launch: its own for WEAK, its gang's for PARALLEL; none for CONCURRENT (R348, R366). -/
def State.savedOf (s : State) (n : Nat) : List Saved :=
  s.saved.filter fun x =>
    !((s.tile x.tileNo).placing = some (x.launch, x.idx))
      && (if (s.launch n).cls = 0 then x.launch = n && x.quota.isNone
          else (s.launch n).cls = 1 && s.gangRoot s.depth x.launch = n && (s.launch x.launch).cls ≠ 0)
/-- Whether some unit of a gang still waits for quota, or the gang is away (R27, R197). -/
def State.gangAway (s : State) (n : Nat) (quota : Bool) : Bool :=
  let g := s.gangRoot s.depth n
  s.saved.any fun x => s.gangRoot s.depth x.launch = g && (s.launch x.launch).cls ≠ 0 && (!quota || x.quota.isSome)
/-- The units that a launch still has to place now: saved ones, then waiting ones. -/
def State.unplaced (s : State) (n : Nat) : List Saved × List Nat :=
  let l := s.launch n
  match l.cls with
  | 0 => (s.savedOf n, l.waiting)
  | 1 => if s.gangAway n true then ([], []) else (s.savedOf n, l.waiting)
  | _ => if s.gangAway n false then ([], []) else ([], l.waiting)
/-- Whether every dependence of a launch has completed (R343). -/
def State.depsDone (s : State) (l : Launch) : Bool := l.deps.all fun d => (s.launch d).status ≠ 0
/-- A dependence that has ended with another status than DONE, under DEPMODE 0 (R343). -/
def State.depFailed (s : State) (l : Launch) : Bool := !l.depmode && l.deps.any fun d => (s.launch d).status ≠ 0 && (s.launch d).status ≠ 1
/-- R343, R347: a launch that may be chosen. -/
def State.readyLaunch (s : State) (p n : Nat) : Bool :=
  let l := s.launch n
  l.part = p && l.admitted && l.status = 0 && !l.cancelled && s.depsDone l && s.unplaced n ≠ ([], [])
/-- The oldest-admitted ready launch attributed to a queue. -/
def State.oldestOf (s : State) (p q : Nat) : Option Nat :=
  (s.launches.filter fun (x : Nat × Launch) => s.readyLaunch p x.1 && ((s.launch (s.rootLaunch s.depth x.1)).host.map Prod.fst) = some q).foldl
    (fun b x => match b with
      | none => some x.1
      | some o => if x.2.order < (s.launch o).order then some x.1 else some o) none
/-- The queues of a partition at a priority, round-robin from the one after `last`. -/
def State.queuesAt (s : State) (p pri last : Nat) : List Nat :=
  ((List.range 64).map fun i => (last + 1 + i) % 64).filter fun q => (s.hostQ q).part = p && (s.hostQ q).pri = pri && Map.has s.hostQs q
/-- `choose` of R347: state with rr advanced, and the launch. -/
def State.choose (s : State) (p : Nat) : State × Option Nat :=
  let part := s.part p
  let lo := match part.reservation with
    | some r => (s.launch r).pri + 1
    | none => 0
  match (List.range 8).reverse.findSome? fun pri =>
      if pri < lo then none
      else (s.queuesAt p pri (Map.get 63 part.rr pri)).findSome? fun q => (s.oldestOf p q).map fun n => (pri, q, n) with
  | some (pri, q, n) => (s.modPart p fun x => { x with rr := Map.set x.rr pri q }, some n)
  | none => (s, part.reservation)
/-- Gives a tile to a unit: its plane is sent, and the unit starts or resumes after the flip (R333, R346). -/
def State.give (s : State) (t : TileNo) (n i : Nat) : State :=
  ((s.modTile t fun u => { u with placing := some (n, i), flipped := false }).journalled 2 n i).sendPlane t n false
/-- Gives tiles to WEAK units one at a time: a waiting unit takes its listed tile, or the lowest free one. -/
def State.giveWeak (s : State) (p n : Nat) : List Nat → State
  | [] => s
  | i :: rest =>
    let l := s.launch n
    let want := if l.place = 1 then (l.listTiles[i]?).filter (s.isFree p) else (s.freeTiles p).head?
    match want with
    | some t => State.giveWeak ((s.give t n i).modLaunch n fun l => { l with waiting := l.waiting.erase i }) p n rest
    | none => if l.place = 1 then State.giveWeak s p n rest else s
/-- Places every unit of a launch that can be placed now (R346): saved units on the tiles they left, a gang whole. -/
def State.placeNow (s : State) (p n : Nat) : State :=
  let l := s.launch n
  let u := s.unplaced n
  if l.cls = 0 then
    (u.1.foldl (fun s x => if s.isFree p x.tileNo then s.give x.tileNo x.launch x.idx else s) s).giveWeak p n u.2
  else
    let free := s.freeTiles p
    let ts := if l.place = 1 then u.2.filterMap fun i => l.listTiles[i]? else free.take u.2.length
    if (u.1.all fun x => free.contains x.tileNo) && ts.length = u.2.length && ts.all fun t => free.contains t then
      let s := u.1.foldl (fun s x => s.give x.tileNo x.launch x.idx) s
      ((u.2.zip ts).foldl (fun s x => s.give x.2 n x.1) s).modLaunch n fun l => { l with waiting := [] }
    else s
/-- The victims that a launch of priority `pri` may pre-empt, in order: lowest priority, then youngest admission; each with its tiles (R348). -/
def State.victims (s : State) (p pri : Nat) : List (List TileNo) :=
  let cand := s.launches.filter fun (x : Nat × Launch) => x.2.part = p && x.2.pri < pri && x.2.cls ≠ 2 && s.resident x.1 ≠ []
  let sorted := cand.foldl (fun (acc : List (Nat × Launch)) x =>
    let ahead := acc.takeWhile fun y => y.2.pri < x.2.pri || (y.2.pri = x.2.pri && x.2.order < y.2.order)
    ahead ++ [x] ++ acc.drop ahead.length) []
  sorted.flatMap fun x => if x.2.cls = 0 then (s.resident x.1).map fun t => [t] else [s.gangTiles ((s.resident x.1).headD 0)]
/-- Takes victims, in their order and none passed over, until the tiles cover what is needed (R348): `want` listed tiles and `n` others. -/
def takeVictims (want : List TileNo) (n : Nat) : List TileNo → List (List TileNo) → List TileNo → Option (List TileNo)
  | have_, vs, got =>
    let done (h : List TileNo) : Bool := want.all h.contains && n ≤ (h.filter fun t => !want.contains t).length
    match vs with
    | [] => if done have_ then some got else none
    | v :: rest =>
      if done have_ then some got else takeVictims want n (have_ ++ v) rest (got ++ v)
/-- `preempt_for` of R348. Tiles that are already being given up count as free. -/
def State.preemptFor (s : State) (p n : Nat) : State :=
  let l := s.launch n
  let u := s.unplaced n
  let want := u.1.map Saved.tileNo ++ (if l.place = 1 then u.2.filterMap fun i => l.listTiles[i]? else [])
  let leaving := (s.tiles.filter fun (x : Nat × Tile) => (x.2.preemptAsk || x.2.preemptReq) && s.partOf (BitVec.ofNat 8 x.1) = some p).map fun x =>
    (BitVec.ofNat 8 x.1 : TileNo)
  let others := (s.victims p l.pri).filter fun v => !(v.any leaving.contains)
  match takeVictims want (if l.place = 1 then 0 else u.2.length) (s.freeTiles p ++ leaving) others [] with
  | some ts => if ts = [] then s else (s.journalled 3 n ts.length).askPreempt ts
  | none => s
/-- Launches that a dependence has ended complete CANCELLED without placing a unit, whatever their other dependences do (R343). -/
def State.failDeps (s : State) (p : Nat) : State :=
  (s.launches.filter fun (x : Nat × Launch) => x.2.part = p && x.2.admitted && x.2.status = 0 && x.2.placed = 0 && s.depFailed x.2).foldl
    (fun s x => s.cancelLaunch s.depth x.1) s
/-- DISPATCH_ROUND of partition `num` (R347). -/
def execDispatchRound (s : State) : Out :=
  let p := s.ev.num
  if !s.serving then .next s
  else
    let s := s.failDeps p
    let s := if (s.part p).reservation.any fun r => s.unplaced r = ([], []) || (s.launch r).status ≠ 0 || (s.launch r).cancelled then
      s.modPart p fun x => { x with reservation := none } else s
    let c := s.choose p
    match c.2 with
    | none => .next c.1
    | some n =>
      let s := c.1
      let size (s : State) : Nat := (s.unplaced n).1.length + (s.unplaced n).2.length
      let before := size s
      let s := s.placeNow p n
      let placed := before - size s
      let s := if placed = 0 then s else (s.pealDispatch 1 n placed).redispatch p
      if size s ≠ 0 then .next ((s.modPart p fun x => { x with reservation := some n }).preemptFor p n)
      else if (s.part p).reservation = some n then .next ((s.modPart p fun x => { x with reservation := none }).redispatch p)
      else .next s

/-! ## Completion to the host and the scheduler cores (R349 to R353) -/

/-- The completion word and then the vector (R349). -/
def State.writeDone (s : State) (n : Nat) : State :=
  let l := s.launch n
  let q := (l.host.map Prod.fst).getD 0
  let w := l.status.toNat * 2 ^ 40 + q * 2 ^ 32 + (l.host.map Prod.snd).getD 0
  let s := s.journalled 4 n 0
  let used := s.hubUsed hubDisp l.ctx (BitVec.ofNat 64 l.doneAddr) false true
  let s := if l.doneAddr = 0 then s
    else match s.hubTranslate hubDisp l.ctx (BitVec.ofNat 64 l.doneAddr) false true with
      | .ok p => used.putBytes p.key 8 w
      | .error _ => used
  if l.irq then s.interrupt q else s
/-- COMPLETION_WORD of launch `id`: held while the gate is closed (R351). -/
def execCompletionWord (s : State) : Out :=
  if s.gate then .next (s.writeDone s.ev.id) else .next { s with heldWords := s.heldWords ++ [s.ev.id] }
/-- The active core halts: the gate closes and the standby core is signalled (R352). -/
def State.haltActive (s : State) : State :=
  if (if s.active then s.halted1 else s.halted0) then s
  else
    let s := { s with gate := false, halted0 := s.halted0 || !s.active, halted1 := s.halted1 || s.active }
    if s.standby then s.later { op := .schedTakeover } else s
/-- CORE_HALT of core `num`: it has read word `aux` of its instruction memory with an uncorrectable error (R350, R352); a standby core that halts stands
by no more. -/
def execCoreHalt (s : State) : Out :=
  let s := { s with coreBad := s.coreBad ++ [(s.ev.num % 2, s.ev.aux % 2 ^ 15)] }
  if (s.ev.num % 2 = 1) = (s.active = true) then .next s.haltActive
  else .next { s with standby := false, halted0 := s.halted0 || s.active, halted1 := s.halted1 || !s.active }
/-- HEARTBEAT_MISS: the active core has missed its heartbeat for 10 µs. -/
def execHeartbeatMiss (s : State) : Out := .next s.haltActive
/-- Whether the hardware shows the action of a journal record as done (R352, step 2): the launch exists, is admitted, has the unit placed, resident,
away or over, or has given up its tiles; a completion word is sent in the step that journals it. -/
def State.journalDone (s : State) (j : Journal) : Bool :=
  let l := s.launch j.id
  match j.kind with
  | 0 => Map.has s.launches j.id
  | 1 => l.admitted || l.status ≠ 0
  | 2 => l.status ≠ 0 || !l.waiting.contains j.val
  | 3 => l.status ≠ 0 || s.unplaced j.id = ([], []) || s.tiles.any fun p => p.2.preemptAsk || p.2.preemptReq
  | _ => true
/-- What the standby core has in its tables after one journal record (R352, step 1); the record of a launch, whose fields the journal does not hold, is
read again where the queue or the parent holds it (log entry 73). -/
def State.replay (s : State) (b : SchedTables) (j : Journal) : SchedTables :=
  match j.kind with
  | 0 =>
    let b := { b with launches := Map.set b.launches j.id { s.launch j.id with admitted := false } }
    match (s.launch j.id).host with
    | some (q, _) => { b with hostQs := Map.set b.hostQs q { s.hostQ q with head := BitVec.ofNat 32 j.val } }
    | none => b
  | 1 => { b with launches := Map.set b.launches j.id { s.launch j.id with admitted := true } }
  | 2 => { b with launches := Map.set b.launches j.id (let l : Launch := Map.get (s.launch j.id) b.launches j.id; { l with waiting := l.waiting.erase j.val }) }
  | _ => b
/-- An action that was journalled and not done is done once more, with the identifier of its record (R352, step 2): admission, or a round, which places
the unit or asks for the tiles again. -/
def State.redo (s : State) (j : Journal) : State :=
  if s.journalDone j then s
  else if j.kind = 1 then s.post { op := .launchAdmit, ev := { id := j.id } }
  else if j.kind = 2 || j.kind = 3 then s.redispatch (s.launch j.id).part
  else s
/-- SCHED_TAKEOVER (R352): the standby core loads the last checkpoint and replays the journal, reconciles every record with the hardware, whose state is
the model's own fields (log entry 73), rescans KICKMAP and opens the gate; held words go in order of completion. -/
def execSchedTakeover (s : State) : Out :=
  if !s.standby || s.gate then .next s
  else
    let down := if s.active then s.halted1 else s.halted0
    let s := ({ s with active := if down then !s.active else s.active, standby := false
                       takeovers := if s.takeovers = BitVec.allOnes 16 then s.takeovers else s.takeovers + 1 } : State).report cSCHED_TAKEOVER 0
    let s := { s with tables := s.journal.foldl s.replay s.tables }
    let s := s.journal.foldl State.redo s
    let s := { s with journal := s.journal.map fun (j : Journal) => { j with done := true } }
    let s := (s.launches.filter fun (x : Nat × Launch) => !x.2.admitted && x.2.status = 0 && !x.2.cancelled).foldl
      (fun s x => s.post { op := .launchAdmit, ev := { id := x.1 } }) s
    let s := (List.range 64).foldl (fun s q => if s.kickmap.getLsbD q then s.kick q else s) s
    let s := (List.range 8).foldl (fun s p => if (s.part p).formed then s.redispatch p else s) s
    let held := s.heldWords
    let s := held.foldl State.writeDone { s with gate := true, heldWords := [] }
    .next ((List.range 8).foldl (fun s p => if (s.part p).formed then s.pealHub p 7 4 0xFF 0 0 else s) s)
/-- The body of the scheduler cores' image in the flash slot used, as far as an instruction memory holds it: 256 KiB (R350, R392). -/
def State.coreImage (s : State) : List Byte :=
  match ((if s.slotUsed then s.fuses.slotB else s.fuses.slotA).filterMap decodeImage).find? fun m => m.target = 1 with
  | some m => m.body.take 262144
  | none => []
/-- Loads a core's instruction memory, which then holds no error. -/
def State.loadCore (s : State) (one : Bool) : State :=
  { s with
    coreMem0 := if one then s.coreMem0 else s.coreImage
    coreMem1 := if one then s.coreImage else s.coreMem1
    coreBad := s.coreBad.filter fun b => b.1 ≠ if one then 1 else 0 }
/-- The cores that step 8 of R391 has started begin to serve: the gate opens (R350, R353; log entry 17). -/
def State.startCores (s : State) : State :=
  { (s.loadCore false).loadCore true with gate := !s.halted0 || !s.halted1, active := s.halted0 && !s.halted1, standby := !s.halted0 && !s.halted1 }
/-- CORE_RELOAD of core `num` (R352): a halted core's instruction memory is loaded and it becomes standby; where no core is active it takes over.
While the other core is about to take over, the reload waits for it (log entry 73). `num` 2 is the start of the cores at the end of the bring-up. -/
def execCoreReload (s : State) : Out :=
  if s.ev.num = 2 then .next s.startCores else
  let one := s.ev.num % 2 = 1
  if !(if one then s.halted1 else s.halted0) then .next s
  else if s.standby && !s.gate then .next (s.retry .coreReload)
  else
    let s := { s.loadCore one with standby := true, halted0 := s.halted0 && one, halted1 := s.halted1 && !one }
    .next (if s.gate then s else s.later { op := .schedTakeover })

end Sys2Proof.Machine
end

