-- ==== Sys2Proof/Machine/Preempt.lean ====
section
/-! DEFINITION. Starting a unit, pre-empting it and resuming it (R11, R18, R28, R94, R95, R259, R277, R281, R342, R346, R348, R360, R366 to R369). -/
namespace Sys2Proof.Machine

/-! ## Image, scratchpad and streams at a start (R28, R342, R346) -/

/-- What a tile keeps from one unit to the next: its clocks, planes, freeze controls, Peal staging, parked messages, TLB and last roll, the operands that
no router has taken (R273) and the delivery records that no CATCH has (R276). -/
def Tile.between (u : Tile) : Tile :=
  { eclk := u.eclk, frozen := u.frozen, haltBrk := u.haltBrk, freezeReq := u.freezeReq, zeroed := u.zeroed, plane := u.plane, plane2 := u.plane2
    planeEnd := u.planeEnd, roll := u.roll, epochs := u.epochs, pealQ := u.pealQ, parked := u.parked, tlb := u.tlb, held := u.held
    shots := u.shots, delivQ := u.delivQ }
/-- The scratchpad of a tile is filled with 0 (R28, R368). -/
def State.wipe (s : State) (t : TileNo) : State :=
  { s with mem := Mem.clear s.mem (tileKey t 0) 0x600000, ecc := s.ecc.filter fun p => !(keyIsS p.1 && keyTile p.1 = t) }
/-- The eight lanes of a line of 32 bytes at a key (R2, R98). -/
def State.lineAt (s : State) (k : Nat) : List Lane := (List.range 8).map fun i => BitVec.ofNat 32 (Mem.readN s.mem (k + 4 * i) 4)
/-- Instruction memory, constant bank and TVEC from a launch's image; an unlisted line holds words of 0xFFFF_FFFF and an unlisted word is 0. -/
def State.loadImage (s : State) (t : TileNo) (l : Launch) (m : UnitImage) : State :=
  let lines := (List.range m.nlines).filterMap fun i => (s.hubKey l.ctx (l.prog + 64 + 32 * i)).map fun k => (i, s.lineAt k)
  let words := (List.range m.nconst).map fun i =>
    (i, (BitVec.ofNat 32 (((s.hubKey l.ctx (l.prog + m.consts + 4 * i)).map fun k => Mem.readN s.mem k 4).getD 0) : Lane))
  s.modTile t fun u => { u with imem := lines, cbank := words.filter fun p => p.2 ≠ 0, tvec := BitVec.ofNat 16 m.tvec }
/-- Copies a segment to its tile offset. -/
def State.loadSegment (s : State) (t : TileNo) (l : Launch) (g : Nat × Nat × Nat) : State :=
  let m := (List.range g.2.1).foldl (fun m i => Mem.write m (tileKey t (g.1 + i)) ((s.hubByte l.ctx (l.prog + g.2.2 + i)).getD 0)) s.mem
  State.fillGranules { s with mem := m } (tileKey t g.1) g.2.1
/-- R28: a stream of a fresh unit, which starts at lane `entry`; 0xFFFF is no entry. -/
def startStrm (entry : Nat) (regs : List Word) : Strm :=
  if entry = 0xFFFF then {}
  else { mode := .running, pc := BitVec.ofNat 16 entry, x := (regs.zipIdx.map fun p => (p.2 + 1, p.1)).filter fun p => p.2 ≠ 0 }
/-- The shapes that the plane registers at unit start, under handles 1 to HTCNT (R28, R329). DESIGN CHOICE (log entry 87): the spec gives
no outcome for a record to which SHAPE would not answer 0; its handle stays free and the unit starts. -/
def State.startShapes (s : State) (t : TileNo) : State :=
  let c := (s.tile t).planeReg 0x11A
  (List.range (bits c 12 0)).foldl (fun s i =>
    let r := s.row (tileKey t (64 * bits c 29 13 + 64 * i))
    if s.shapeStatus t (i + 1) r = 0 then s.modTile t fun u => u.register (i + 1) (shapeOf r) else s) s
/-- The deliveries and arrivals parked for a launch reach its unit, in order (R158, R277). -/
def State.writeParked (s : State) (t : TileNo) (l : Nat) : State :=
  let mine (k : Parked) : Bool := match k with
    | .delivery sh => (s.tag (tagNo sh.tagw)).launch = l
    | .arrival a => a.launch = l
  let ps := (s.tile t).parked.filter mine
  let s := s.modTile t fun u => { u with parked := u.parked.filter fun k => !mine k }
  ps.foldl (fun s k => match k with
    | .delivery sh => s.takeDelivery sh t
    | .arrival a => ({ s with msgs := Map.set s.msgs s.nextId (.arrival a) } : State).bump.post { op := .barrierArrival, ev := { tile := t, id := s.nextId } }) s
/-- The streams of a tile issue from this clock on. -/
def State.startSlots (s : State) (t : TileNo) : State := { s with slots := s.slots ++ allStreams.map fun st => (t, st) }
/-- UNIT_PLACE of unit `num` of launch `id` (R28, R342, R346). -/
def execUnitPlace (s : State) : Out :=
  let t := s.ev.tile
  let n := s.ev.id
  let i := s.ev.num
  let l := s.launch n
  let u := s.tile t
  if u.placing ≠ some (n, i) || !u.flipped || u.unit.isSome then .next s
  else if l.status ≠ 0 || l.cancelled then .next (s.unplace t)
  else if s.late then .next (s.retry .unitPlace)
  else if !s.mapped l.ctx (s.imageRanges l) then .next ((s.useRanges l.ctx (s.imageRanges l)).retry .unitPlace)
  else
    let s := s.useRanges l.ctx (s.imageRanges l)
    match s.image l with
    | none => .next (s.retry .unitPlace)
    | some m =>
      let base := tileKey t 0
      let s := if u.zeroed then s else s.wipe t
      let regs : List Word :=
        [BitVec.ofNat 64 i, BitVec.ofNat 64 l.nunits, BitVec.ofNat 64 l.args, BitVec.ofNat 64 base, BitVec.ofNat 64 n]
      let s := s.setTile t
        { u.between with
          zeroed := true, emptyGr := [], unit := some { launch := n, idx := i : UnitRes }
          c := startStrm (m.entries.getD 0 0xFFFF) regs
          v := startStrm (m.entries.getD 1 0xFFFF) regs
          f := startStrm (m.entries.getD 2 0xFFFF) regs }
      let s := (s.loadImage t l m).modLaunch n fun l => { l with placed := l.placed + 1 }
      let s := ((s.segments l m).foldl (fun s g => s.loadSegment t l g) s).startShapes t
      .next ((s.writeParked t n).startSlots t)

/-! ## The stop (R360, R366, R367) -/

/-- Steps that belong to the resident unit of their tile. -/
def unitStep (i : Instr) : Bool :=
  match i with
  | .interlockedResult | .storePerformed | .loadPerformed | .stretchEnd | .asyncTrap | .handlerEntry | .copyRow | .copySuspend | .weightLoadComplete
  | .matmulPass | .rowFinal | .accDrain | .demandAppend | .feedStage | .rollDrainWrite | .channelResend | .taskCancelStop | .taskFail | .tlbWalk
  | .idleTimerExpiry | .lineFetch | .resultLand => true
  | _ => false
/-- A store by the host, which belongs to no unit (R88). -/
def Act.byHost (a : Act) : Bool := a.op = .storePerformed && a.ev.id = 0 && a.ev.num ≠ 3
/-- Whether a step belongs to the unit of a tile. -/
def Act.ofTile (t : TileNo) (a : Act) : Bool := unitStep a.op && a.ev.tile = t && !a.byHost
/-- A stream at its stop: it will issue the instruction it waits in again; its line is fetched again. -/
def Strm.stop (y : Strm) : Strm := let z := y.abandon; { z with pc := z.home, check := none, buf := none, fetch := none, fetchBad := false }
/-- Results that the unit carries with it: of a remote store or post, a POST not yet accepted, a SHOT, a FEED or a DRAIN. -/
def State.carried (s : State) (t : TileNo) (a : Await) : Bool :=
  let u := s.tile t
  !a.ready && !a.isLoad && (s.txTags.any (fun (p : Nat × TxTag) => p.2.busy.any fun r => r.kind ≠ .chanRow && r.await = a.id) || u.posts.any (fun p => p.id = a.id) || u.shots.any (fun o => o.id = a.id)
    || (s.gangTiles t).any fun x => (s.tile x).roll.feeds.any (fun f => f.id = a.id && f.tile = t) || (s.tile x).roll.drains.any fun d => d.id = a.id && d.tile = t)
/-- A row of a SEND of a tile is on its way, or its answer is. -/
def State.rowsOut (s : State) (t : TileNo) : Bool :=
  s.msgs.any fun m => match m.2 with
    | .chanRow r => r.srcTile = t && r.srcAcc < 2 ^ 48
    | .chanAck r _ => r.srcTile = t
    | .request r => r.kind = .chanRow && r.tile = t
    | .reply r => r.req.kind = .chanRow && r.req.tile = t
    | _ => false
/-- The step of a store to host memory that the bridge has accepted: FENCE device does not wait for it, so it goes on past a save (R84, R95). -/
def State.outbound (s : State) (a : Act) : Bool :=
  match a.op with
  | .storePerformed => (s.strmWith a.ev.tile a.ev.st a.ev.id).accs.any fun e => e.id = a.ev.id && e.fenceOk a.ev.tile 4
  | _ => false
/-- R95, R366, R367: whether a unit that has stopped can be saved: its loads are complete, its stores meet FENCE device, and fire-and-forget stores
stay counted. -/
def State.quiet (s : State) (t : TileNo) : Bool :=
  let u := s.tile t
  let r := u.roll
  let acts := s.agenda ++ s.lateQ ++ s.timers.map Prod.snd ++ s.tiles.flatMap fun p => p.2.held
  u.preemptReq
    && allStreams.all (fun st => let z := u.strm st; z.accs.all (Access.fenceOk t 4) && z.awaits.all (s.carried t))
    && u.wload.isNone && (u.mat.all fun m => m.pipe = [])
    && (u.rollTask.all fun _ => r.state ≠ 2 && r.pipe = [])
    && !(u.window.any fun k => k.st = 2 && k.record.eng = 5)
    && !(u.window.any fun k => k.st = 2 && k.record.indexed && k.rowIdx ≠ 0 && !k.suspended)
    && !s.rowsOut t && !(acts.any fun a => a.ofTile t && !s.outbound a)
/-- Scratchpad ranges of the footprint of R368, as first key and length. -/
def State.footprint (s : State) (t : TileNo) : List (Nat × Nat) :=
  let u := s.tile t
  let l := s.launch u.launchNo
  let segs := match s.image l with
    | some m => (s.segments l m).map fun g => (tileKey t g.1, g.2.1)
    | none => []
  let homes := u.handles.flatMap fun (p : Nat × Handle) =>
    let h := p.2.shape
    if h.space = 0 then [h.base, p.2.cur].map fun a => (rowOf a, 64 * h.footRows a) else []
  segs ++ homes ++ u.pool.map (fun v => (v.base, 64 * v.rows)) ++ [((s.pool t).1, 64 * (s.pool t).2)]
    ++ (u.cbs.filter fun p => p.2.valid).map (fun p => (tileKey t (64 * p.2.baseRow.toNat), 64 * (p.2.slot * p.2.nSlots.toNat)))
    ++ (u.chans.filter fun p => p.2.state = 1).map fun p => (rowOf p.2.start, 64 * p.2.rows)
/-- A key of the tile's slice that lies in the footprint. -/
def inFoot (t : TileNo) (fs : List (Nat × Nat)) (k : Nat) : Bool :=
  keyIsS k && keyTile k = t && fs.any fun f => f.1 ≤ k && k < f.1 + f.2
/-- Saves the unit of a tile, with the others of its gang `g`, which becomes free (R366, steps 4 and 5, R368). Its array keeps FINAL words, other launches' demands and the FEEDs and
DRAINs of units that stay, which the spec does not save; a roll that is saved leaves its epoch there, and its array is FORMING until it resumes. -/
def State.saveUnit (s : State) (g : List TileNo) (t : TileNo) : State :=
  let u := s.tile t
  match u.unit with
  | none => s
  | some r =>
    let fs := s.footprint t
    let away (a : Act) : Bool := a.ofTile t && !s.outbound a && !(a.op = .feedStage && u.roll.feeds.any fun f => f.id = a.ev.id && !g.contains f.tile)
    let mine (o : ShotOp) : Bool := o.shot.launch = r.launch && o.unit = r.idx
    let ops := (u.shots.filter mine).map fun o => { o with shot := { o.shot with bounces := ((s.msgs.findSome? fun m => match m.2 with
        | .shot sh _ => if !sh.fromRouter && sh.op = o.id then some sh.bounces else none
        | _ => none).getD o.shot.bounces) } }
    let keep : Tile :=
      { u.modAll Strm.stop with
        preemptAsk := false, preemptFor := none, preemptReq := false, stretched := false, shots := ops, edgeWait := [], parked := [], demandQ := [], delivQ := []
        roll := { u.roll with demands := [], late := [], feeds := u.roll.feeds.filter (fun f => g.contains f.tile), drains := u.roll.drains.filter fun d => g.contains d.tile }
        emptyGr := u.emptyGr.filter fun g => inFoot t fs (tileKey t (16 * g)), fetchQ := [], imem := [], cbank := []
        ecc := u.ecc.filter fun p => !(eccConst 0 ≤ p.1 && p.1 < eccAcc 0) && p.1 < eccLine 0 }
    let x : Saved :=
      { launch := r.launch, idx := r.idx, tileNo := t, tile := keep, cells := s.mem.filter fun c => inFoot t fs c.1
        quota := u.preemptFor, acts := s.waiters.filter away }
    let s := { s with
      saved := s.saved ++ [x]
      waiters := s.waiters.filter fun a => !away a
      slots := s.slots.filter fun p => p.1 ≠ t
      msgs := s.msgs.filter fun m => match m.2 with
        | .shot sh _ => sh.fromRouter || !(ops.any fun o => o.id = sh.op)
        | _ => true }
    let left : Roll := if u.rollTask.isSome then { u.roll with state := 1, drSlots := [], pipe := [], late := [], stopping := none } else u.roll
    let roll := { left with
      feeds := u.roll.feeds.filter fun f => !g.contains f.tile
      drains := u.roll.drains.filter fun d => !g.contains d.tile
      demands := u.roll.demands.filter fun d => d.launch ≠ r.launch || bits d.word 63 62 = 3 }
    (s.setTile t { u.between with emptyGr := u.emptyGr, edgeWait := u.edgeWait, roll := roll, shots := u.shots.filter fun o => !mine o }).parkEdge t
/-- PREEMPT_TAKE (R360, R366): voided when the unit is over, deferred while its traps are handled; once every member of the gang has
stopped and is quiet, it is saved. -/
def execPreemptTake (s : State) : Out :=
  let t := s.ev.tile
  let u := s.tile t
  if u.unit.isNone || u.unitOver then .next (s.modTile t fun u => { u with preemptAsk := false, preemptFor := none })
  else if !u.preemptReq then
    if !u.preemptAsk || u.c.priv ≠ 0 || u.handling.isSome || allStreams.any (fun st => (u.strm st).mode = .held) then .next s
    else .next (s.modTile t fun u => { u.modAll Strm.abandon with preemptReq := true, stopAt := u.eclk })
  else
    let g := s.gangTiles t
    if g.all s.quiet then
      let l := u.launchNo
      let p := (s.launch l).part
      let s := s.pealDispatch 2 l g.length
      .next ((g.foldl (fun s t => s.saveUnit g t) (g.foldl State.showTile s)).redispatch p)
    else .next s

/-! ## Resumption (R369) -/

/-- What the engines of a resumed unit take up again: copies, rows of a SEND without an answer, the next pass, the roll's group, its shots. -/
def State.resumeEngines (s : State) (t : TileNo) (acts : List Act) : State :=
  let u := s.tile t
  let busy := u.window.filter fun k => k.st = 2 && k.ended.isNone
  let s := busy.foldl (fun s k =>
    if k.record.eng = 1 || (k.record.eng = 0 && !k.record.recv && !k.suspended) then
      let s := if k.record.channel then
          (List.range k.prog).foldl (fun s j =>
            if k.written.contains j then s
            else match s.spaceKey t (s.side t k 0).h ((s.side t k 0).sendRow j) true false with
              | .ok key => s.post { op := .channelResend, ev := { tile := t, id := k.uid, num := j, wide := s.row key } }
              | .error e => s.sendFault t k j e) s
        else s
      s.atClock (s.clock + 1) { op := .copyRow, ev := { tile := t, id := k.acc } }
    else s) s
  let s := match u.mat with
    | some m => if m.finished then s else s.atClock (s.clock + 1) { op := .matmulPass, ev := { tile := t, id := m.acc } }
    | none => s
  let s := if u.rollTask.isSome && u.roll.state = 1 then s.post { op := .groupForm, ev := { id := u.roll.bus } } else s
  let s := if u.rollTask.isSome && u.roll.state = 3 then s.raiseAgain t else s
  let s := (u.shots.filter fun o => !(s.msgs.any fun m => match m.2 with
      | .shot sh _ => !sh.fromRouter && sh.op = o.id
      | _ => false)).foldl (fun s o => s.send (.shot o.shot (meetingRouter (tagNo o.shot.tagw))) .rimshotArrival (meetingRouter (tagNo o.shot.tagw))) s
  { s with waiters := s.waiters ++ acts }
/-- UNIT_RESUME of unit `num` of launch `id`, on the tile it left: its image again, its state, its parked messages; its streams go on in the next
tick of its saved TTICK, which the next clock begins. -/
def execUnitResume (s : State) : Out :=
  let t := s.ev.tile
  let n := s.ev.id
  let l := s.launch n
  let u := s.tile t
  match s.saved.find? fun x => x.launch = n && x.idx = s.ev.num && x.tileNo = t with
  | none => .next s
  | some x =>
    if u.placing ≠ some (n, s.ev.num) || !u.flipped || u.unit.isSome then .next s
    else if l.status ≠ 0 || l.cancelled then .next (s.unplace t)
    else if s.late then .next (s.retry .unitResume)
    else if !s.mapped l.ctx (s.codeRanges l) then .next ((s.useRanges l.ctx (s.codeRanges l)).retry .unitResume)
    else
      let s := s.useRanges l.ctx (s.codeRanges l)
      match s.image l with
      | none => .next (s.retry .unitResume)
      | some m =>
        let w := x.tile
        let s := { s with
          saved := s.saved.erase x
          mem := x.cells.foldl (fun m (c : Host.Cell) => Mem.write m c.1 c.2) (s.wipe t).mem
          ecc := (s.wipe t).ecc }
        let kept := u.roll
        let roll := if w.rollTask.isSome then { w.roll with feeds := w.roll.feeds ++ kept.feeds, drains := w.roll.drains ++ kept.drains, demands := kept.demands } else kept
        let s := s.setTile t
          { w.modAll Strm.mark with
            eclk := u.eclk, frozen := u.frozen, haltBrk := u.haltBrk, freezeReq := u.freezeReq, zeroed := true, plane := u.plane
            plane2 := u.plane2, planeEnd := u.planeEnd, roll := roll, epochs := max u.epochs w.epochs, pealQ := u.pealQ, parked := u.parked, tlb := u.tlb
            held := u.held, shots := w.shots ++ u.shots, delivQ := u.delivQ }
        let s := if w.rollTask.isSome then kept.drains.foldl (fun s d => s.atClock (s.clock + 1) { op := .rollDrainWrite, ev := { tile := t, id := d.id } }) s else s
        let s := (s.loadImage t l m).resumeEngines t x.acts
        .next (s.writeParked t n)

end Sys2Proof.Machine
end

