-- ==== Sys2Proof/Machine/Observe.lean ====
section
/-! DEFINITION. PC samples, the Peal ring, its registers and the counter bank; firmware's register writes (R3, R370, R377, R384 to R390). -/
namespace Sys2Proof.Machine

/-- The stall reason of a stream in a clock (R384). DESIGN CHOICE (log entry 67): a stream that has stopped for pre-emption waits for FENCE device (R95)
in the clocks after the one in which the request was taken, unless it waited already. -/
def Tile.reason (u : Tile) (st : Stream) : BitVec 5 :=
  let z := u.strm st
  if z.isOver then rNONE else if z.mode = .held then rHELD
  else if u.preemptReq && u.stopAt < u.eclk then (if z.stall = rISSUED || z.stall = rHELD then rFENCE else z.stall)
  else if u.stretched then rTICK_FREEZE else z.stall
/-- PC_SAMPLE (R385): TTICK, PCs and reasons of a tile with a resident unit. -/
def execPcSample (s : State) : Out :=
  let t := s.ev.tile
  let u := s.tile t
  match s.partOf t with
  | none => .next s
  | some p =>
    if (s.part p).pealPeriod = 0 || u.unit.isNone then .next s
    else
      let w := (allStreams.map fun st => ((u.strm st).pc.toNat + (u.reason st).toNat * 2 ^ 16) * 2 ^ (64 + 21 * streamNo st)).sum
      .next (s.pealTile t 1 0 u.launchNo (u.ttick % 2 ^ 64 + w))

/-! ## The ring (R386, R387) -/

/-- The context in which a partition's ring is translated: its lowest (log entry 26). -/
def Part.ringCtx (p : Part) : Nat := (findFrom (fun c => p.ctxs.getLsbD c) 0 64).getD 0
/-- The address of the record at WR. -/
def Part.ringAt (q : Part) : Word := BitVec.ofNat 64 (bits q.pealBase 55 0 + 32 * (q.pealWr.toNat % 2 ^ q.pealSize.toNat))
/-- Writes one record at WR, which then advances; none when the ring's address does not translate. It is translated as the dispatcher's are, whose
TLB it uses (log entry 66). -/
def State.ringWrite (s : State) (p : Nat) (r : BitVec 256) : Option State :=
  let q := s.part p
  match s.hubTranslate hubDisp q.ringCtx q.ringAt false true with
  | .ok k => some (((s.hubUsed hubDisp q.ringCtx q.ringAt false true).putBytes k.key 32 r.toNat).modPart p fun q => { q with pealWr := q.pealWr + 1 })
  | .error _ => none
/-- A record that the ring's translation loses: the fault's subcause is reported (R372). -/
def State.ringLost (s : State) (p tile : Nat) : State := (s.hubUsed hubDisp (s.part p).ringCtx (s.part p).ringAt false true).pealDrop p tile
/-- The hub takes a record: written behind a DROP record when records have been lost, or dropped (R387). -/
def State.ringTake (s : State) (p : Nat) (r : BitVec 256) : State :=
  let q := s.part p
  let tile := bits r 95 88
  if q.pealSize.toNat < 10 || 26 < q.pealSize.toNat then s
  else
    let used := (q.pealWr - q.pealRd).toNat
    let size := 2 ^ q.pealSize.toNat
    if q.pealLost = 0 then
      (if used + 1 ≤ size then (s.ringWrite p r).getD (s.ringLost p tile) else s.pealDrop p tile)
    else if size < used + 2 then s.pealDrop p tile
    else match (s.ringWrite p (pealRec s.fabric 8 0 0xFF 0 q.pealLost.toNat)).bind fun s => s.ringWrite p r with
      | some s => s.modPart p fun q => { q with pealLost := 0 }
      | none => s.ringLost p tile
/-- PEAL_RECORD of partition `num`: the hub takes the oldest record of a tile, or with `aux` 1 of its own sources; with `aux` 2 the record `wide` of a
tile comes to its staging queue, after the clock's other queues (R330). -/
def execPealRecord (s : State) : Out :=
  let p := s.ev.num
  if s.ev.aux = 2 then .next (s.pealStage s.ev.tile p (s.ev.wide.setWidth 256)) else
  if s.ev.aux = 1 then
    match (s.part p).hubPeal with
    | r :: rest => .next ((s.modPart p fun q => { q with hubPeal := rest }).ringTake p r.2)
    | [] => .next s
  else match (s.tile s.ev.tile).pealQ with
    | r :: rest => .next ((s.modTile s.ev.tile fun u => { u with pealQ := rest }).ringTake p r.2)
    | [] => .next s

/-! ## Registers of the host and of firmware (R3, R370, R377, R386, R390) -/

/-- Whether the host's write to a register of partition `num` is taken: there are eight blocks, and the link answers only under IDE (R399). -/
def State.hostWrites (s : State) : Bool := s.ide && s.ev.num < 8
/-- PEALCTL of partition `num` := `w0`: SPERIOD and SRCEN; the other fields are read-only. -/
def execPealctl (s : State) : Out :=
  if !s.hostWrites then .next s
  else .next (s.modPart s.ev.num fun q => { q with pealPeriod := BitVec.ofNat 16 (bits s.ev.w0 31 16), pealSrc := s.ev.w0.setWidth 8, sampleFrom := s.clock })
/-- PEALRD of partition `num` := `w0`: frees space from the next clock; a value above WR or below RD is ignored. -/
def execPealrd (s : State) : Out :=
  let q := s.part s.ev.num
  if !s.hostWrites || q.pealWr.toNat < s.ev.w0.toNat || s.ev.w0.toNat < q.pealRdNext.toNat then .next s
  else .next (s.modPart s.ev.num fun q => { q with pealRdNext := s.ev.w0 })
/-- CSELn of partition `num` := `w0`, n in `id`: CNTn is 0 in the same clock, whose events it does not count. -/
def execCsel (s : State) : Out :=
  let n := s.ev.id
  if !s.hostWrites || 64 ≤ n then .next s
  else .next (s.modPart s.ev.num fun q =>
    { q with csel := Map.set q.csel n (s.ev.w0 &&& 0xFF80FFFF), cnt := Map.set q.cnt n 0, cselAt := Map.set q.cselAt n (s.clock + 1) })
/-- A routing entry as firmware writes it, whose layout is the model's own (log entry 41): nine slots of 32 bits, the minimal path first: [31] present,
[30:29] hops, [26:16] intermediate router, [5:0] first-hop port. -/
def routeOf (w : BitVec 512) : List Path :=
  (List.range 9).filterMap fun i =>
    if bitAt w (32 * i + 31) then
      some { port := bits w (32 * i + 5) (32 * i), hops := bits w (32 * i + 30) (32 * i + 29), via := if i = 0 then none else some (bits w (32 * i + 26) (32 * i + 16)) }
    else none
/-- The paths whose first link is up (R379). -/
def State.upPaths (s : State) (ps : List Path) : List Path := ps.filter fun p => p.port < 35 && Map.get 2 s.portLanes p.port ≠ 0
/-- REGISTER_WRITE of value `w0`: firmware's FABCFG (`num` 1), translation descriptor of context `id` (2, while no unit of it is resident), PEALBASE
and PEALSIZE of partition `id` (3 and 4, while SRCEN is 0), the paths `wide` to package `id` in the routing
table (5, R379); or the host's of a word at offset `id` of the MSI-X table (6, R401). Firmware writes nothing in recovery mode
(R394). Any other register that has no step of its own is read-only or not listed. -/
def execRegisterWrite (s : State) : Out :=
  let w := s.ev.w0
  let n := s.ev.id
  if s.recovery then .next s else
  match s.ev.num with
  | 1 => .next { s with bias := BitVec.ofNat 8 (bits w 23 16), ttimeout := w.setWidth 16 }
  | 2 =>
    if 64 ≤ n || s.tiles.any fun p => p.2.unit.isSome && s.tileCtx (BitVec.ofNat 8 p.1) = n then .next s
    else .next { s with ctxs := Map.set s.ctxs n { s.ctx n with root := bits w 55 17 * 2 ^ 17, enable := bitAt w 0 } }
  | 3 => if (s.part n).pealSrc ≠ 0 then .next s else .next (s.modPart n fun q => { q with pealBase := BitVec.ofNat 64 (bits w 55 6 * 64) })
  | 4 => if (s.part n).pealSrc ≠ 0 then .next s else .next (s.modPart n fun q => { q with pealSize := w.setWidth 5 })
  | 6 => .next (if s.ide && n < 66 * 16 && n % 8 = 0 then s.msixWrite (n / 8) w else s)
  | 5 => .next { s with routes := Map.set s.routes n (s.upPaths (routeOf s.ev.wide)) }
  | _ => .next s

end Sys2Proof.Machine
end

