-- ==== Sys2Proof/Machine/StatePort.lean ====
section
/-! DEFINITION. What the state port and the host's register map show (R73, R155, R333 to R336, R338, R339, R353, R357, R382, R386, R390, R401). The
spec names the objects by class and gives some of them a layout; the index of an object within its class, and the layout of the others as 64-bit
words in the order below, are the model's (log entry 5). -/
namespace Sys2Proof.Machine

/-- A row as its eight words, an accumulator row as its 64. -/
def rowWords {n : Nat} (r : BitVec n) : List Word := (List.range (n / 64)).map fun j => r.extractLsb' (64 * j) 64
/-- A number as a word. -/
def natWord (n : Nat) : Word := BitVec.ofNat 64 n
/-- A word whose bit i says whether `p i`. -/
def maskWord (p : Nat → Bool) (from_ : Nat) : Word := natWord (((List.range 64).filter fun i => p (from_ + i)).map fun i => 2 ^ i).sum

/-! ## Classes 0 and 1: streams and the Carillon -/

/-- A flight record: FRDEST's word, then its value (R357, R358). -/
def Flight.words (f : Flight) (now : Nat) : List Word :=
  f.destWord now :: (rowWords f.data).take (f.dest.width / 64)
/-- A lane pattern as VPAT takes it (R205). -/
def Pat.word (p : Pat) : Word := natWord (p.kind.toNat + p.k.toNat * 8 + p.sel.toNat * 256)
/-- What V has beside the registers of every stream: VTYPE, VWBASE, m1 to m7, the sixteen lane patterns (R112, R200, R205). -/
def Tile.vectorWords (u : Tile) : List Word :=
  [zext64 u.vtype, zext64 u.vwbase] ++ (List.range 7).flatMap (fun i => rowWords (u.mask (BitVec.ofNat 3 (i + 1))))
    ++ (List.range 16).map fun i => (Map.get {} u.pats i : Pat).word
/-- Class 0, index 0 to 2 for C, V and F: PC and privilege, FLAGS, mode; x0 to x31; q0 to q7; for V its vector state; pending bits of x and q, of
m0 to m7, and of the accumulator rows; flight records; the frame's own registers and records. -/
def Tile.streamObject (u : Tile) (st : Stream) : List Word :=
  let z := u.strm st
  let pend (d : Nat → Dest) (n i : Nat) : Bool := i < n && z.pending.contains (d i)
  [zext64 z.pc ||| zext64 z.priv <<< 16, zext64 z.flags, natWord (match z.mode with | .noEntry => 0 | .running => 1 | .ended => 2 | .held => 3)]
    ++ (List.range 32).map (fun i => z.xr (BitVec.ofNat 5 i)) ++ (List.range 8).flatMap (fun i => rowWords (Map.get 0 z.q i : Row))
    ++ (if st = .V then u.vectorWords else [])
    ++ [maskWord (pend (fun i => .x (BitVec.ofNat 5 i)) 32) 0, maskWord (pend (fun i => .q (BitVec.ofNat 3 i)) 8) 0,
        maskWord (pend (fun i => .mask (BitVec.ofNat 3 i)) 8) 0]
    ++ (List.range 4).map (fun g => maskWord (pend .acc 256) (64 * g))
    ++ (natWord z.flights.length :: z.flights.flatMap fun f => f.words u.ttick)
    ++ [z.frame.tstatus, zext64 z.frame.cause, zext64 z.frame.tpc, z.frame.taddr, z.frame.tinfo] ++ (List.range 4).map (fun i => Map.get 0 z.frame.scratch i)
    ++ z.frame.flights.flatMap fun f => f.words z.frame.stopTick
/-- An interval box. -/
def Ivl.words (v : Ivl) : List Word := [v.l0, v.h0, v.l1, v.h1, v.l2, v.h2].map natWord
/-- A task record: header, parameters, actions, and its slots (R163, R164). -/
def TaskRec.words (r : TaskRec) : List Word :=
  [natWord (r.eng + r.op * 2 ^ 8 + r.pri * 2 ^ 16 + r.rm.toNat * 2 ^ 24 + r.prows * 2 ^ 32 + r.pblk * 2 ^ 48) ||| ofBool r.rmv <<< 26, r.p0, r.p1, r.p2, r.p3, r.act0, r.act1]
    ++ r.boxes.flatMap fun b => match b with
      | some b => natWord (b.handle + b.idim * 2 ^ 16 + b.iaddr * 2 ^ 32) :: ofBool b.write :: b.iv.words
      | none => List.replicate 8 0
/-- Class 1, index 0 to 63: a window entry with its TSTAT word, sequence number, edges, bound versions and resolved boxes. -/
def Task.words (k : Task) : List Word :=
  [tstatWord k.st k.fault k.flags, zext64 k.seq, natWord k.acc] ++ k.record.words ++ k.bases.map natWord ++ k.ivs.flatMap Ivl.words
    ++ k.edges.map fun e => natWord (e.older * 2 ^ 8 + e.box * 4 + match e.kind with | .raw => 0 | .waw => 1 | .war => 2)
/-- A finished task's TSTAT word, with its sequence number (R188). -/
def DoneTask.words (d : DoneTask) : List Word := [zext64 d.seq, tstatWord d.st d.fault d.flags]
/-- An object of class 1: window entries in order of acceptance, at 64 the remote-post queue, at 65 the record of R188. -/
def Tile.graphObject (u : Tile) (i : Nat) : Option (List Word) :=
  if i < 64 then (u.window[i]?).map Task.words
  else if i = 64 then some (u.remoteQ.flatMap fun r => r.record.words)
  else if i = 65 then some (u.done.flatMap DoneTask.words)
  else none

/-! ## Classes 2 to 4: handles, queues, barriers, buffers and channels -/

/-- A live handle: its shape, its current version and its poison box (R64, R68, R181). -/
def Handle.words (h : Handle) : List Word :=
  let d := h.shape
  [d.space, d.dims, d.blk, d.fmt, d.window, d.base, d.scaleBase, d.stride1, d.stride2, d.ext0, d.ext1, d.ext2, d.bound, h.cur].map natWord
    ++ [ofBool d.rename, ofBool d.layout, ofBool d.scaled, ofBool h.inPool, ofBool h.poison.isSome] ++ (h.poison.getD {}).words
/-- Class 2: handle n at index n, the rename slots at 0. -/
def Tile.handleObject (u : Tile) (i : Nat) : Option (List Word) :=
  if i = 0 then some (u.pool.flatMap fun v => [v.handle, v.base, v.rows].map natWord) else (u.handle i).map Handle.words
/-- An arrival (R158). -/
def Arrival.words (a : Arrival) : List Word := [natWord (a.home.toNat + a.idx * 2 ^ 8), natWord a.launch, natWord (a.tile.toNat * 4 + streamNo a.st), 0]
/-- What is held at the edge of a frozen tile (R336): messages in order of arrival, then the steals and the balances that wait for its queues,
behind a word with bit 63 set, each by the tile that asks. -/
def State.edgeWords (s : State) (t : TileNo) : List Word :=
  ((s.tile t).held.flatMap fun a => [natWord a.ev.id, natWord a.ev.num, natWord a.ev.aux, a.ev.w0])
    ++ ((s.steals.filter fun q => q.victim = t).flatMap fun q => [natWord (2 ^ 63), natWord q.id, natWord q.thief.toNat, 0])
    ++ (s.tiles.filter fun (p : Nat × Tile) => p.2.v.waitN = some (2 ^ 50 + t.toNat)).flatMap fun p => [natWord (2 ^ 63), 1, natWord p.1, 0]
/-- Class 3: the deque, QCNT0 to QCNT5, the conditional queue, demand words, delivery records, at 5 what is held at the edge of a frozen tile (R336),
at 6 the barrier message queue (R331), at 7 the records of the Peal staging queue, each behind its source. -/
def State.queueObject (s : State) (t : TileNo) (i : Nat) : Option (List Word) :=
  let u := s.tile t
  match i with
  | 0 => some u.deque
  | 1 => some ((List.range 6).map fun q => natWord (u.qCount q))
  | 2 => some (u.condQ.map zext64)
  | 3 => some u.demandQ
  | 4 => some (u.delivQ.flatMap fun d => [d.tagw, d.word])
  | 5 => some (s.edgeWords t)
  | 6 => some (u.barQ.flatMap Arrival.words)
  | 7 => some (u.pealQ.flatMap fun r => natWord r.1 :: rowWords r.2)
  | _ => none
/-- A channel (R293, R295). -/
def Channel.words (c : Channel) : List Word := [zext64 c.state, natWord c.wm, natWord c.start, natWord c.rows]
/-- Class 4: barrier n at index n as CSRR reads it (R155), circular buffer n at 128 + n likewise (R73), channel n at 256 + n with WM. -/
def Tile.syncObject (u : Tile) (i : Nat) : Option (List Word) :=
  if i < 128 then some [(Map.get {} u.bars i : Barrier).word]
  else if i < 136 then some [(Map.get {} u.cbs (i - 128) : CircBuf).word]
  else if 256 ≤ i && i < 320 then some (Map.get {} u.chans (i - 256) : Channel).words
  else none

/-! ## Classes 5 to 7: the array, Rimshot, planes -/

/-- A weight plane: its kind, then its elements and scales that are not zero, each behind its place. -/
def WPlane.words (w : WPlane) : List Word :=
  [natWord w.fmt, natWord w.blk, natWord w.prec, ofBool w.sparse, natWord w.elems.length] ++ w.elems.flatMap (fun p => [natWord p.1, zext64 p.2])
    ++ w.scales.flatMap fun p => [natWord p.1, zext64 p.2]
/-- The Roll state: what ROLLSTAT reads (R267), then the counters of demands and the slots' steps. -/
def Roll.words (r : Roll) : List Word :=
  (List.range 5).map r.stat ++ [r.raisedO, r.raisedW, r.raisedD, r.wDelivered].map natWord
    ++ r.slots.flatMap (fun o => [natWord o.step, natWord o.rows.length]) ++ r.drSlots.flatMap fun d => [natWord d.step, natWord d.written]
/-- Class 5: accumulator row n at index n, the active and shadow plane at 256 and 257, the Roll state at 258, top-k row n at 512 + n. -/
def Tile.arrayObject (u : Tile) (i : Nat) : Option (List Word) :=
  if i < 256 then some (rowWords (u.accAt i))
  else if i = 256 then some u.planeA.words
  else if i = 257 then some u.planeS.words
  else if i = 258 then some u.roll.words
  else if 512 ≤ i && i < 640 then some ((List.range 32).map fun j => let e : TopEntry := (Map.get [] u.topk (i - 512)).getD j {}; zext64 e.i <<< 32 ||| zext64 e.v)
  else none
/-- Rows under a tag: the tag's word, origin and leaves, whether an orphan, the number of rows, and the rows (R272). -/
def Shot.words (sh : Shot) : List Word :=
  [sh.tagw, natWord (sh.origin.toNat + sh.leaves * 2 ^ 8), ofBool sh.orphan, natWord sh.rows.length] ++ sh.rows.flatMap rowWords
/-- Class 6: tag n of the tile's cluster at index n, its word as TAGSTAT reads it and its binding and flags; at 4096 the router's store, as far as it
is the requester's (`none` a machine requester), at 4097 the shot unit, at 4098 what is parked, at 4099 what waits at the edge (R276). -/
def State.rimshotObject (s : State) (p : Option Nat) (t : TileNo) (i : Nat) : Option (List Word) :=
  let u := s.tile t
  if i < 4096 then let g := s.tag (clusterOf t * 2 ^ 15 + i); some [g.word, g.binding, zext64 g.flags]
  else if i = 4096 then
    some (((s.router t).entries.filter fun e => p.all fun p => (s.launch e.2.shot.launch).part = p).flatMap fun e => natWord e.1 :: ofBool e.2.waiting :: e.2.shot.words)
  else if i = 4097 then some (u.shots.flatMap fun o => o.shot.words)
  else if i = 4098 then some (u.parked.flatMap fun k => match k with
    | .delivery sh => sh.words
    | .arrival a => a.words)
  else if i = 4099 then some (u.edgeWait.flatMap Shot.words)
  else none
/-- Class 7: the active plane's image at 0 and the inactive one's at 1, 264 bytes each (R333, R334). -/
def Tile.planeObject (u : Tile) (i : Nat) : Option (List Word) :=
  if i = 0 then some ((List.range 33).map fun j => u.planeReg (0x100 + j))
  else if i = 1 then some ((List.range 33).map fun j => u.planeReg2 (0x100 + j))
  else none
/-- An object of a tile, as a requester of partition `p` sees it, or of none, which is a machine requester. -/
def State.tileObject (s : State) (p : Option Nat) (t : TileNo) (cls i : Nat) : Option (List Word) :=
  let u := s.tile t
  match cls with
  | 0 => if i < 3 then some (u.streamObject (streamOf i)) else none
  | 1 => u.graphObject i
  | 2 => u.handleObject i
  | 3 => s.queueObject t i
  | 4 => u.syncObject i
  | 5 => u.arrayObject i
  | 6 => s.rimshotObject p t i
  | 7 => u.planeObject i
  | _ => none

/-! ## The hub's registers and objects -/

/-- Completion words held behind the gate: a launch with DONE 0 has none (R349, R353). -/
def State.heldCount (s : State) : Nat := (s.heldWords.filter fun n => (s.launch n).doneAddr ≠ 0).length
/-- DSTAT (R353). -/
def State.dstat (s : State) : Word :=
  zext64 s.takeovers <<< 48 ||| ofBool s.gate <<< 47 ||| ofBool s.active <<< 46 ||| ofBool s.standby <<< 45
    ||| natWord (s.poolFree % 2 ^ 13) <<< 32 ||| natWord (s.heldCount % 2 ^ 32)
/-- The Peal registers of a partition (R386). -/
def Part.pealWords (q : Part) : List Word :=
  [zext64 q.pealDrops <<< 32 ||| zext64 q.pealPeriod <<< 16 ||| zext64 q.pealSrc, q.pealBase, zext64 q.pealSize, q.pealWr, q.pealRdNext]
/-- A word of a partition's block (R386, R390). -/
def Part.blockWord (q : Part) (off : Nat) : Word :=
  if off < 0x28 then q.pealWords.getD (off / 8) 0
  else if 0x400 ≤ off && off < 0x600 then Map.get 0 q.csel ((off - 0x400) / 8)
  else if 0x800 ≤ off && off < 0xA00 then Map.get 0 q.cnt ((off - 0x800) / 8)
  else 0
/-- The mailbox's return code: Success, Background Command Started, Invalid Input, Unsupported. -/
def MboxOut.code (m : MboxOut) : Nat := if m.invalid then 2 else if m.unsupported then 3 else if m.background then 1 else 0
/-- The device register interface from 0x1000 on (R401): the capabilities array with its two headers, the device status register at 0x100, the primary
mailbox at 0x200 with 2,048 bytes of payload. PRESUMED (log entry 90): CXL 3.1's registers; where they lie is the model's choice. -/
def State.cxlRegister (s : State) (off : Nat) : Word :=
  match off with
  | 0x00 => natWord (2 ^ 16 + 2 ^ 24 + 2 * 2 ^ 32)
  | 0x10 => natWord (0x0001 + 2 ^ 16 + 0x100 * 2 ^ 32)
  | 0x18 => 8
  | 0x20 => natWord (0x0002 + 2 ^ 16 + 0x200 * 2 ^ 32)
  | 0x28 => natWord (0x20 + 2048)
  | 0x200 => natWord (11 + 2 ^ 6)
  | 0x208 => natWord (if s.mbox.code = 0 then 8 * (1 + s.mbox.words.length) * 2 ^ 16 else 0)
  | 0x210 => ofBool s.mboxBusy ||| natWord (s.mbox.code * 2 ^ 32)
  | 0x218 => s.bgStatus
  | _ => if 0x220 ≤ off && off < 0xA20 && off % 8 = 0 && s.mbox.code = 0 then (s.mbox.result :: s.mbox.words).getD ((off - 0x220) / 8) 0 else 0
/-- The MSI-X vector table from 0x90000 on, and its pending bits at 0x90800 (R401; log entry 90). -/
def State.msixRegister (s : State) (off : Nat) : Word :=
  if off < 66 * 16 && off % 8 = 0 then s.msixWord (off / 8)
  else if off = 0x800 then maskWord s.msixPend.contains 0
  else if off = 0x808 then maskWord s.msixPend.contains 64
  else 0
/-- A word at an aligned offset of BAR0 (R401): DSTAT, DBBASE, the device register interface, the partitions' blocks, tail and head lines (R339), the
MSI-X table. Other offsets read as zero. -/
def State.bar0 (s : State) (off : Nat) : Word :=
  if off = 0 then s.dstat
  else if off = 8 then natWord dbBase
  else if 0x1000 ≤ off && off < 0x4000 then s.cxlRegister (off - 0x1000)
  else if 0x10000 ≤ off && off < 0x18000 then (s.part ((off - 0x10000) / 0x1000)).blockWord (off % 0x1000)
  else if dbBase ≤ off && off < dbBase + 4096 && off % 64 = 0 then zext64 (s.hostQ ((off - dbBase) / 64)).tail
  else if dbBase + 4096 ≤ off && off < dbBase + 8192 && off % 64 = 0 then zext64 (s.hostQ ((off - dbBase - 4096) / 64)).head
  else if 0x90000 ≤ off && off < 0x91000 then s.msixRegister (off - 0x90000)
  else 0
/-- What the host's read of an aligned offset of BAR0 answers: nothing while IDE is not established (R399). -/
def State.hostReads (s : State) (off : Nat) : Option Word := if s.ide then some (s.bar0 off) else none
/-- A queue's descriptor (R338). -/
def HostQ.word (h : HostQ) : Nat :=
  h.base * 2 ^ 64 + h.log2n * 2 ^ 60 + h.pri * 2 ^ 56 + h.part * 2 ^ 53 + h.ctx * 2 ^ 47 + h.job * 2 ^ 31 + (if h.enable then 1 else 0)
/-- A queue as QUEUE_GET gives it: descriptor, TAIL, HEAD, KICKMAP bit. -/
def State.queueWords (s : State) (q : Nat) : List Word :=
  let h := s.hostQ q
  [natWord h.word, natWord (h.word / 2 ^ 64), zext64 h.tail, zext64 h.head, ofBool (s.kickmap.getLsbD q)]
/-- A key slot shows its epoch and which keys it holds, never a key (R382). -/
def KeySlot.word (k : KeySlot) : Word := ofBool k.epoch ||| ofBool k.current.isSome <<< 1 ||| ofBool k.previous.isSome <<< 2
/-- A transaction tag: generation, whether it is busy, and where its request goes. -/
def TxTag.words (x : TxTag) : List Word := [zext64 x.gen, ofBool x.busy.isSome, natWord ((x.busy.map fun r => r.handle).getD 0)]
/-- A launch of the pending-launch pool. -/
def Launch.words (l : Launch) : List Word :=
  [natWord (l.status.toNat + l.cls * 2 ^ 3 + l.pri * 2 ^ 8 + l.part * 2 ^ 16 + l.ctx * 2 ^ 24 + l.nunits * 2 ^ 32), natWord l.prog, natWord l.args, natWord l.plane,
   natWord l.doneAddr, natWord (l.quota + l.share * 2 ^ 16), natWord l.unitsLeft, natWord l.childrenLeft]
/-- A journal record's 32 bytes (R350): decision, what it is about, value, and whether its effect has been issued. -/
def Journal.words (j : Journal) : List Word := [natWord j.kind, natWord j.id, natWord j.val, ofBool j.done]
/-- Class 8: DSTAT at 0, launch queue q at 64 + q, key slot k at 128 + k, the block of partition p, its Peal registers, CSEL and CNT, at 256 + p, transaction tag n at 4096 + n,
launch n of the pool at 65,536 + n, journal record n at 16,384 + n. With each its partition, where it is not device-wide. -/
def State.hubObject (s : State) (i : Nat) : Option (Option Nat × List Word) :=
  if i = 0 then some (none, [s.dstat])
  else if 64 ≤ i && i < 128 then some (if Map.has s.hostQs (i - 64) then some (s.hostQ (i - 64)).part else none, s.queueWords (i - 64))
  else if 128 ≤ i && i < 160 then some (none, [(Map.get {} s.keys (i - 128) : KeySlot).word])
  else if 256 ≤ i && i < 264 then some (some (i - 256), (List.range 320).map fun j => (s.part (i - 256)).blockWord (8 * j))
  else if 4096 ≤ i && i < 8192 then
    let x : TxTag := Map.get {} s.txTags (i - 4096)
    some (x.busy.bind fun r => s.partOf r.tile, x.words)
  else if 16384 ≤ i && i < 20480 then (s.journal[i - 16384]?).map fun j => (some (s.launch j.id).part, j.words)
  else if 65536 ≤ i then (Map.find s.launches (i - 65536)).map fun l => (some l.part, l.words)
  else none

/-- The bytes of an object from an offset, as words; what lies behind its end reads as zero (log entry 5). -/
def portBytes (ws : List Word) (off len : Nat) : List Word :=
  let n := ws.foldr (fun w a => a * 2 ^ 64 + w.toNat) 0
  (List.range (len / 8)).map fun i => natWord (n / 2 ^ (8 * off + 64 * i))

end Sys2Proof.Machine
end

