-- ==== Sys2Proof/Machine/Mailbox.lean ====
section
/-! DEFINITION. The mailbox and the state port's controls (R335 to R338, R343, R364, R374, R402). Word 2 of a command is `w0` and the words from 3
on are `wide`; `num` 1 marks a machine request over I3C, which has no caller header and is bound to no partition (R400). -/
namespace Sys2Proof.Machine

/-- Word 3 + k of the input payload. -/
def State.mailWord (s : State) (k : Nat) : Word := BitVec.ofNat 64 (bits s.ev.wide (64 * k + 63) (64 * k))
/-- A command completes with Invalid Input. -/
def State.invalid (s : State) : Out := .next { s with mbox := { invalid := true } }
/-- A command completes with a result word and further output words. -/
def State.mailDone (s : State) (r : Nat) (ws : List Word) : Out := .next { s with mbox := { result := BitVec.ofNat 64 r, words := ws } }
/-- A command of a formed partition with its credential, or of the machine (`none`); in recovery mode there are no such commands
(R394), and the host's are not answered while IDE is not established (R399). -/
def State.mail (s : State) (k : Option Nat → Out) : Out :=
  let p := bits s.ev.caller.part 2 0
  if s.recovery then .next { s with mbox := { unsupported := true } }
  else if s.ev.num = 1 then k none
  else if !s.ide then .next s
  else if bits s.ev.caller.part 63 3 ≠ 0 || !(s.part p).formed || (s.part p).cred ≠ s.ev.caller.cred then s.invalid
  else k (some p)
/-- Whether a requester may name a tile. -/
def State.mayTile (s : State) (p : Option Nat) (t : TileNo) : Bool := p.all fun p => s.partOf t = some p

/-! ## Queues and jobs (R338, R343) -/

/-- QUEUE_SET. -/
def execQueueSet (s : State) : Out :=
  s.mail fun p =>
    let q := bits s.ev.w0 5 0
    let d := s.ev.wide
    let part := bits d 55 53
    let c := bits d 52 47
    let h := s.hostQ q
    let base := bits d 119 71 * 2 ^ 7
    if (p.any fun p => (Map.has s.hostQs q && h.part ≠ p) || part ≠ p) || s.ctxPart c ≠ some part then s.mailDone 1 []
    else if h.behind ≠ 0 && (h.base ≠ base || h.log2n ≠ bits d 63 60) then s.mailDone 2 []
    else
      let s := s.modQ q fun h =>
        { h with base := base, log2n := bits d 63 60, pri := bits d 58 56, part := part, ctx := c, job := bits d 46 31, enable := bitAt d 0 }
      (if s.kickmap.getLsbD q then s.kick q else s).mailDone 0 []
/-- QUEUE_GET. -/
def execQueueGet (s : State) : Out :=
  s.mail fun p =>
    let q := bits s.ev.w0 5 0
    let h := s.hostQ q
    if p.any fun p => Map.has s.hostQs q && h.part ≠ p then s.invalid
    else s.mailDone 0 (s.queueWords q)
/-- The key of the job a command names; none when it is another partition's. -/
def State.jobOf (s : State) (p : Option Nat) (j : Nat) : Option Nat :=
  match p with
  | some p => if !Map.has s.jobs (jobKey p j) && (List.range 8).any fun o => Map.has s.jobs (jobKey o j) then none else some (jobKey p j)
  | none => some (jobKey ((findFrom (fun o => Map.has s.jobs (jobKey o j)) 0 8).getD 0) j)
/-- JOB_END: the job's extra member leaves, once. -/
def execJobEnd (s : State) : Out :=
  s.mail fun p =>
    match s.jobOf p (bits s.ev.w0 15 0) with
    | none => s.invalid
    | some j => match Map.find s.jobs j with
      | some l => (if l.isOpen && l.status = 0 then ({ s with jobs := Map.set s.jobs j l.shut } : State).endJob j else s).mailDone 0 []
      | none => s.mailDone 0 []
/-- JOB_CANCEL: CANCEL at level 4 (R23). -/
def execJobCancel (s : State) : Out :=
  s.mail fun p =>
    match s.jobOf p (bits s.ev.w0 15 0) with
    | none => s.invalid
    | some j => ((if Map.has s.jobs j then s.postLate { op := .cancelStop, ev := { num := 1, aux := 4, id := j } } else s)).mailDone 0 []

/-! ## TLB_INVAL (R374) -/

/-- TLB_INVAL: every tile of the partition and the hub's three kinds of source are told; one runs at a time. -/
def execTlbInval (s : State) : Out :=
  s.mail fun p =>
    let c := bits s.ev.w0 5 0
    match s.ctxPart c with
    | none => s.invalid
    | some own =>
      if p.any fun p => p ≠ own then s.invalid
      else if s.mboxBusy then .next (s.retry .tlbInval)
      else
        let src := ((List.range 256).filter fun t => s.partOf (BitVec.ofNat 8 t) = some own) ++ [256, 257, 258]
        let i : Inval :=
          { ctx := c, whole := bitAt s.ev.w0 8, first := (s.mailWord 0).toNat / 2 ^ 16, count := (s.mailWord 1).toNat % 2 ^ 32, total := src.length
            waiting := src }
        let n := s.nextId
        let s := ({ s with invals := Map.set s.invals n i, mboxBusy := true, bgStatus := bgWord 0 } : State).bump
        let s := src.foldl (fun s x => s.later { op := .invalSourceAck, ev := { id := n, num := x } }) s
        .next { s with mbox := { background := true } }

/-! ## The suspension list (R364) -/

/-- An entry as SUSPEND_LIST gives it. -/
def Suspend.words (x : Suspend) : List Word :=
  [BitVec.ofNat 64 (x.tile.toNat + x.subcause * 2 ^ 16 + x.seq.toNat * 2 ^ 32), BitVec.ofNat 64 x.ctx, BitVec.ofNat 64 x.addr, BitVec.ofNat 64 x.channel]
/-- SUSPEND_LIST: the oldest entries. -/
def execSuspendList (s : State) : Out :=
  s.mail fun p =>
    let n := min (bits s.ev.w0 63 0) 63
    let all := match p with
      | some p => (s.part p).suspends
      | none => (List.range 8).flatMap fun i => (s.part i).suspends
    let got := all.take n
    s.mailDone 0 (BitVec.ofNat 64 got.length :: got.flatMap Suspend.words)
/-- The entry that SUSPEND_ANSWER names leaves its list; `k` applies the action to the entry's task, resident or saved with its unit. -/
def State.answerSuspend (s : State) (k : State → Suspend → State) (away : Task → Task) : Out :=
  s.mail fun p =>
    let t : TileNo := s.ev.w0.setWidth 8
    if !s.mayTile p t then s.invalid
    else match ((List.range 8).flatMap fun i => (s.part i).suspends).find? fun x => x.tile = t && x.seq = (s.mailWord 0).setWidth 32 && (s.partOf t).isSome with
      | none => s.mailDone 1 []
      | some x =>
        let s := { s with
          parts := s.parts.map fun (q : Nat × Part) => (q.1, { q.2 with suspends := q.2.suspends.erase x })
          saved := s.saved.map fun (y : Saved) =>
            if y.tileNo = t then { y with tile := { y.tile with window := y.tile.window.map fun k => if k.uid = x.uid then away k else k } } else y }
        (k s x).mailDone 0 []
/-- RESUME: the task retries the row and goes on, at once or when its saved unit does. -/
def execResume (s : State) : Out :=
  s.answerSuspend (fun s x =>
    match (s.tile x.tile).window.find? fun k => k.uid = x.uid with
    | some k =>
      ((s.modTask x.tile k.acc fun k => { k with suspended := false }).pealTile x.tile 2 2 (s.tile x.tile).launchNo (k.seq.toNat + 2 * 2 ^ 48)).post
        { op := .copyRow, ev := { tile := x.tile, id := k.acc } }
    | none => match s.saved.find? fun y => y.tileNo = x.tile && y.tile.window.any fun k => k.uid = x.uid with
      | some y => s.pealTile x.tile 2 2 y.launch (x.seq.toNat + 2 * 2 ^ 48)
      | none => s) fun k => { k with suspended := false }
/-- FAIL: the task fails with TRANSLATION. -/
def execFail (s : State) : Out :=
  s.answerSuspend (fun s x =>
    match (s.tile x.tile).window.find? fun k => k.uid = x.uid with
    | some k => s.endTask x.tile k.acc cTRANSLATION 0
    | none => s) fun k => { k with ended := some cTRANSLATION, endAt := 0 }

/-! ## The state port (R335 to R337) -/

/-- STATE_READ: one object as it is now (R335); an object of another partition is Invalid Input (R402), one that does not exist gives result 1. -/
def execStateRead (s : State) : Out :=
  s.mail fun p =>
    let t : TileNo := s.ev.w0.setWidth 8
    let hub := bitAt s.ev.w0 8
    let cls := bits s.ev.w0 15 12
    let i := bits s.ev.w0 47 16
    let off := (s.mailWord 0).toNat
    let len := (s.mailWord 1).toNat
    let found : Option (Option Nat × List Word) := if hub then (if cls = 8 then s.hubObject i else none) else (s.tileObject p t cls i).map fun ws => (none, ws)
    if !hub && !s.mayTile p t then s.invalid
    else match found with
      | none => s.mailDone 1 []
      | some (own, ws) =>
        if p.any fun p => own.any fun o => o ≠ p then s.invalid
        else if len < 8 || 2000 < len || len % 8 ≠ 0 then s.mailDone 1 []
        else s.mailDone 0 (portBytes ws off len)
/-- The tiles of the mask in words 3 to 6. -/
def State.maskTiles (s : State) : List TileNo := ((List.range 256).filter fun t => s.ev.wide.getLsbD t).map (BitVec.ofNat 8 ·)
/-- STATE_CONTROL: applies a control to the masked tiles, or to none when one lies outside the partition. -/
def State.control (s : State) (f : State → TileNo → State) : Out :=
  s.mail fun p => if s.maskTiles.all (s.mayTile p) then (s.maskTiles.foldl f s).mailDone 0 [] else s.mailDone 1 []
/-- FREEZE: at the end of this clock. -/
def execFreeze (s : State) : Out :=
  s.control fun s t => s.freeze t
/-- THAW: what was held at the tile's edge arrives, in order. The tile clocks that a thermal trip has stopped stay stopped (R404). -/
def execThaw (s : State) : Out :=
  s.control fun s t =>
    let held := (s.tile t).held
    if s.thermal then s else
    { s.modTile t fun u => { u with frozen := false, freezeReq := false, held := [] } with agenda := s.agenda ++ held }
/-- SET_HALT_ON_BREAK. -/
def execSetHaltOnBreak (s : State) : Out := s.control fun s t => s.modTile t fun u => { u with haltBrk := true }
/-- CLEAR_HALT_ON_BREAK. -/
def execClearHaltOnBreak (s : State) : Out := s.control fun s t => s.modTile t fun u => { u with haltBrk := false }
/-- STATE_WAKE. -/
def execStateWake (s : State) : Out := s.control fun s t => s.later { op := .wake, ev := { tile := t } }
/-- Opcodes 0xC009 to 0xC0FF; the host's are not answered while IDE is not established (R399). -/
def execMailboxUnsupported (s : State) : Out :=
  if s.recovery || s.ev.num = 1 || s.ide then .next { s with mbox := { unsupported := true } } else .next s

end Sys2Proof.Machine
end

