-- ==== Sys2Proof/Machine/Bringup.lean ====
section
/-! DEFINITION. Resets, verified boot, attestation, keys, power and temperature, partitions (R327, R328, R382, R391 to R398, R403, R404). -/
namespace Sys2Proof.Machine

/-! ## Resets (R391) -/

/-- Steps 2 to 8 with the fuses of `b`, from what a reset leaves: host and peer memory, the clocks, and what has been reported. The registers have
their reset values at the end of the order (R4, R353); the cores that have started then begin to serve (log entry 17). -/
def State.bringUp (s : State) (b : BootEnv) (fenced : List TileNo) (pch : List Nat) : State :=
  let z : State :=
    { clock := s.clock, fabric := s.fabric, fabFrac := s.fabFrac, fresh := s.fresh, nextId := s.nextId, mem := s.mem.filter fun c => 2 ^ 60 ≤ c.1
      irqs := s.irqs, reports := s.reports, spdmOut := s.spdmOut, identity := s.identity, fuses := b, fenced := fenced, pchFenced := pch
      measure := if slotOk b.slotA b then measureSlot [] b.slotA b else measureSlot (measureSlot [] b.slotA b) b.slotB b }
  if !slotOk b.slotA b && !slotOk b.slotB b then { z with recovery := true }
  else
    let z := { z with
      slotUsed := !slotOk b.slotA b
      portLanes := (List.range 35).filterMap fun p => if b.downPorts.contains p then some (p, 0) else if b.onePorts.contains p then some (p, 1) else none }
    let z := { z with routes := b.routes.map fun (p : Nat × List Path) => (p.1, z.upPaths p.2) }
    let z := b.downPorts.foldl (fun z p => z.report cLINK_DOWN p) z
    let c0 := b.coresOk.getLsbD 0
    let c1 := b.coresOk.getLsbD 1
    { z with halted0 := !c0, halted1 := !c1, ide := b.ideOk, agenda := [{ op := .coreReload, ev := { num := 2 } }] }
/-- COLD_RESET: step 1 reads the fuses, among them the secret that gives the identity key (R395); when they cannot be read the device stays in reset. -/
def execColdReset (s : State) : Out :=
  let b := s.ev.boot
  if b.fuseOk then .next (({ s with identity := Config.deriveIdentity b.secret } : State).bringUp b (b.fuseTiles ++ b.testFailTiles).eraseDups b.hbmFailPch.eraseDups)
  else .next (({ clock := s.clock, fabric := s.fabric, fresh := s.fresh, nextId := s.nextId, mem := s.mem.filter fun c => 2 ^ 60 ≤ c.1, irqs := s.irqs
                 reports := s.reports, inReset := true } : State).report cFUSE 0)
/-- A warm reset keeps the fuse values, the tile map and the fences of pseudo-channels (R391, R396, R397). -/
def State.warmReset (s : State) (b : BootEnv) : State :=
  if s.inReset then s
  else
    let f := s.fuses
    s.bringUp { b with fuseTiles := f.fuseTiles, keyHashes := f.keyHashes, revoked := f.revoked, minSvn := f.minSvn, fuseOk := true, testFailTiles := f.testFailTiles, secret := f.secret }
      s.fenced (s.pchFenced ++ b.hbmFailPch).eraseDups
/-- WARM_RESET. -/
def execWarmReset (s : State) : Out := .next (s.warmReset s.ev.boot)
/-- FIRMWARE_UPDATE: the images are in slot A; in recovery mode the update causes a warm reset (R394). -/
def execFirmwareUpdate (s : State) : Out :=
  let b := { s.fuses with slotA := s.ev.images }
  if s.recovery then .next (s.warmReset b) else .next { s with fuses := b }

/-! ## Attestation and keys (R382, R395) -/

/-- The four measurement registers and the slot used, as bytes. -/
def State.evidence (s : State) : List Byte :=
  ((List.range 4).flatMap fun i => leBytes 32 (Map.get 0 s.measure i).toNat) ++ leBytes 1 (if s.slotUsed then 1 else 0)
/-- Bytes as units of 64, the first byte lowest. -/
def byteRows (bs : List Byte) : List (BitVec 512) := (List.range ((bs.length + 63) / 64)).map fun i => BitVec.ofNat 512 (ofLeBytes ((bs.drop (64 * i)).take 64))
/-- The device's signature over a message with its identity key (R395). -/
def State.identitySign (s : State) (m : List Byte) : BitVec 512 := ecdsaSign s.identity (Config.freeNonce s.fresh) m
/-- GET_MEASUREMENTS, over MCTP on I3C or over CXL DOE: the registers and the slot, signed with the identity key. With `num` 1 it is SPDM's request for
the certificate chain, which the flash holds for that key: its length and its bytes (log entry 8). -/
def execGetMeasurements (s : State) : Out :=
  if s.recovery then .next s
  else if s.ev.num = 1 then .next { s with spdmOut := BitVec.ofNat 512 s.fuses.certs.length :: byteRows s.fuses.certs }
  else
    .next { s with
      spdmOut := ((List.range 4).map fun i => (Map.get 0 s.measure i).setWidth 512) ++ [if s.slotUsed then 1 else 0, s.identitySign s.evidence], fresh := s.fresh + 1 }
/-- KEY_EXCHANGE with the requester's half `wide`: the session is open; the device answers with its half and signs both with its identity key. -/
def execKeyExchange (s : State) : Out :=
  if s.recovery then .next s
  else
    let r := Config.keyExchangeReply s.ev.wide
    .next { s with session := true, spdmOut := [r, s.identitySign (leBytes 64 s.ev.wide.toNat ++ leBytes 64 r.toNat)], fresh := s.fresh + 1 }
/-- KEY_INSTALL of key `wide` in slot `id`, only inside a session. -/
def execKeyInstall (s : State) : Out :=
  if !s.session || 32 ≤ s.ev.id then .next s
  else
    let k : KeySlot := Map.get {} s.keys s.ev.id
    .next { s with keys := Map.set s.keys s.ev.id { current := some (s.ev.wide.setWidth 256), previous := k.current, epoch := !k.epoch, counter := 0 : KeySlot } }

/-! ## Power, clock and temperature (R403, R404) -/

/-- POWER_LIMIT_SET to `num` W, over PLDM type 2, which is not accepted in recovery mode (R394). -/
def execPowerLimitSet (s : State) : Out := .next (if s.recovery then s else { s with powerLimit := s.ev.num })
/-- Whether every rolling group is at a beat boundary. -/
def State.atBoundary (s : State) : Bool :=
  s.buses.all fun (b : Nat × Bus) => !b.2.formed || !(b.2.members.any fun t => (s.tile t).roll.state = 2) || b.2.beatAt = some s.clock
/-- CLOCK_CHANGE to `num` MHz, recorded as a DISPATCH record with no units, whose event the spec does not state (log entry 5). -/
def execClockChange (s : State) : Out :=
  if s.recovery || s.ev.num < 600 || 1100 < s.ev.num || s.ev.num % 100 ≠ 0 then .next s
  else if !s.atBoundary then .next (s.retry .clockChange)
  else
    let e := (Config.freeReply s.fresh).toNat % 5
    .next ((List.range 8).foldl (fun s p => if (s.part p).formed then s.pealHub p 7 e 0xFF 0 0 else s) { s with mhz := s.ev.num, fresh := s.fresh + 1 })
/-- The units that run at the trip are lost and their launches complete FAILED (R404). -/
def State.loseUnits (s : State) : State :=
  let ls := (s.launches.filter fun (x : Nat × Launch) => x.2.status = 0 && s.resident x.1 ≠ []).map Prod.fst
  let s := { s with tiles := s.tiles.map fun (x : Nat × Tile) => (x.1, if x.2.unit.isSome then x.2.between else x.2) }
  ls.foldl (fun s n => (s.modLaunch n fun l => { l with waiting := [], unitsLeft := 0, childrenLeft := 0 }).finishLaunch n 2) s
/-- THERMAL_TRIP (R404): the tile clocks stop in the manner of a freeze, so that every tile freezes at the end of this clock and what is addressed to a
tile waits at its edge; with `num` 1, in the clock after, the units are lost. A cold reset follows when the temperature is low enough. -/
def execThermalTrip (s : State) : Out :=
  if s.ev.num = 1 then .next (s.loseUnits.later { op := .coldReset, ev := { boot := s.fuses } })
  else
    let s := (List.range 256).foldl (fun s t => s.modTile (BitVec.ofNat 8 t) fun u => { u with freezeReq := true }) ({ s with thermal := true }.report cTHERMAL_TRIP 0)
    .next { s with timers := s.timers ++ [(s.clock + 1, { op := .thermalTrip, ev := { num := 1 } })] }

/-! ## Partitions (R327, R328) -/

/-- Whether no unit is on the tiles of a set of clusters. -/
def State.idleClusters (s : State) (m : BitVec 32) : Bool :=
  s.tiles.all fun (x : Nat × Tile) => x.2.unit.isNone || !m.getLsbD (x.1 / 8)
/-- PARTITION_FORM, by the machine firmware, which does not run in recovery mode (R394), of partition `id`: clusters `w0` [31:0], channel groups [63:32], contexts `w1`, credential `wide` [63:0]. -/
def execPartitionForm (s : State) : Out :=
  let p := s.ev.id
  let cl : BitVec 32 := s.ev.w0.setWidth 32
  let gr := BitVec.ofNat 32 (bits s.ev.w0 63 32)
  let others := (List.range 8).filter fun o => (s.part o).formed
  if s.recovery || 8 ≤ p || (s.part p).formed || !s.idleClusters cl
      || others.any (fun o => (s.part o).clusters &&& cl ≠ 0 || (s.part o).groups &&& gr ≠ 0 || (s.part o).ctxs &&& s.ev.w1 ≠ 0)
      || (List.range 32).any (fun g => gr.getLsbD g && s.groupPch g = 0) then .next s
  else
    let s := s.modPart p fun _ => { formed := true, clusters := cl, groups := gr, ctxs := s.ev.w1, cred := s.ev.wide.setWidth 64 }
    .next { s with
      routers := s.routers.map fun (r : Nat × Router) => (r.1, { r.2 with counts := r.2.counts.filter fun c => c.1 / 4 ≠ p })
      tags := s.tags.map fun (g : Nat × Tag) => if cl.getLsbD (g.1 / 2 ^ 15) then (g.1, { g.2 with live := false, outstanding := false }) else g
      tiles := s.tiles.map fun (x : Nat × Tile) => if cl.getLsbD (x.1 / 8) then (x.1, { x.2 with zeroed := false }) else x }
/-- PARTITION_DISSOLVE of partition `id`: its clusters, channel groups, contexts and queues belong to nobody. -/
def execPartitionDissolve (s : State) : Out :=
  if !(s.part s.ev.id).formed || !s.idleClusters (s.part s.ev.id).clusters then .next s
  else .next { s.modPart s.ev.id (fun _ => {}) with hostQs := s.hostQs.filter fun (q : Nat × HostQ) => q.2.part ≠ s.ev.id }

end Sys2Proof.Machine
end

