-- ==== Sys2Proof/Machine/Scalar.lean ====
section
/-! DEFINITION. Scalar arithmetic, immediates, constants and bitfields (R46, R126 to R130). None of these traps or sets a flag. -/
namespace Sys2Proof.Machine

/-! ## Shared forms -/

/-- rd := f(x[rs1], x[rs2]) after `lat` ticks (R115, R126). -/
def State.alu2 (s : State) (lat : Nat) (d a b : Reg) (f : Word → Word → Word) : Out :=
  s.guardX onAll [.x d, .x a, .x b] fun s => (s.setX d lat (f (s.x a) (s.x b))).done
/-- rd := f(x[rs1]) after `lat` ticks. -/
def State.alu1 (s : State) (lat : Nat) (d a : Reg) (f : Word → Word) : Out :=
  s.guardX onAll [.x d, .x a] fun s => (s.setX d lat (f (s.x a))).done
/-- rd := f(x[rs1], x[rs2], x[rs3]) after `lat` ticks. -/
def State.alu3 (s : State) (lat : Nat) (d a b c : Reg) (f : Word → Word → Word → Word) : Out :=
  s.guardX onAll [.x d, .x a, .x b, .x c] fun s => (s.setX d lat (f (s.x a) (s.x b) (s.x c))).done

/-! ## Operations on words -/

/-- Quotient and remainder of R46, unsigned. -/
def divU (a b : Word) : Word := if b = 0 then BitVec.allOnes 64 else BitVec.ofNat 64 (a.toNat / b.toNat)
def remU (a b : Word) : Word := if b = 0 then a else BitVec.ofNat 64 (a.toNat % b.toNat)
/-- Quotient and remainder of R46, signed: truncation toward zero, remainder with the sign of the dividend. -/
def divS (a b : Word) : Word :=
  if b = 0 then BitVec.allOnes 64
  else if a = BitVec.intMin 64 && b = BitVec.allOnes 64 then BitVec.intMin 64
  else BitVec.ofInt 64 (a.toInt.tdiv b.toInt)
def remS (a b : Word) : Word :=
  if b = 0 then a
  else if a = BitVec.intMin 64 && b = BitVec.allOnes 64 then 0
  else BitVec.ofInt 64 (a.toInt - a.toInt.tdiv b.toInt * b.toInt)
/-- bits [127:64] of a product. -/
def mulHi (a b : Int) : Word := BitVec.ofInt 64 (a * b / 2 ^ 64)
/-- A shift amount: bits [5:0] of a register. -/
def amount (b : Word) : Nat := bits b 5 0
/-- Leading zeros, trailing zeros and ones (R126). -/
def clz64 (a : Word) : Word := if a = 0 then 64 else BitVec.ofNat 64 (63 - a.toNat.log2)
def ctz64 (a : Word) : Word := BitVec.ofNat 64 (((List.range 64).takeWhile fun i => !a.getLsbD i).length)
def popc64 (a : Word) : Word := BitVec.ofNat 64 ((List.range 64).filter fun i => a.getLsbD i).length
/-- Position and length of a field control word (R130). -/
def fieldPos (c : Word) : Nat := bits c 5 0
def fieldLen (c : Word) : Nat := Nat.min (bits c 12 6) (64 - fieldPos c)
/-- BFX (R130). -/
def bfx64 (sx : Bool) (a c : Word) : Word :=
  if fieldLen c = 0 then 0
  else
    let f := (a.toNat >>> fieldPos c) % 2 ^ fieldLen c
    if sx then BitVec.ofInt 64 (sgn (fieldLen c) f) else BitVec.ofNat 64 f
/-- BFI (R130). -/
def bfi64 (a b c : Word) : Word :=
  if fieldLen c = 0 then a else setBits a (fieldPos c + fieldLen c - 1) (fieldPos c) b.toNat

/-! ## Three-register arithmetic (R126) -/

def execAdd (d a b : Reg) (s : State) : Out := s.alu2 1 d a b fun x y => x + y
def execSub (d a b : Reg) (s : State) : Out := s.alu2 1 d a b fun x y => x - y
def execMul (d a b : Reg) (s : State) : Out := s.alu2 3 d a b fun x y => x * y
def execMulh (d a b : Reg) (s : State) : Out := s.alu2 3 d a b fun x y => mulHi x.toInt y.toInt
def execMulhu (d a b : Reg) (s : State) : Out := s.alu2 3 d a b fun x y => mulHi x.toNat y.toNat
def execDiv (d a b : Reg) (s : State) : Out := s.alu2 18 d a b divS
def execDivu (d a b : Reg) (s : State) : Out := s.alu2 18 d a b divU
def execRem (d a b : Reg) (s : State) : Out := s.alu2 18 d a b remS
def execRemu (d a b : Reg) (s : State) : Out := s.alu2 18 d a b remU
def execAnd (d a b : Reg) (s : State) : Out := s.alu2 1 d a b fun x y => x &&& y
def execOr (d a b : Reg) (s : State) : Out := s.alu2 1 d a b fun x y => x ||| y
def execXor (d a b : Reg) (s : State) : Out := s.alu2 1 d a b fun x y => x ^^^ y
def execAndn (d a b : Reg) (s : State) : Out := s.alu2 1 d a b fun x y => x &&& ~~~y
def execShl (d a b : Reg) (s : State) : Out := s.alu2 1 d a b fun x y => x <<< amount y
def execShr (d a b : Reg) (s : State) : Out := s.alu2 1 d a b fun x y => x >>> amount y
def execSar (d a b : Reg) (s : State) : Out := s.alu2 1 d a b fun x y => x.sshiftRight (amount y)
def execRotr (d a b : Reg) (s : State) : Out := s.alu2 1 d a b fun x y => x.rotateRight (amount y)
def execClz (d a : Reg) (s : State) : Out := s.alu1 1 d a clz64
def execCtz (d a : Reg) (s : State) : Out := s.alu1 1 d a ctz64
def execPopc (d a : Reg) (s : State) : Out := s.alu1 1 d a popc64
def execMin (d a b : Reg) (s : State) : Out := s.alu2 1 d a b fun x y => if y.toInt < x.toInt then y else x
def execMax (d a b : Reg) (s : State) : Out := s.alu2 1 d a b fun x y => if x.toInt < y.toInt then y else x
def execMinu (d a b : Reg) (s : State) : Out := s.alu2 1 d a b fun x y => if y.toNat < x.toNat then y else x
def execMaxu (d a b : Reg) (s : State) : Out := s.alu2 1 d a b fun x y => if x.toNat < y.toNat then y else x
def execSlt (d a b : Reg) (s : State) : Out := s.alu2 1 d a b fun x y => ofBool (x.toInt < y.toInt)
def execSltu (d a b : Reg) (s : State) : Out := s.alu2 1 d a b fun x y => ofBool (x.toNat < y.toNat)
def execSeq (d a b : Reg) (s : State) : Out := s.alu2 1 d a b fun x y => ofBool (x == y)
def execSel (d a b c : Reg) (s : State) : Out := s.alu3 1 d a b c fun x y z => if z ≠ 0 then x else y
def execMad (d a b c : Reg) (s : State) : Out := s.alu3 3 d a b c fun x y z => x * y + z
def execBfx (d a b : Reg) (sx : Bool) (s : State) : Out := s.alu2 1 d a b (bfx64 sx)
def execBfi (d a b c : Reg) (s : State) : Out := s.alu3 1 d a b c bfi64

/-! ## Immediates and constants (R127 to R129) -/

def execAddi (d a : Reg) (i : BitVec 14) (s : State) : Out := s.alu1 1 d a fun x => x + sext64 i
def execMuli (d a : Reg) (i : BitVec 14) (s : State) : Out := s.alu1 3 d a fun x => x * sext64 i
def execAndi (d a : Reg) (i : BitVec 14) (s : State) : Out := s.alu1 1 d a fun x => x &&& sext64 i
def execOri (d a : Reg) (i : BitVec 14) (s : State) : Out := s.alu1 1 d a fun x => x ||| sext64 i
def execXori (d a : Reg) (i : BitVec 14) (s : State) : Out := s.alu1 1 d a fun x => x ^^^ sext64 i
def execShli (d a : Reg) (k : BitVec 6) (s : State) : Out := s.alu1 1 d a fun x => x <<< k.toNat
def execShri (d a : Reg) (k : BitVec 6) (s : State) : Out := s.alu1 1 d a fun x => x >>> k.toNat
def execSari (d a : Reg) (k : BitVec 6) (s : State) : Out := s.alu1 1 d a fun x => x.sshiftRight k.toNat
def execRotri (d a : Reg) (k : BitVec 6) (s : State) : Out := s.alu1 1 d a fun x => x.rotateRight k.toNat
def execSlti (d a : Reg) (i : BitVec 14) (s : State) : Out := s.alu1 1 d a fun x => ofBool (x.toInt < (sext64 i).toInt)
/-- R128: sext(imm19, 64) << 13. -/
def execLui (d : Reg) (i : BitVec 19) (s : State) : Out :=
  s.guardX onAll [.x d] fun s => (s.setX d 1 (sext64 i <<< 13)).done
/-- The constant of LIT (R129). -/
def litValue (z : Bool) (l0 : Lane) (l1 : Option Lane) : Word :=
  match l1 with
  | some l => l ++ l0
  | none => if z then zext64 l0 else sext64 l0
/-- R129. -/
def execLit (d : Reg) (z : Bool) (l0 : Lane) (l1 : Option Lane) (s : State) : Out :=
  s.guardX onAll [.x d] fun s => (s.setX d 1 (litValue z l0 l1)).done

end Sys2Proof.Machine
end

