-- ==== Sys2Proof/Machine/Vector.lean ====
section
/-! DEFINITION. Vector arithmetic, conversions, reductions, scans and moves (R43 to R47, R200 to R219). -/
namespace Sys2Proof.Machine

/-! ## Shared forms -/

/-- A vector result in the row that vd names now (R113). -/
def State.setV (s : State) (d : Reg) (lat : Nat) (r : VRow × VRow × Flags) : State := s.result (.acc (s.accRow d)) lat r.1 r.2.1 r.2.2
/-- Registers of a V3 instruction for the interlocks. -/
def State.vNames (s : State) (d a : Reg) (b : Src2) (k : BitVec 3) : List Dest :=
  .acc (s.accRow d) :: .acc (s.accRow a) :: .mask k :: s.srcNames b
/-- No second source. -/
def noSrc : Src2 := .lit 0

/-- An FP-only instruction (R202, R207): f of the first source, the second source and the old destination lane, rounded once to the lane format. `ks`
are the words of the constant bank that it reads and `rd` the vector registers that it reads besides the second source (R363). -/
def State.fpLanes (s : State) (lat : Nat) (d a : Reg) (b : Src2) (p : BitVec 4) (k : BitVec 3) (f : FFmt → FpNum → FpNum → FpNum → Nat × Flags)
    (ks : List Nat := []) (rd : List Reg := [a]) : Out :=
  s.guardR onV (s.vNames d a b k) ((rd.map fun r => .acc (s.accRow r)) ++ s.srcNames b) fun s =>
    match etypeFmt s.me.vtype with
    | none => s.trap cILLEGAL_USE
    | some m => s.reading ks (zext64 s.cur.pc) fun s =>
      (s.setV d lat (selectLanes m.width (4096 / m.width) (s.me.mask k).getLsbD fun i =>
        f m (m.decode (laneBits (s.v a) m.width (srcLane (s.me.pat p) i))) (s.srcNum m b i) (m.decode (laneBits (s.v d) m.width i)))).done
/-- An operation on exact values, rounded once with RNE (R44). -/
def rounded (f : FpNum → FpNum → FpNum → FpNum × Flags) : FFmt → FpNum → FpNum → FpNum → Nat × Flags := fun m a b d => m.result (f a b d)
/-- x - y. -/
def FpNum.sub (a b : FpNum) : FpNum × Flags := a.add b.neg
/-- |x|. -/
def FpNum.abs : FpNum → FpNum
  | .nan => .nan
  | .inf _ => .inf false
  | .fin _ m e => .fin false m e
/-- A special function of the FP32 value, rounded once to the lane format (R210). -/
def special (g : BitVec 32 → Nat × Flags) : FFmt → FpNum → FpNum → FpNum → Nat × Flags := fun m a _ _ =>
  let r := g (BitVec.ofNat 32 (fp32.rne a).1)
  let c := m.rne (fp32.decode r.1)
  (c.1, r.2 ||| c.2)

/-- An instruction on lane bits (R202, R211): `ok` says which types it accepts. -/
def State.intLanes (s : State) (ok : BitVec 3 → Bool) (d a : Reg) (b : Src2) (p : BitVec 4) (k : BitVec 3) (f : Nat → Nat → Nat → Nat) : Out :=
  s.guardX onV (s.vNames d a b k) fun s =>
    let e := s.me.vtype
    let w := etypeWidth e
    if !ok e then s.trap cILLEGAL_USE
    else (s.setV d 4 (selectLanes w (lanesOf e) (s.me.mask k).getLsbD fun i =>
      (f w (laneBits (s.v a) w (srcLane (s.me.pat p) i)) (s.srcBits b w i), 0))).done
/-- Integer types, or any type. -/
def isInt (e : BitVec 3) : Bool := (etypeFmt e).isNone
def anyType (_e : BitVec 3) : Bool := true

/-! ## Floating-point arithmetic (R207) -/

def execVadd (d a : Reg) (b : Src2) (p : BitVec 4) (k : BitVec 3) (s : State) : Out := s.fpLanes 4 d a b p k (rounded fun x y _ => x.add y)
def execVsub (d a : Reg) (b : Src2) (p : BitVec 4) (k : BitVec 3) (s : State) : Out := s.fpLanes 4 d a b p k (rounded fun x y _ => x.sub y)
def execVmul (d a : Reg) (b : Src2) (p : BitVec 4) (k : BitVec 3) (s : State) : Out := s.fpLanes 4 d a b p k (rounded fun x y _ => x.mul y)
def execVfma (d a : Reg) (b : Src2) (p : BitVec 4) (k : BitVec 3) (s : State) : Out := s.fpLanes 4 d a b p k (rounded fun x y z => x.fma y z) (rd := [a, d])
def execVmadd (d a : Reg) (b : Src2) (p : BitVec 4) (k : BitVec 3) (s : State) : Out := s.fpLanes 4 d a b p k (rounded fun x y z => z.fma x y) (rd := [a, d])
def execVmin (d a : Reg) (b : Src2) (p : BitVec 4) (k : BitVec 3) (s : State) : Out :=
  s.fpLanes 4 d a b p k (rounded fun x y _ => (x.minMax false y, 0))
def execVmax (d a : Reg) (b : Src2) (p : BitVec 4) (k : BitVec 3) (s : State) : Out :=
  s.fpLanes 4 d a b p k (rounded fun x y _ => (x.minMax true y, 0))
def execVabs (d a : Reg) (p : BitVec 4) (k : BitVec 3) (s : State) : Out := s.fpLanes 4 d a noSrc p k (rounded fun x _ _ => (x.abs, 0))
def execVneg (d a : Reg) (p : BitVec 4) (k : BitVec 3) (s : State) : Out := s.fpLanes 4 d a noSrc p k (rounded fun x _ _ => (x.neg, 0))

/-! ## Immediate and constant-bank forms (R208, R209) -/

/-- An immediate form: every lane, with the FP32 operand imm20 << 12. -/
def State.fpImm (s : State) (d : Reg) (i : BitVec 20) (f : FpNum → FpNum → FpNum × Flags) (rd : List Reg := [d]) : Out :=
  s.fpLanes 4 d d (.lit (i.setWidth 32 <<< 12)) 0 0 (rounded fun x y _ => f x y) (rd := rd)
def execVaddi (d : Reg) (i : BitVec 20) (s : State) : Out := s.fpImm d i fun x y => x.add y
def execVmuli (d : Reg) (i : BitVec 20) (s : State) : Out := s.fpImm d i fun x y => x.mul y
def execVmovi (d : Reg) (i : BitVec 20) (s : State) : Out := s.fpImm d i (fun _ y => (y, 0)) []
def execVmaxi (d : Reg) (i : BitVec 20) (s : State) : Out := s.fpImm d i fun x y => (x.minMax true y, 0)
def execVmini (d : Reg) (i : BitVec 20) (s : State) : Out := s.fpImm d i fun x y => (x.minMax false y, 0)
/-- A constant-bank form: every lane, with constant word cidx read at issue. -/
def State.fpConst (s : State) (d a : Reg) (c : BitVec 14) (f : FpNum → FpNum → FpNum → FpNum × Flags) (rd : List Reg := [a]) : Out :=
  s.fpLanes 4 d a (.lit (Map.get 0 s.me.cbank c.toNat)) 0 0 (rounded f) [eccConst c.toNat] rd
def execVaddc (d a : Reg) (c : BitVec 14) (s : State) : Out := s.fpConst d a c fun x y _ => x.add y
def execVmulc (d a : Reg) (c : BitVec 14) (s : State) : Out := s.fpConst d a c fun x y _ => x.mul y
def execVfmac (d a : Reg) (c : BitVec 14) (s : State) : Out := s.fpConst d a c (fun x y z => x.fma y z) [a, d]
def execVmaddc (d a : Reg) (c : BitVec 14) (s : State) : Out := s.fpConst d a c (fun x y z => z.fma x y) [a, d]

/-! ## Special functions (R210) -/

def execVrcp (d a : Reg) (p : BitVec 4) (k : BitVec 3) (s : State) : Out :=
  s.fpLanes 8 d a noSrc p k (special fun x => recip fp32 (fp32.decode x.toNat))
def execVsqrt (d a : Reg) (p : BitVec 4) (k : BitVec 3) (s : State) : Out :=
  s.fpLanes 8 d a noSrc p k (special fun x => sqrtNum fp32 (fp32.decode x.toNat))
def execVrsq (d a : Reg) (p : BitVec 4) (k : BitVec 3) (s : State) : Out := s.fpLanes 8 d a noSrc p k (special rsqFp32)
def execVexp2 (d a : Reg) (p : BitVec 4) (k : BitVec 3) (s : State) : Out := s.fpLanes 8 d a noSrc p k (special exp2Fp32)
def execVlog2 (d a : Reg) (p : BitVec 4) (k : BitVec 3) (s : State) : Out := s.fpLanes 8 d a noSrc p k (special log2Fp32)
def execVtanh (d a : Reg) (p : BitVec 4) (k : BitVec 3) (s : State) : Out := s.fpLanes 8 d a noSrc p k (special tanhFp32)
def execVsigm (d a : Reg) (p : BitVec 4) (k : BitVec 3) (s : State) : Out := s.fpLanes 8 d a noSrc p k (special sigmFp32)

/-! ## Integer and bitwise arithmetic (R46, R211) -/

def execViadd (d a : Reg) (b : Src2) (p : BitVec 4) (k : BitVec 3) (s : State) : Out := s.intLanes isInt d a b p k fun w x y => (x + y) % 2 ^ w
def execVisub (d a : Reg) (b : Src2) (p : BitVec 4) (k : BitVec 3) (s : State) : Out :=
  s.intLanes isInt d a b p k fun w x y => (x + 2 ^ w - y) % 2 ^ w
def execVimul (d a : Reg) (b : Src2) (p : BitVec 4) (k : BitVec 3) (s : State) : Out := s.intLanes isInt d a b p k fun w x y => x * y % 2 ^ w
def execVimin (d a : Reg) (b : Src2) (p : BitVec 4) (k : BitVec 3) (s : State) : Out :=
  s.intLanes isInt d a b p k fun w x y => if sgn w y < sgn w x then y else x
def execVimax (d a : Reg) (b : Src2) (p : BitVec 4) (k : BitVec 3) (s : State) : Out :=
  s.intLanes isInt d a b p k fun w x y => if sgn w x < sgn w y then y else x
def execViabs (d a : Reg) (p : BitVec 4) (k : BitVec 3) (s : State) : Out :=
  s.intLanes isInt d a noSrc p k fun w x _ => wrapInt w (if sgn w x < 0 then -sgn w x else sgn w x)
def execVand (d a : Reg) (b : Src2) (p : BitVec 4) (k : BitVec 3) (s : State) : Out := s.intLanes anyType d a b p k fun _ x y => x &&& y
def execVor (d a : Reg) (b : Src2) (p : BitVec 4) (k : BitVec 3) (s : State) : Out := s.intLanes anyType d a b p k fun _ x y => x ||| y
def execVxor (d a : Reg) (b : Src2) (p : BitVec 4) (k : BitVec 3) (s : State) : Out := s.intLanes anyType d a b p k fun _ x y => x ^^^ y
/-- The shift amount is bits [log2 w - 1:0] of the second source. -/
def execVshl (d a : Reg) (b : Src2) (p : BitVec 4) (k : BitVec 3) (s : State) : Out :=
  s.intLanes isInt d a b p k fun w x y => (x <<< (y % w)) % 2 ^ w
def execVshr (d a : Reg) (b : Src2) (p : BitVec 4) (k : BitVec 3) (s : State) : Out := s.intLanes isInt d a b p k fun w x y => x >>> (y % w)
def execVsar (d a : Reg) (b : Src2) (p : BitVec 4) (k : BitVec 3) (s : State) : Out :=
  s.intLanes isInt d a b p k fun w x y => wrapInt w (sgn w x / 2 ^ (y % w))

/-! ## Compare, select and moves (R212 to R214) -/

/-- A comparison of floating lanes (R212). -/
def fpCond (cond : Nat) (x y : FpNum) : Bool :=
  let un := x.isNan || y.isNan
  match cond with
  | 0 => !un && !(x.lt false y) && !(y.lt false x)
  | 1 => un || x.lt false y || y.lt false x
  | 2 => x.lt false y
  | 3 => !un && !(y.lt false x)
  | 4 => y.lt false x
  | 5 => !un && !(x.lt false y)
  | _ => un
/-- A comparison of integer lanes; UNORD is false. -/
def intCond (cond : Nat) (x y : Int) : Bool :=
  match cond with
  | 0 => x = y
  | 1 => x ≠ y
  | 2 => x < y
  | 3 => x ≤ y
  | 4 => y < x
  | 5 => y ≤ x
  | _ => false
/-- VCMP; an unsigned compare of a floating type is an encoding error that depends on VTYPE (R212). -/
def execVcmp (d : BitVec 3) (a : Reg) (b : Src2) (p : BitVec 4) (k : BitVec 3) (u : Bool) (cond : BitVec 3) (s : State) : Out :=
  s.guardX onV (.mask d :: .acc (s.accRow a) :: .mask k :: s.srcNames b) fun s =>
    let e := s.me.vtype
    let w := etypeWidth e
    let lane := fun i => laneBits (s.v a) w (srcLane (s.me.pat p) i)
    let c : Nat → Bool := fun i => match etypeFmt e with
      | some m => fpCond cond.toNat (m.decode (lane i)) (s.srcNum m b i)
      | none =>
        if u then intCond cond.toNat (lane i) (s.srcBits b w i)
        else intCond cond.toNat (sgn w (lane i)) (sgn w (s.srcBits b w i))
    if u && !isInt e then s.trap cILLEGAL_ENCODING
    else
      let r := rowOfLanes 1 ((List.range (lanesOf e)).map fun i => if (s.me.mask k).getLsbD i && c i then 1 else 0)
      (s.result (.mask d) 4 r (BitVec.allOnes 4096) 0).done
/-- VSEL: the mask is a selector; the second source is move-type (R203, R213). -/
def execVsel (d a : Reg) (b : Src2) (p : BitVec 4) (k : BitVec 3) (s : State) : Out :=
  s.guardX onV (s.vNames d a b k) fun s =>
    let e := s.me.vtype
    let w := etypeWidth e
    (s.setV d 4 (selectLanes w (lanesOf e) (fun _ => true) fun i =>
      if (s.me.mask k).getLsbD i then (laneBits (s.v a) w (srcLane (s.me.pat p) i), 0) else s.srcMove e b i)).done
def execVmov (d a : Reg) (p : BitVec 4) (k : BitVec 3) (s : State) : Out := s.intLanes anyType d a noSrc p k fun _ x _ => x
def execVbcast (d : Reg) (b : Src2) (k : BitVec 3) (s : State) : Out :=
  s.guardX onV (.acc (s.accRow d) :: .mask k :: s.srcNames b) fun s =>
    let e := s.me.vtype
    (s.setV d 4 (selectLanes (etypeWidth e) (lanesOf e) (s.me.mask k).getLsbD (s.srcMove e b))).done
/-- The lane that VEXT or VINS names (R214). -/
def State.laneIndex (s : State) (b : Src2) (n : Nat) : Nat :=
  match b with
  | .lit l => l.toNat % n
  | .xreg x => (s.x x).toNat % n
  | .vreg _ => 0
def execVext (d a : Reg) (b : Src2) (p : BitVec 4) (s : State) : Out :=
  s.guardX onV (.x d :: .acc (s.accRow a) :: s.srcNames b) fun s =>
    let e := s.me.vtype
    let w := etypeWidth e
    let v := laneBits (s.v a) w (srcLane (s.me.pat p) (s.laneIndex b (lanesOf e)))
    (s.setX d 4 (if isInt e then BitVec.ofInt 64 (sgn w v) else BitVec.ofNat 64 v)).done
def execVins (d a : Reg) (b : Src2) (s : State) : Out :=
  s.guardX onV (.acc (s.accRow d) :: .x a :: s.srcNames b) fun s =>
    let e := s.me.vtype
    let w := etypeWidth e
    (s.setV d 4 (selectLanes w (lanesOf e) (fun i => i = s.laneIndex b (lanesOf e)) fun _ => ((s.x a).toNat % 2 ^ w, 0))).done

/-! ## Conversions (R37, R38, R216, R217) -/

/-- The value of a lane of a type. -/
def laneNum (e : BitVec 3) (v : Nat) : FpNum :=
  match etypeFmt e with
  | some m => m.decode v
  | none => FpNum.ofInt (sgn (etypeWidth e) v)
/-- A value converted to a lane of a type (R216). -/
def laneOfNum (e : BitVec 3) (rm : BitVec 2) (v : FpNum) : Nat × Flags :=
  match etypeFmt e with
  | some m => m.ofNum rm v
  | none =>
    let w := etypeWidth e
    let r := intOfNum rm (-(2 ^ (w - 1))) (2 ^ (w - 1) - 1) v
    (wrapInt w r.1, r.2)
def execVcvt (d a : Reg) (p : BitVec 4) (k : BitVec 3) (part rm : BitVec 2) (dst src : BitVec 3) (s : State) : Out :=
  s.guardX onV [.acc (s.accRow d), .acc (s.accRow a), .mask k] fun s =>
    let ws := etypeWidth src
    let wd := etypeWidth dst
    let m := 4096 / Nat.max ws wd
    let elem := fun di => if wd < ws then di - part.toNat * m else di
    (s.setV d 4 (selectLanes wd (4096 / wd)
      (fun di => (wd < ws → part.toNat * m ≤ di) && elem di < m && (s.me.mask k).getLsbD (elem di)) fun di =>
        let si := if ws < wd then part.toNat * m + elem di else elem di
        let v := laneBits (s.v a) ws (srcLane (s.me.pat p) si)
        if src = dst then (v, 0) else laneOfNum dst rm (laneNum src v))).done
/-- The packed block image of 128 values (R217). -/
def packImage (fmt : Nat) (blk : BitVec 2) (rm : BitVec 2) (vs : List FpNum) : VRow × Flags :=
  let c := container fmt
  let pack (cs : List Nat) : Nat := cs.foldr (fun v a => a * 2 ^ c + containerBits fmt v) 0
  if blk = 3 then
    let es := vs.map (encodeElem fmt rm)
    (BitVec.ofNat 4096 (pack (es.map Prod.fst)), es.foldl (fun f e => f ||| e.2) 0)
  else
    let bl := blkLen blk.toNat
    let bs := (List.range (128 / bl)).map fun b => encodeBlock fmt rm ((vs.drop (b * bl)).take bl)
    (BitVec.ofNat 4096 (pack (bs.flatMap fun b => b.2.1) + (bs.foldr (fun b a => a * 256 + b.1) 0) * 2 ^ 2048), bs.foldl (fun f b => f ||| b.2.2) 0)
def execVquant (d a : Reg) (p : BitVec 4) (rm blk : BitVec 2) (fmt : BitVec 5) (s : State) : Out :=
  s.guardX onV [.acc (s.accRow d), .acc (s.accRow a)] fun s =>
    if s.me.vtype ≠ 0 then s.trap cILLEGAL_USE
    else
      let r := packImage fmt.toNat blk rm ((List.range 128).map fun i => fp32.decode (laneBits (s.v a) 32 (srcLane (s.me.pat p) i)))
      (s.setV d 6 (r.1, BitVec.allOnes 4096, r.2)).done
def execVdeq (d a : Reg) (k : BitVec 3) (rm blk : BitVec 2) (fmt : BitVec 5) (s : State) : Out :=
  s.guardX onV [.acc (s.accRow d), .acc (s.accRow a), .mask k] fun s =>
    if s.me.vtype ≠ 0 then s.trap cILLEGAL_USE
    else
      let c := container fmt.toNat
      (s.setV d 4 (selectLanes 32 128 (s.me.mask k).getLsbD fun i =>
        let sc := if blk = 3 then none else some (bits (s.v a) (2048 + 8 * (i / blkLen blk.toNat) + 7) (2048 + 8 * (i / blkLen blk.toNat)))
        fp32.ofNum rm (scaledNum fmt.toNat (laneBits (s.v a) c i % 2 ^ elemWidth fmt.toNat) sc))).done

/-! ## Reductions and scans (R218, R219) -/

/-- One node: operation 0 sum, 1 max, 2 min; floating nodes are FP32 codes rounded with RNE, integer nodes wrap. -/
def redOp (e : BitVec 3) (op : Nat) (x y : Nat) : Nat × Flags :=
  if isInt e then
    let w := etypeWidth e
    if op = 0 then ((x + y) % 2 ^ w, 0)
    else if op = 1 then (if sgn w x < sgn w y then y else x, 0)
    else (if sgn w y < sgn w x then y else x, 0)
  else
    let a := fp32.decode x
    let b := fp32.decode y
    if op = 0 then fp32.result (a.add b) else fp32.rne (a.minMax (op = 1) b)
/-- The identity of a masked-off lane. -/
def redId (e : BitVec 3) (op : Nat) : Nat :=
  if isInt e then (if op = 0 then 0 else if op = 1 then 2 ^ (etypeWidth e - 1) else 2 ^ (etypeWidth e - 1) - 1)
  else if op = 0 then 0 else if op = 1 then 0xFF800000 else 0x7F800000
/-- The leaves: pattern-applied lanes, floating ones widened to FP32. -/
def State.leaves (s : State) (op : Nat) (a : Reg) (p : BitVec 4) (k : BitVec 3) : List Nat :=
  let e := s.me.vtype
  (List.range (lanesOf e)).map fun i =>
    if !(s.me.mask k).getLsbD i then redId e op
    else
      let v := laneBits (s.v a) (etypeWidth e) (srcLane (s.me.pat p) i)
      match etypeFmt e with
      | some m => (fp32.rne (m.decode v)).1
      | none => v
/-- One level of the pairwise tree. -/
def pairUp (e : BitVec 3) (op : Nat) : List Nat → List Nat × Flags
  | x :: y :: rest => let r := redOp e op x y; let q := pairUp e op rest; (r.1 :: q.1, r.2 ||| q.2)
  | l => (l, 0)
/-- `n` levels. -/
def redTree (e : BitVec 3) (op : Nat) : Nat → List Nat × Flags → List Nat × Flags
  | 0, l => l
  | n + 1, l => let r := pairUp e op l.1; redTree e op n (r.1, l.2 ||| r.2)
/-- A node's value in the lane format. -/
def redLane (e : BitVec 3) (v : Nat) : Nat × Flags :=
  match etypeFmt e with
  | some m => m.rne (fp32.decode v)
  | none => (v, 0)
def State.reduce (s : State) (op : Nat) (d a : Reg) (b : Bool) (p : BitVec 4) (k : BitVec 3) : Out :=
  s.guardX onV [.acc (s.accRow d), .acc (s.accRow a), .mask k] fun s =>
    let e := s.me.vtype
    let n := lanesOf e
    let r := redTree e op (if b then 5 else n.log2) (s.leaves op a p k, 0)
    let ls := (List.range n).map fun i => redLane e (r.1.getD (if b then i / 32 else 0) 0)
    (s.setV d 6 (rowOfLanes (etypeWidth e) (ls.map Prod.fst), BitVec.allOnes 4096, ls.foldl (fun f l => f ||| l.2) r.2)).done
def execVrsum (d a : Reg) (b : Bool) (p : BitVec 4) (k : BitVec 3) (s : State) : Out := s.reduce 0 d a b p k
def execVrmax (d a : Reg) (b : Bool) (p : BitVec 4) (k : BitVec 3) (s : State) : Out := s.reduce 1 d a b p k
def execVrmin (d a : Reg) (b : Bool) (p : BitVec 4) (k : BitVec 3) (s : State) : Out := s.reduce 2 d a b p k

/-- One step of the scan within blocks at distance `n`. -/
def scanStep (e : BitVec 3) (op n : Nat) (ys : List Nat) : List Nat × Flags :=
  let rs := ((List.range ys.length).zip ys).map fun p => if n ≤ p.1 % 32 then redOp e op (ys.getD (p.1 - n) 0) p.2 else (p.2, 0)
  (rs.map Prod.fst, rs.foldl (fun f r => f ||| r.2) 0)
/-- The carry from block to block, ascending: blocks left to do, values done, values to do. -/
def scanCarry (e : BitVec 3) (op : Nat) : Nat → List Nat → List Nat → Flags → List Nat × Flags
  | 0, done, rest, f => (done ++ rest, f)
  | n + 1, done, rest, f =>
    let c := done.getLast?.getD 0
    let rs := (rest.take 32).map (redOp e op c)
    scanCarry e op n (done ++ rs.map Prod.fst) (rest.drop 32) (rs.foldl (fun f r => f ||| r.2) f)
def execVscan (d a : Reg) (row : Bool) (op : BitVec 2) (p : BitVec 4) (k : BitVec 3) (s : State) : Out :=
  s.guardX onV [.acc (s.accRow d), .acc (s.accRow a), .mask k] fun s =>
    let e := s.me.vtype
    let r := [1, 2, 4, 8, 16].foldl (fun y n => let q := scanStep e op.toNat n y.1; (q.1, y.2 ||| q.2)) (s.leaves op.toNat a p k, (0 : Flags))
    let r := if row then scanCarry e op.toNat (lanesOf e / 32 - 1) (r.1.take 32) (r.1.drop 32) r.2 else r
    let ls := r.1.map (redLane e)
    (s.setV d 6 (rowOfLanes (etypeWidth e) (ls.map Prod.fst), BitVec.allOnes 4096, ls.foldl (fun f l => f ||| l.2) r.2)).done

end Sys2Proof.Machine
end

