-- ==== Sys2Proof/Machine/VectorState.lean ====
section
/-! DEFINITION. Vector loads, stores and spills, masks, the conditional queue and the vector state (R206, R215, R220 to R225). -/
namespace Sys2Proof.Machine

/-! ## Loads, stores and spills (R220, R221) -/

/-- The eight rows that VLD or VST names. -/
def State.vRows (s : State) (a : Reg) (i : BitVec 14) : List Nat :=
  (List.range 8).map fun k => sliceRow (bits (s.x a) 31 23) ((rowOf (wrapInt 23 (bits (s.x a) 22 0 + simm i * 64)) + 64 * k : Nat) : Int)
/-- The first fault among rows (R49, R220). -/
def State.rowsFault (s : State) (rows : List Nat) : Option (BitVec 16 × Nat) := rows.findSome? fun a => (s.sFault s.ct a).map fun c => (c, a)
/-- The eight rows of a V-stream access: faults trap before any access, channel rows at or above WM wait or trap (R220, R295). -/
def State.withRows (s : State) (rows : List Nat) (k : State → Out) : Out :=
  match s.rowsFault rows with
  | some f => s.trapAddr f.1 (BitVec.ofNat 64 f.2)
  | none => s.gated rows k
/-- VLD (R220): latency 6 in the tile's slice, else interlocked. -/
def execVld (d a : Reg) (i : BitVec 14) (s : State) : Out :=
  s.guard onV [.acc (s.accRow d), .x a] fun s =>
    let rows := s.vRows a i
    s.withRows rows fun s =>
      let accs : List Access := (List.range 8).zip rows |>.map fun p => { key := p.2, ownDie := s.ownDie p.2, part := p.1, addr := BitVec.ofNat 64 p.2 }
      let d := Dest.acc (s.accRow d)
      if rows.all s.isLocal then
        if 16 ≤ s.cur.flights.length || !accs.all (s.mayNow 6) then s.stall rINTERLOCK
        else (s.loadFlight d 6 accs).done
      else if s.cur.flights.any fun f => f.dest.covers d then s.stall rINTERLOCK
      else
        let id := s.nextId
        let s := s.await [d] ((List.range 8).map fun k => id + 1 + k) true 0 (BitVec.ofNat 64 (rows.headD 0))
        (accs.foldl (fun s c => s.issueAccess { c with sink := some id }) s).done
/-- VST (R220). -/
def execVst (d a : Reg) (i : BitVec 14) (s : State) : Out :=
  s.guard onV [.acc (s.accRow d), .x a] fun s =>
    s.withRows (s.vRows a i) fun s => s.readingAccs [.acc (s.accRow d)] fun s =>
      (((s.vRows a i).zip (vrowRows (s.v d))).foldl (fun s p => s.store p.1 (BitVec.ofNat 64 p.1) p.2 none) s).done
def execVlds (d : Reg) (i : BitVec 14) (s : State) : Out :=
  s.guardX onV [.acc (s.accRow d)] fun s => s.reading ((List.range 64).map fun k => eccSpill (64 * i.toNat + k)) (zext64 s.cur.pc) fun s =>
    (s.setV d 1 (BitVec.ofNat 4096 (Mem.readN s.me.spill (512 * i.toNat) 512), BitVec.allOnes 4096, 0)).done
def execVsts (d : Reg) (i : BitVec 14) (s : State) : Out :=
  s.guard onV [.acc (s.accRow d)] fun s => s.readingAccs [.acc (s.accRow d)] fun s => (s.spillStore (512 * i.toNat) 512 (s.v d)).done

/-! ## Masks (R222) -/

def State.maskOp (s : State) (d a b : BitVec 3) (f : BitVec 512 → BitVec 512 → BitVec 512) : Out :=
  s.guardX onV [.mask d, .mask a, .mask b] fun s =>
    (s.result (.mask d) 4 ((f (s.me.mask a) (s.me.mask b)).setWidth 4096) (BitVec.allOnes 4096) 0).done
def execVmand (d a b : BitVec 3) (s : State) : Out := s.maskOp d a b fun x y => x &&& y
def execVmor (d a b : BitVec 3) (s : State) : Out := s.maskOp d a b fun x y => x ||| y
def execVmnot (d a : BitVec 3) (s : State) : Out := s.maskOp d a a fun x _ => ~~~x
def execVmpop (d : Reg) (a : BitVec 3) (s : State) : Out :=
  s.guardX onV [.x d, .mask a] fun s =>
    (s.setX d 4 (BitVec.ofNat 64 ((List.range (lanesOf s.me.vtype)).filter fun i => (s.me.mask a).getLsbD i).length)).done

/-! ## The conditional queue (R223 to R225) -/

/-- R223: VTYPE FP32 or INT32 only. -/
def State.condType (s : State) (k : State → Out) : Out := if s.me.vtype = 0 || s.me.vtype = 3 then k s else s.trap cILLEGAL_USE
def execVcqpush (a : Reg) (p : BitVec 4) (k : BitVec 3) (s : State) : Out :=
  s.guard onV [.acc (s.accRow a), .mask k] fun s => s.condType fun s =>
    let es := ((List.range 128).filter fun i => (s.me.mask k).getLsbD i).map fun i =>
      BitVec.ofNat 32 (laneBits (s.v a) 32 (srcLane (s.me.pat p) i))
    if 1024 < s.me.condQ.length + es.length then s.trap cILLEGAL_USE
    else s.readingAccs [.acc (s.accRow a)] fun s => (s.modMe fun u => { u with condQ := u.condQ ++ es }).done
def execVcqpop (d : Reg) (f : BitVec 3) (s : State) : Out :=
  s.guardI onV [] [.acc (s.accRow d), .mask f] fun s => s.condType fun s =>
    let es := s.me.condQ.take 128
    ((s.modMe fun u => { u with condQ := u.condQ.drop 128 }).answers [.acc (s.accRow d), .mask f]
      [rowOfLanes 32 (es.map BitVec.toNat), BitVec.ofNat 4096 (2 ^ es.length - 1)]).done
def execVcqcnt (d : Reg) (s : State) : Out :=
  s.guardI onV [] [.x d] fun s => s.condType fun s => (s.answer d (BitVec.ofNat 64 s.me.condQ.length)).done

/-- The mark of a V stream whose balance waits to be applied, and of one whose balance has been. -/
def balKey (peer : TileNo) : Nat := 2 ^ 50 + peer.toNat
def balDone : Nat := 2 ^ 51
/-- VCQBAL (R225): the stream waits until the balance is applied at the end of a clock. -/
def execVcqbal (a : Reg) (s : State) : Out :=
  s.guard onV [.x a] fun s => s.condType fun s =>
    let peer : TileNo := (s.x a).setWidth 8
    if s.cur.waitN = some balDone then s.done
    else if clusterOf peer ≠ clusterOf s.ct then s.trap cILLEGAL_USE
    else match s.tileFault s.ct peer with
      | some c => s.trap c
      | none => (s.modCur fun z => { z with waitN := some (balKey peer) }).stall rINTERLOCK
/-- Moves floor(|p - q| / 2) elements from the tail of the fuller queue to the tail of the other, in order. -/
def balance (p q : List (BitVec 32)) : List (BitVec 32) × List (BitVec 32) :=
  let n := (p.length - q.length) / 2
  let m := (q.length - p.length) / 2
  (p.take (p.length - n) ++ q.drop (q.length - m), q.take (q.length - m) ++ p.drop (p.length - n))
/-- The balance that the V stream of tile `t` waits for; `hit` are the queues balanced in this clock (R225). At a frozen tile it waits (R336). Once it is
applied, VCQBAL has issued and is not issued again. -/
def State.balanceOne (s : State) (hit : List TileNo) (t : TileNo) : State × List TileNo :=
  match (s.tile t).v.waitN with
  | some w =>
    if (s.tile t).v.mode = .running && 2 ^ 50 ≤ w && w < balDone && (s.tile t).unit.isSome then
      let peer := BitVec.ofNat 8 (w - 2 ^ 50)
      if hit.contains t || hit.contains peer || (s.tile t).frozen || (s.tile peer).frozen then (s, hit)
      else
        let s := s.modStrmOf t .V fun z => { z with waitN := some balDone, issuedWait := some balDone }
        if peer = t || (s.tile peer).unit.isNone || (s.tile peer).launchNo ≠ (s.tile t).launchNo then (s, hit)
        else
          let r := balance (s.tile t).condQ (s.tile peer).condQ
          ((s.modTile t fun u => { u with condQ := r.1 }).modTile peer fun u => { u with condQ := r.2 }, t :: peer :: hit)
    else (s, hit)
  | none => (s, hit)
/-- The balances of a clock, in order of the issuing tile's number. -/
def State.balances (s : State) : State :=
  (s.tiles.foldl (fun r p => r.1.balanceOne r.2 (BitVec.ofNat 8 p.1)) (s, ([] : List TileNo))).1

/-! ## Vector state (R206, R215) -/

def execVsett (e : BitVec 3) (s : State) : Out :=
  s.guardX onV [.vtype] fun s => (s.result .vtype 1 (e.setWidth 4096) (BitVec.allOnes 4096) 0).done
def execVsetw (a : Reg) (i : BitVec 14) (s : State) : Out :=
  s.guardX onV [.vwbase, .x a] fun s => (s.result .vwbase 1 (((s.x a + sext64 i).setWidth 8).setWidth 4096) (BitVec.allOnes 4096) 0).done
/-- VPAT: kind in [2:0], K in [7:3], the eight selectors of PERM8 in [31:8]. -/
def execVpat (d : BitVec 4) (a : Reg) (kind : BitVec 3) (k : BitVec 5) (s : State) : Out :=
  s.guardX onV [.pat d, .x a] fun s =>
    let sel := if kind = 5 then bits (s.x a) 23 0 else 0
    (s.result (.pat d) 1 (BitVec.ofNat 4096 (kind.toNat + k.toNat * 8 + sel * 256)) (BitVec.allOnes 4096) 0).done
def execVaclr (d : Reg) (c : BitVec 5) (s : State) : Out :=
  s.guardR onV ((List.range (c.toNat + 1)).map fun k => .acc ((s.accRow d + k) % 256)) [] fun s =>
    (s.result (.accs (s.accRow d) (c.toNat + 1)) 4 0 (BitVec.allOnes 4096) 0).done

end Sys2Proof.Machine
end

