-- ==== Sys2Proof/Machine/Dispatch.lean ====
section
/-! DEFINITION. One arm per step of the opcode table: its meaning. -/
namespace Sys2Proof.Machine

/-- The meaning of every step (the entry of each instruction; 95_what_each_step_holds for the others). -/
def exec (i : Instr) (s : State) : Host.Outcome State Fault Refusal :=
  match i with
  | .add a b c => Sys2Proof.Machine.execAdd a b c s
  | .sub a b c => Sys2Proof.Machine.execSub a b c s
  | .mul a b c => Sys2Proof.Machine.execMul a b c s
  | .mulh a b c => Sys2Proof.Machine.execMulh a b c s
  | .mulhu a b c => Sys2Proof.Machine.execMulhu a b c s
  | .div a b c => Sys2Proof.Machine.execDiv a b c s
  | .divu a b c => Sys2Proof.Machine.execDivu a b c s
  | .rem a b c => Sys2Proof.Machine.execRem a b c s
  | .remu a b c => Sys2Proof.Machine.execRemu a b c s
  | .and a b c => Sys2Proof.Machine.execAnd a b c s
  | .or a b c => Sys2Proof.Machine.execOr a b c s
  | .xor a b c => Sys2Proof.Machine.execXor a b c s
  | .andn a b c => Sys2Proof.Machine.execAndn a b c s
  | .shl a b c => Sys2Proof.Machine.execShl a b c s
  | .shr a b c => Sys2Proof.Machine.execShr a b c s
  | .sar a b c => Sys2Proof.Machine.execSar a b c s
  | .rotr a b c => Sys2Proof.Machine.execRotr a b c s
  | .clz a b => Sys2Proof.Machine.execClz a b s
  | .ctz a b => Sys2Proof.Machine.execCtz a b s
  | .popc a b => Sys2Proof.Machine.execPopc a b s
  | .min a b c => Sys2Proof.Machine.execMin a b c s
  | .max a b c => Sys2Proof.Machine.execMax a b c s
  | .minu a b c => Sys2Proof.Machine.execMinu a b c s
  | .maxu a b c => Sys2Proof.Machine.execMaxu a b c s
  | .slt a b c => Sys2Proof.Machine.execSlt a b c s
  | .sltu a b c => Sys2Proof.Machine.execSltu a b c s
  | .seq a b c => Sys2Proof.Machine.execSeq a b c s
  | .sel a b c d => Sys2Proof.Machine.execSel a b c d s
  | .mad a b c d => Sys2Proof.Machine.execMad a b c d s
  | .bfx a b c d => Sys2Proof.Machine.execBfx a b c d s
  | .bfi a b c d => Sys2Proof.Machine.execBfi a b c d s
  | .addi a b c => Sys2Proof.Machine.execAddi a b c s
  | .muli a b c => Sys2Proof.Machine.execMuli a b c s
  | .andi a b c => Sys2Proof.Machine.execAndi a b c s
  | .ori a b c => Sys2Proof.Machine.execOri a b c s
  | .xori a b c => Sys2Proof.Machine.execXori a b c s
  | .shli a b c => Sys2Proof.Machine.execShli a b c s
  | .shri a b c => Sys2Proof.Machine.execShri a b c s
  | .sari a b c => Sys2Proof.Machine.execSari a b c s
  | .rotri a b c => Sys2Proof.Machine.execRotri a b c s
  | .slti a b c => Sys2Proof.Machine.execSlti a b c s
  | .lui a b => Sys2Proof.Machine.execLui a b s
  | .lit a b c d => Sys2Proof.Machine.execLit a b c d s
  | .beq a b c => Sys2Proof.Machine.execBeq a b c s
  | .bne a b c => Sys2Proof.Machine.execBne a b c s
  | .blt a b c => Sys2Proof.Machine.execBlt a b c s
  | .bge a b c => Sys2Proof.Machine.execBge a b c s
  | .bltu a b c => Sys2Proof.Machine.execBltu a b c s
  | .bgeu a b c => Sys2Proof.Machine.execBgeu a b c s
  | .j a => Sys2Proof.Machine.execJ a s
  | .call a => Sys2Proof.Machine.execCall a s
  | .ret a => Sys2Proof.Machine.execRet a s
  | .loop a b => Sys2Proof.Machine.execLoop a b s
  | .rep a b c d e f => Sys2Proof.Machine.execRep a b c d e f s
  | .nop => Sys2Proof.Machine.execNop s
  | .endStream => Sys2Proof.Machine.execEndStream s
  | .trap a => Sys2Proof.Machine.execTrap a s
  | .brk a => Sys2Proof.Machine.execBrk a s
  | .ldq a b c d e => Sys2Proof.Machine.execLdq a b c d e s
  | .ldqW a b c d e => Sys2Proof.Machine.execLdqW a b c d e s
  | .ldqWc a b c d e => Sys2Proof.Machine.execLdqWc a b c d e s
  | .stq a b c d e => Sys2Proof.Machine.execStq a b c d e s
  | .ldg a b c d => Sys2Proof.Machine.execLdg a b c d s
  | .stg a b c d => Sys2Proof.Machine.execStg a b c d s
  | .qext a b c => Sys2Proof.Machine.execQext a b c s
  | .qextX a b c => Sys2Proof.Machine.execQextX a b c s
  | .qins a b c => Sys2Proof.Machine.execQins a b c s
  | .qinsX a b c => Sys2Proof.Machine.execQinsX a b c s
  | .qrotm a b c d => Sys2Proof.Machine.execQrotm a b c d s
  | .qmov a b => Sys2Proof.Machine.execQmov a b s
  | .lds a b => Sys2Proof.Machine.execLds a b s
  | .sts a b => Sys2Proof.Machine.execSts a b s
  | .ldc a b c => Sys2Proof.Machine.execLdc a b c s
  | .amo a b c d e f g h => Sys2Proof.Machine.execAmo a b c d e f g h s
  | .cas a b c d e f g => Sys2Proof.Machine.execCas a b c d e f g s
  | .cbinit a b => Sys2Proof.Machine.execCbinit a b s
  | .cbwaitf a b => Sys2Proof.Machine.execCbwaitf a b s
  | .cbwaite a b => Sys2Proof.Machine.execCbwaite a b s
  | .cbadv a b c => Sys2Proof.Machine.execCbadv a b c s
  | .fence a => Sys2Proof.Machine.execFence a s
  | .mark => Sys2Proof.Machine.execMark s
  | .barinit a b c => Sys2Proof.Machine.execBarinit a b c s
  | .bararr a b c => Sys2Proof.Machine.execBararr a b c s
  | .barwait a b c d => Sys2Proof.Machine.execBarwait a b c d s
  | .csrr a b => Sys2Proof.Machine.execCsrr a b s
  | .csrw a b => Sys2Proof.Machine.execCsrw a b s
  | .evt a b => Sys2Proof.Machine.execEvt a b s
  | .rldq a b c d => Sys2Proof.Machine.execRldq a b c d s
  | .rstq a b c d => Sys2Proof.Machine.execRstq a b c d s
  | .rstqNa a b c d => Sys2Proof.Machine.execRstqNa a b c d s
  | .ramo a b c d e f => Sys2Proof.Machine.execRamo a b c d e f s
  | .rcas a b c d => Sys2Proof.Machine.execRcas a b c d s
  | .renq a b c => Sys2Proof.Machine.execRenq a b c s
  | .rchase a b c d => Sys2Proof.Machine.execRchase a b c d s
  | .colldef a b => Sys2Proof.Machine.execColldef a b s
  | .colldefFree a b => Sys2Proof.Machine.execColldefFree a b s
  | .shape a b c => Sys2Proof.Machine.execShape a b c s
  | .shfree a => Sys2Proof.Machine.execShfree a s
  | .post a b => Sys2Proof.Machine.execPost a b s
  | .postTry a b => Sys2Proof.Machine.execPostTry a b s
  | .rpost a b c d => Sys2Proof.Machine.execRpost a b c d s
  | .twait a b => Sys2Proof.Machine.execTwait a b s
  | .tstat a b => Sys2Proof.Machine.execTstat a b s
  | .tclr a => Sys2Proof.Machine.execTclr a s
  | .tacq a b => Sys2Proof.Machine.execTacq a b s
  | .tend a => Sys2Proof.Machine.execTend a s
  | .launch a b => Sys2Proof.Machine.execLaunch a b s
  | .launchW a b => Sys2Proof.Machine.execLaunchW a b s
  | .cancel a b => Sys2Proof.Machine.execCancel a b s
  | .cwait a b c => Sys2Proof.Machine.execCwait a b c s
  | .cread a b c => Sys2Proof.Machine.execCread a b c s
  | .dqpush a b => Sys2Proof.Machine.execDqpush a b s
  | .dqpop a => Sys2Proof.Machine.execDqpop a s
  | .dqsteal a b => Sys2Proof.Machine.execDqsteal a b s
  | .wload a => Sys2Proof.Machine.execWload a s
  | .wloadR a b => Sys2Proof.Machine.execWloadR a b s
  | .wswap => Sys2Proof.Machine.execWswap s
  | .topkrd a b => Sys2Proof.Machine.execTopkrd a b s
  | .topkrdN a b => Sys2Proof.Machine.execTopkrdN a b s
  | .topkclr => Sys2Proof.Machine.execTopkclr s
  | .demand a b => Sys2Proof.Machine.execDemand a b s
  | .feed a b c => Sys2Proof.Machine.execFeed a b c s
  | .drain a b c => Sys2Proof.Machine.execDrain a b c s
  | .coda a => Sys2Proof.Machine.execCoda a s
  | .rollstat a b c => Sys2Proof.Machine.execRollstat a b c s
  | .tagalloc a b => Sys2Proof.Machine.execTagalloc a b s
  | .tagfree a => Sys2Proof.Machine.execTagfree a s
  | .shot a b c => Sys2Proof.Machine.execShot a b c s
  | .catchTag a b c => Sys2Proof.Machine.execCatchTag a b c s
  | .tagstat a b c => Sys2Proof.Machine.execTagstat a b c s
  | .rfe => Sys2Proof.Machine.execRfe s
  | .rfeK => Sys2Proof.Machine.execRfeK s
  | .srr a b => Sys2Proof.Machine.execSrr a b s
  | .srw a b => Sys2Proof.Machine.execSrw a b s
  | .idle a b => Sys2Proof.Machine.execIdle a b s
  | .vaddi a b => Sys2Proof.Machine.execVaddi a b s
  | .vmuli a b => Sys2Proof.Machine.execVmuli a b s
  | .vmovi a b => Sys2Proof.Machine.execVmovi a b s
  | .vmaxi a b => Sys2Proof.Machine.execVmaxi a b s
  | .vmini a b => Sys2Proof.Machine.execVmini a b s
  | .vadd a b c d e => Sys2Proof.Machine.execVadd a b c d e s
  | .vsub a b c d e => Sys2Proof.Machine.execVsub a b c d e s
  | .vmul a b c d e => Sys2Proof.Machine.execVmul a b c d e s
  | .vfma a b c d e => Sys2Proof.Machine.execVfma a b c d e s
  | .vmadd a b c d e => Sys2Proof.Machine.execVmadd a b c d e s
  | .vmin a b c d e => Sys2Proof.Machine.execVmin a b c d e s
  | .vmax a b c d e => Sys2Proof.Machine.execVmax a b c d e s
  | .vabs a b c d => Sys2Proof.Machine.execVabs a b c d s
  | .vneg a b c d => Sys2Proof.Machine.execVneg a b c d s
  | .vrcp a b c d => Sys2Proof.Machine.execVrcp a b c d s
  | .vrsq a b c d => Sys2Proof.Machine.execVrsq a b c d s
  | .vsqrt a b c d => Sys2Proof.Machine.execVsqrt a b c d s
  | .vexp2 a b c d => Sys2Proof.Machine.execVexp2 a b c d s
  | .vlog2 a b c d => Sys2Proof.Machine.execVlog2 a b c d s
  | .vtanh a b c d => Sys2Proof.Machine.execVtanh a b c d s
  | .vsigm a b c d => Sys2Proof.Machine.execVsigm a b c d s
  | .vcmp a b c d e f g => Sys2Proof.Machine.execVcmp a b c d e f g s
  | .vsel a b c d e => Sys2Proof.Machine.execVsel a b c d e s
  | .viadd a b c d e => Sys2Proof.Machine.execViadd a b c d e s
  | .visub a b c d e => Sys2Proof.Machine.execVisub a b c d e s
  | .vimul a b c d e => Sys2Proof.Machine.execVimul a b c d e s
  | .vimin a b c d e => Sys2Proof.Machine.execVimin a b c d e s
  | .vimax a b c d e => Sys2Proof.Machine.execVimax a b c d e s
  | .viabs a b c d => Sys2Proof.Machine.execViabs a b c d s
  | .vand a b c d e => Sys2Proof.Machine.execVand a b c d e s
  | .vor a b c d e => Sys2Proof.Machine.execVor a b c d e s
  | .vxor a b c d e => Sys2Proof.Machine.execVxor a b c d e s
  | .vshl a b c d e => Sys2Proof.Machine.execVshl a b c d e s
  | .vshr a b c d e => Sys2Proof.Machine.execVshr a b c d e s
  | .vsar a b c d e => Sys2Proof.Machine.execVsar a b c d e s
  | .vcvt a b c d e f g h => Sys2Proof.Machine.execVcvt a b c d e f g h s
  | .vquant a b c d e f => Sys2Proof.Machine.execVquant a b c d e f s
  | .vdeq a b c d e f => Sys2Proof.Machine.execVdeq a b c d e f s
  | .vrsum a b c d e => Sys2Proof.Machine.execVrsum a b c d e s
  | .vrmax a b c d e => Sys2Proof.Machine.execVrmax a b c d e s
  | .vrmin a b c d e => Sys2Proof.Machine.execVrmin a b c d e s
  | .vscan a b c d e f => Sys2Proof.Machine.execVscan a b c d e f s
  | .vmov a b c d => Sys2Proof.Machine.execVmov a b c d s
  | .vbcast a b c => Sys2Proof.Machine.execVbcast a b c s
  | .vext a b c d => Sys2Proof.Machine.execVext a b c d s
  | .vins a b c => Sys2Proof.Machine.execVins a b c s
  | .vaddc a b c => Sys2Proof.Machine.execVaddc a b c s
  | .vmulc a b c => Sys2Proof.Machine.execVmulc a b c s
  | .vfmac a b c => Sys2Proof.Machine.execVfmac a b c s
  | .vmaddc a b c => Sys2Proof.Machine.execVmaddc a b c s
  | .vld a b c => Sys2Proof.Machine.execVld a b c s
  | .vst a b c => Sys2Proof.Machine.execVst a b c s
  | .vlds a b => Sys2Proof.Machine.execVlds a b s
  | .vsts a b => Sys2Proof.Machine.execVsts a b s
  | .vmand a b c => Sys2Proof.Machine.execVmand a b c s
  | .vmor a b c => Sys2Proof.Machine.execVmor a b c s
  | .vmnot a b => Sys2Proof.Machine.execVmnot a b s
  | .vmpop a b => Sys2Proof.Machine.execVmpop a b s
  | .vcqpush a b c => Sys2Proof.Machine.execVcqpush a b c s
  | .vcqpop a b => Sys2Proof.Machine.execVcqpop a b s
  | .vcqbal a => Sys2Proof.Machine.execVcqbal a s
  | .vcqcnt a => Sys2Proof.Machine.execVcqcnt a s
  | .vsett a => Sys2Proof.Machine.execVsett a s
  | .vsetw a b => Sys2Proof.Machine.execVsetw a b s
  | .vpat a b c d => Sys2Proof.Machine.execVpat a b c d s
  | .vaclr a b => Sys2Proof.Machine.execVaclr a b s
  | .illegalOpcode a => Sys2Proof.Machine.execIllegalOpcode a s
  | .lineFetch => Sys2Proof.Machine.execLineFetch s
  | .resultLand => Sys2Proof.Machine.execResultLand s
  | .interlockedResult => Sys2Proof.Machine.execInterlockedResult s
  | .stretchEnd => Sys2Proof.Machine.execStretchEnd s
  | .storePerformed => Sys2Proof.Machine.execStorePerformed s
  | .loadPerformed => Sys2Proof.Machine.execLoadPerformed s
  | .taskAccept => Sys2Proof.Machine.execTaskAccept s
  | .renameAlloc => Sys2Proof.Machine.execRenameAlloc s
  | .taskRelease => Sys2Proof.Machine.execTaskRelease s
  | .publication => Sys2Proof.Machine.execPublication s
  | .taskExit => Sys2Proof.Machine.execTaskExit s
  | .taskFail => Sys2Proof.Machine.execTaskFail s
  | .taskCancelStop => Sys2Proof.Machine.execTaskCancelStop s
  | .copyRow => Sys2Proof.Machine.execCopyRow s
  | .copySuspend => Sys2Proof.Machine.execCopySuspend s
  | .weightLoadComplete => Sys2Proof.Machine.execWeightLoadComplete s
  | .matmulPass => Sys2Proof.Machine.execMatmulPass s
  | .rowFinal => Sys2Proof.Machine.execRowFinal s
  | .accDrain => Sys2Proof.Machine.execAccDrain s
  | .groupForm => Sys2Proof.Machine.execGroupForm s
  | .beat => Sys2Proof.Machine.execBeat s
  | .decisionPoint => Sys2Proof.Machine.execDecisionPoint s
  | .demandAppend => Sys2Proof.Machine.execDemandAppend s
  | .feedStage => Sys2Proof.Machine.execFeedStage s
  | .rollDrainWrite => Sys2Proof.Machine.execRollDrainWrite s
  | .rollStop => Sys2Proof.Machine.execRollStop s
  | .rimshotArrival => Sys2Proof.Machine.execRimshotArrival s
  | .bounceResend => Sys2Proof.Machine.execBounceResend s
  | .orphanTimeout => Sys2Proof.Machine.execOrphanTimeout s
  | .tagPurge => Sys2Proof.Machine.execTagPurge s
  | .purgeAck => Sys2Proof.Machine.execPurgeAck s
  | .delivery => Sys2Proof.Machine.execDelivery s
  | .barrierArrival => Sys2Proof.Machine.execBarrierArrival s
  | .barrierResend => Sys2Proof.Machine.execBarrierResend s
  | .channelRowArrival => Sys2Proof.Machine.execChannelRowArrival s
  | .channelResend => Sys2Proof.Machine.execChannelResend s
  | .channelRowAck => Sys2Proof.Machine.execChannelRowAck s
  | .remoteRequest => Sys2Proof.Machine.execRemoteRequest s
  | .remotePostArrival => Sys2Proof.Machine.execRemotePostArrival s
  | .remoteReply => Sys2Proof.Machine.execRemoteReply s
  | .transactionTimeout => Sys2Proof.Machine.execTransactionTimeout s
  | .agedDrop => Sys2Proof.Machine.execAgedDrop s
  | .asyncTrap => Sys2Proof.Machine.execAsyncTrap s
  | .handlerEntry => Sys2Proof.Machine.execHandlerEntry s
  | .collContribution => Sys2Proof.Machine.execCollContribution s
  | .collCommit => Sys2Proof.Machine.execCollCommit s
  | .progressTimeout => Sys2Proof.Machine.execProgressTimeout s
  | .knell => Sys2Proof.Machine.execKnell s
  | .colldefTimeout => Sys2Proof.Machine.execColldefTimeout s
  | .tlbWalk => Sys2Proof.Machine.execTlbWalk s
  | .invalSourceAck => Sys2Proof.Machine.execInvalSourceAck s
  | .invalidationComplete => Sys2Proof.Machine.execInvalidationComplete s
  | .flitRetry => Sys2Proof.Machine.execFlitRetry s
  | .linkDown => Sys2Proof.Machine.execLinkDown s
  | .unitRetire => Sys2Proof.Machine.execUnitRetire s
  | .cancelStop => Sys2Proof.Machine.execCancelStop s
  | .tailWrite => Sys2Proof.Machine.execTailWrite s
  | .queueConsume => Sys2Proof.Machine.execQueueConsume s
  | .launchAdmit => Sys2Proof.Machine.execLaunchAdmit s
  | .dispatchRound => Sys2Proof.Machine.execDispatchRound s
  | .unitPlace => Sys2Proof.Machine.execUnitPlace s
  | .preemptTake => Sys2Proof.Machine.execPreemptTake s
  | .unitResume => Sys2Proof.Machine.execUnitResume s
  | .completionWord => Sys2Proof.Machine.execCompletionWord s
  | .coreHalt => Sys2Proof.Machine.execCoreHalt s
  | .heartbeatMiss => Sys2Proof.Machine.execHeartbeatMiss s
  | .schedTakeover => Sys2Proof.Machine.execSchedTakeover s
  | .planeDiff => Sys2Proof.Machine.execPlaneDiff s
  | .planeEnd => Sys2Proof.Machine.execPlaneEnd s
  | .planeFlip => Sys2Proof.Machine.execPlaneFlip s
  | .pcSample => Sys2Proof.Machine.execPcSample s
  | .pealRecord => Sys2Proof.Machine.execPealRecord s
  | .pealctl => Sys2Proof.Machine.execPealctl s
  | .pealrd => Sys2Proof.Machine.execPealrd s
  | .csel => Sys2Proof.Machine.execCsel s
  | .wake => Sys2Proof.Machine.execWake s
  | .registerWrite => Sys2Proof.Machine.execRegisterWrite s
  | .queueSet => Sys2Proof.Machine.execQueueSet s
  | .queueGet => Sys2Proof.Machine.execQueueGet s
  | .jobEnd => Sys2Proof.Machine.execJobEnd s
  | .jobCancel => Sys2Proof.Machine.execJobCancel s
  | .tlbInval => Sys2Proof.Machine.execTlbInval s
  | .suspendList => Sys2Proof.Machine.execSuspendList s
  | .resume => Sys2Proof.Machine.execResume s
  | .fail => Sys2Proof.Machine.execFail s
  | .stateRead => Sys2Proof.Machine.execStateRead s
  | .freeze => Sys2Proof.Machine.execFreeze s
  | .thaw => Sys2Proof.Machine.execThaw s
  | .setHaltOnBreak => Sys2Proof.Machine.execSetHaltOnBreak s
  | .clearHaltOnBreak => Sys2Proof.Machine.execClearHaltOnBreak s
  | .stateWake => Sys2Proof.Machine.execStateWake s
  | .mailboxUnsupported => Sys2Proof.Machine.execMailboxUnsupported s
  | .firmwareUpdate => Sys2Proof.Machine.execFirmwareUpdate s
  | .getMeasurements => Sys2Proof.Machine.execGetMeasurements s
  | .keyExchange => Sys2Proof.Machine.execKeyExchange s
  | .keyInstall => Sys2Proof.Machine.execKeyInstall s
  | .powerLimitSet => Sys2Proof.Machine.execPowerLimitSet s
  | .clockChange => Sys2Proof.Machine.execClockChange s
  | .thermalTrip => Sys2Proof.Machine.execThermalTrip s
  | .coldReset => Sys2Proof.Machine.execColdReset s
  | .warmReset => Sys2Proof.Machine.execWarmReset s
  | .idleTimerExpiry => Sys2Proof.Machine.execIdleTimerExpiry s
  | .partitionForm => Sys2Proof.Machine.execPartitionForm s
  | .partitionDissolve => Sys2Proof.Machine.execPartitionDissolve s
  | .coreReload => Sys2Proof.Machine.execCoreReload s

end Sys2Proof.Machine
end

