-- ==== Sys2Proof/Machine/Tick.lean ====
section
/-! DEFINITION. The clock (log entry 1): what a tile clock begins with, the Carillon's part of it, its accounting, and frozen tiles
(R10 to R16, R70, R161, R183, R199, R225, R324, R336, R360, R378, R384, R385, R390). -/
namespace Sys2Proof.Machine

/-! ## Frozen tiles (R336) -/

/-- Traffic addressed to a tile and its own steps, which wait while it is frozen; a channel row is refused instead (R365). A
reply of the fabric reaches the hub, where it ends its transaction; with a `num` it is what waits for the tile (R336, R377). -/
def Act.tileBound (a : Act) : Bool :=
  unitStep a.op && !a.byHost || match a.op with
    | .remoteReply | .channelRowAck => a.ev.num ≠ 0
    | .delivery | .barrierArrival | .collContribution | .remotePostArrival | .wake | .planeDiff | .planeEnd | .planeFlip | .unitPlace
    | .unitResume | .preemptTake | .cancelStop | .rollStop => true
    | _ => false
/-- Whether a group's beat is held because a member's tile is frozen. -/
def State.busFrozen (s : State) (n : Nat) : Bool := (s.bus n).members.any fun t => (s.tile t).frozen
/-- The other tiles whose rows a step of a tile's stream or engine comes to: the row of a load or store, the slices of a task's boxes. -/
def State.rowTiles (s : State) (a : Act) : List TileNo :=
  let u := s.tile a.ev.tile
  let boxes (k : Task) : List TileNo := (List.range k.record.boxes.length).filterMap fun i =>
    let b := s.side a.ev.tile k i
    if k.bases ≠ [] && (k.record.boxes.getD i none).isSome && b.h.space = 0 then some (keyTile b.base) else none
  let all := match a.op with
    | .loadPerformed | .storePerformed => ((s.strmWith a.ev.tile a.ev.st a.ev.id).accs.filter fun (e : Access) => e.id = a.ev.id && e.id ≠ 0 && e.arrive.isNone && keyIsS e.key).map fun (e : Access) => keyTile e.key
    | .copyRow | .matmulPass | .accDrain => ((u.working a.ev.id).map boxes).getD []
    | _ => []
  all.filter fun t => t ≠ a.ev.tile
/-- The frozen tile that holds a step, if any: the step's own, or one at whose mesh edge it waits. A channel row's acknowledgment of this package comes
over the mesh. -/
def State.holder (s : State) (a : Act) : Option TileNo :=
  match a.op with
  | .beat => (s.bus a.ev.id).members.find? fun t => (s.tile t).frozen
  | .decisionPoint => (s.bus a.ev.id).members.find? fun t => (s.tile t).frozen
  | .channelRowAck => (match Map.find s.msgs a.ev.id with
    | some (.chanAck _ _) => if (s.tile a.ev.tile).frozen then some a.ev.tile else none
    | _ => if a.tileBound && (s.tile a.ev.tile).frozen then some a.ev.tile else none)
  | .cancelStop => if a.ev.aux = 0 && (s.tile a.ev.tile).frozen then some a.ev.tile else none
  | _ =>
    if a.tileBound && (s.tile a.ev.tile).frozen then some a.ev.tile
    else if s.tiles.any fun p => p.2.frozen then (s.rowTiles a).find? fun t => (s.tile t).frozen
    else none
/-- An engine's or stream's own step, whose time stands still with its tile. -/
def Act.engine (a : Act) : Bool := unitStep a.op || a.op = .beat || a.op = .decisionPoint

/-- Inserts by key, after equal keys. -/
def insertAct (key : Act → Nat) (a : Act) : List Act → List Act
  | [] => [a]
  | b :: rest => if key a < key b then a :: b :: rest else b :: insertAct key a rest
/-- Sorts by key; equal keys keep their order. -/
def sortActs (key : Act → Nat) (as : List Act) : List Act := as.foldl (fun acc a => insertAct key a acc) []

/-! ## The late part of a clock (R183, R360) -/

/-- Completions, failures and publications of a tile, in order of acceptance. -/
def Tile.exits (u : Tile) (t : TileNo) : List Act :=
  u.window.filterMap fun k =>
    let a (op : Instr) : Option Act := some { op := op, ev := { tile := t, id := k.acc } }
    if u.mayPublish k then a .publication
    else match k.ended with
      | some c => if u.eclk < k.endAt then none else if c = 0 then (if k.st = 2 then a .taskExit else none) else a .taskFail
      | none => none
/-- Release of a tile's waiting tasks. -/
def Tile.releases (u : Tile) (t : TileNo) : List Act :=
  if u.window.any fun k => k.st = 1 then [0, 1, 2, 5].map fun c => { op := .taskRelease, ev := { tile := t, num := c } } else []
/-- The retirement of a unit whose streams are over; the step asks whether its other members are gone. -/
def Tile.retires (u : Tile) (t : TileNo) : List Act :=
  if u.unit.isSome && allStreams.all fun st => (u.strm st).isOver then [{ op := .unitRetire, ev := { tile := t } }] else []
/-- Acceptance, renaming, retirement and pre-emption of a tile; `more` says that a record comes into its remote-post queue in this clock. -/
def Tile.lateActs (u : Tile) (t : TileNo) (more : Bool) : List Act :=
  let a (op : Instr) (n : Nat) : Act := { op := op, ev := { tile := t, num := n } }
  let comes : Bool := u.posts ≠ [] || u.remoteQ ≠ [] || more
  (if comes then [a .taskAccept (if u.entryFree then 1 else 0)] else [])
    ++ (if comes || u.window.any fun k => k.st = 1 then [a .renameAlloc 0] else [])
    ++ u.retires t
    ++ (if u.preemptAsk || u.preemptReq then [a .preemptTake 0] else [])
/-- The tiles with a resident unit that is not frozen. -/
def State.working (s : State) : List (TileNo × Tile) :=
  (s.tiles.filter fun (p : Nat × Tile) => p.2.unit.isSome && !p.2.frozen).map fun p => (BitVec.ofNat 8 p.1, p.2)
/-- Whether a tile of a partition is sampled in this clock (R385). -/
def State.sampled (s : State) (t : TileNo) : Bool :=
  match s.partOf t with
  | some p =>
    let q := s.part p
    q.pealPeriod ≠ 0 && q.sampleFrom < s.clock && (s.clock - q.sampleFrom) % (64 * q.pealPeriod.toNat) = 0
  | none => false
/-- The order in which the queues of a pool take entries within a clock, after the owner's DQPUSH (R330); what waits at a tile's edge comes before what
arrives (R276). -/
def Act.queueRank (a : Act) : Option Nat :=
  match a.op with
  | .demandAppend => some 0
  | .delivery => some (if a.ev.num = 1 then 1 else 2)
  | .barrierArrival => some 3
  | .remotePostArrival => some 4
  | .pealRecord => if a.ev.aux = 2 then some 5 else none
  | _ => none
/-- Whether the demands that an array holds fit into MIN of their queues: entries that no other queue can take, so that they come before the slots whatever
the owners' DQPUSH do (R251, R330). -/
def State.demandsFit (s : State) (t : TileNo) : Bool :=
  let ds := (s.tile t).roll.demands
  ds.all fun d => (s.tile d.tile).qCount 2 + ds.length ≤ (s.tile d.tile).qMin 2
/-- Whether a step waits for the late part of the clock, behind the owners' DQPUSH (R330). -/
def State.afterSlots (s : State) (a : Act) : Bool := !s.late && a.queueRank.isSome && !(a.op = .demandAppend && s.demandsFit a.ev.tile)
/-- The window of a tile as the tasks that leave in this tick leave it. -/
def Tile.staying (u : Tile) : Tile := { u with window := u.window.filter fun k => !(u.exits 0).any fun a => a.ev.id = k.acc }
/-- R183: a task whose release in this tick fails leaves with the others that leave in it, in order of acceptance: it is found first, with the executors
that the leaving tasks free, and its failure is noted. The second answer names the tiles and classes whose release of this tick it was. -/
def State.failReleases (s : State) : State × List (TileNo × Nat) :=
  let pairs := (s.working.filter fun x => !x.2.preemptReq && x.2.window.any fun k => k.st = 1).flatMap fun x => [0, 1, 2, 5].map fun c => (x.1, c)
  let r := pairs.foldl (fun (r : State × State × List (TileNo × Nat)) x =>
    match r.1.pickReady x.1 x.2 (r.1.executorFree x.1) with
    | none => r
    | some k =>
      let y := r.2.1.releaseTask x.1 k
      if y.2 then (r.1.modTask x.1 k.acc fun k => { k with st := 2 }, r.2) else (r.1, y.1, r.2.2 ++ [x]))
    ({ s with tiles := s.tiles.map fun (p : Nat × Tile) => (p.1, p.2.staying) }, s, [])
  r.2
/-- The late part begins (R183): entries come into the queues, tasks leave, those whose release fails among them, tasks are released, units whose
last member has gone retire, cancellations are applied (R23), then the rest. -/
def State.beginLate (s : State) : State :=
  let x := s.doSteals.failReleases
  let s := x.1
  let ws := s.working
  { s with
    late := true, lateQ := [], queueQ := []
    agenda := sortActs (fun a => a.queueRank.getD 0) s.queueQ ++ ws.flatMap (fun x => x.2.exits x.1) ++ (ws.flatMap (fun x => x.2.releases x.1)).filter (fun a => !x.2.contains (a.ev.tile, a.ev.num))
      ++ ws.flatMap (fun x => x.2.retires x.1) ++ s.lateQ
      ++ ws.flatMap (fun x => x.2.lateActs x.1 (s.queueQ.any fun a => a.op = .remotePostArrival && a.ev.tile = x.1))
      ++ (ws.filter fun x => s.sampled x.1).map fun x => { op := .pcSample, ev := { tile := x.1 } : Act } }

/-! ## Accounting (R384, R390) -/

/-- Counts one clock of a tile: events 1, 2 and 3. -/
def State.account (s : State) (x : TileNo × Tile) : State :=
  match s.partOf x.1 with
  | none => s
  | some p =>
    if (s.part p).csel = [] then s
    else
      let s := s.countArg p 1 x.1.toNat 1 fun _ => true
      let s := allStreams.foldl (fun s st =>
        s.countArg p 2 x.1.toNat 1 fun a => a % 32 = (x.2.reason st).toNat && (a / 2 ^ (5 + streamNo st)) % 2 = 1) s
      (List.range 6).foldl (fun s e => if 0 < x.2.inService e then s.countArg p 3 x.1.toNat 1 fun a => a % 8 = e else s) s

/-! ## A tick of a tile (R11 to R16) -/

/-- Writes of the last tick that take effect at this one (R70, R161, R324). -/
def Tile.applyDelayed (u : Tile) : Tile :=
  let u := allStreams.foldl (fun u st =>
    let due := (u.strm st).delayed.filter fun d => match d with
      | .flags _ n => n ≤ u.ttick
      | .sreg _ _ _ n => n ≤ u.ttick
    let u := u.modStrm st fun z => { z with delayed := z.delayed.filter fun d => !due.contains d }
    due.foldl (fun u d => match d with
      | .flags v _ => u.modStrm st fun z => { z with flags := v.setWidth 6 }
      | .sreg n v sel _ => u.writeSreg n v sel) u) u
  { u with
    spill := u.spillPend.foldl (fun m p => (List.range p.2.1).foldl (fun m i => Map.set m (p.1 + i) (p.2.2.extractLsb' (8 * i) 8)) m) u.spill
    ecc := if u.ecc = [] then [] else u.spillPend.foldl (fun m p => (List.range (p.2.1 / 8)).foldl (fun m i => Map.del m (eccSpill (p.1 / 8 + i))) m) u.ecc
    spillPend := [] }
/-- The next tick of a tile. -/
def Tile.nextTick (u : Tile) : Tile :=
  ({ u with ttick := u.ttick + 1, cbs0 := u.cbs, stretched := false, stretchOver := false } : Tile).applyDelayed
/-- A resident unit's tile in a clock: stopped, stretched until its late access is complete, or in its next tick (R16). -/
def Tile.clockUnit (u : Tile) : Tile :=
  if u.preemptReq || (u.stretched && !u.stretchOver) then u
  else if u.lateAt (u.ttick + 1) then { u with stretched := true, stretchOver := false }
  else u.nextTick
/-- The POST that is accepted in this tick (R169). -/
def Tile.postDue (u : Tile) : Option PendingPost := if u.preemptReq then none else u.posts.head?.filter fun p => p.due ≤ u.eclk
/-- The sequence number that a POST gets at its acceptance tick is known as the tick begins: x[xd] is written at that tick, before the slots (R6, R189). -/
def Tile.numberPost (u : Tile) : Tile :=
  match u.postDue with
  | some p => u.modStrm .C fun z =>
    { z with awaits := z.awaits.map fun a => if a.id = p.id then { a with vals := [((nextSeq u.seqCtr).setWidth 64).setWidth 4096], ready := true } else a }
  | none => u
/-- A tile in a clock. -/
def Tile.clock (u : Tile) : Tile :=
  if u.frozen then u
  else
    let u := { u with eclk := u.eclk + 1, dequeEmpty := u.deque = [] }
    if u.unit.isSome then u.clockUnit.numberPost else u
/-- Whether the streams of a tile run in this clock. -/
def Tile.ticking (u : Tile) : Bool := u.unit.isSome && !u.frozen && !u.preemptReq && !u.stretched
/-- The steps with which a tile begins a clock: results land, the number of an accepted POST is written, lines are read, asynchronous traps, the handler, IDLE's time, what waits at its edge. -/
def Tile.tickActs (u : Tile) (t : TileNo) : List Act :=
  let a (op : Instr) (st : Stream) (n : Nat) : Act := { op := op, ev := { tile := t, st := st, num := n } }
  if u.frozen || u.unit.isNone then []
  else
    (if u.edgeWait = [] then [] else [a .delivery .C 1])
      ++ (u.postDue.map fun p => ({ op := .interlockedResult, ev := { tile := t, id := p.id } } : Act)).toList
      ++ if !u.ticking then [] else
        (allStreams.filter fun st => (u.strm st).flights.any fun f => f.land ≤ u.ttick).map (fun st => a .resultLand st 0)
          ++ (if u.fetchQ = [] then [] else [a .lineFetch .C 0])
          ++ (allStreams.filter fun st => (u.strm st).asyncs.any fun x => x.due ≤ u.ttick).map (fun st => a .asyncTrap st 0)
          ++ (if u.nextHeld.isSome then [a .handlerEntry .C 0] else [])
          ++ (if u.idleUntil ≠ 0 && u.idleUntil ≤ u.ttick && !u.idleTimer then [a .idleTimerExpiry .C 0] else [])

/-! ## The next clock -/

/-- Order of an access or arrival among those of its clock: tile, then stream (R63, R79, R158). -/
def State.actKey (s : State) (a : Act) : Nat :=
  match a.op with
  | .barrierArrival => (match Map.find s.msgs a.ev.id with
    | some (.arrival r) => r.tile.toNat * 4 + streamNo r.st
    | _ => 0)
  | .remoteRequest => (match Map.find s.msgs a.ev.id with
    | some (.request r) => r.tile.toNat * 4 + streamNo r.st
    | _ => 0)
  | .rimshotArrival => (match Map.find s.msgs a.ev.id with
    | some (.shot sh _) => sh.origin.toNat
    | _ => 0)
  | _ => a.ev.tile.toNat * 4 + streamNo a.ev.st
/-- The number in order of arrival of a load that waits at its row for full granules (R63). -/
def State.atHome (s : State) (a : Act) : Option Nat :=
  if a.op = .loadPerformed then (s.strmOf a.ev.tile a.ev.st).accs.findSome? fun e => if e.id = a.ev.id then e.atHome else none else none
/-- The steps due in a clock, `ws` tried again and `ts` by their time, in the order of R158, R272, R274 and R377: within one clock what arrives
comes before the timeout it would meet, and row accesses come last, those that wait at their rows in the order in which they came (R63, R79). -/
def State.arrange (s : State) (ws ts : List Act) : List Act :=
  let all := ts ++ ws
  let of (p : Instr → Bool) : List Act := all.filter fun a => p a.op
  let access (i : Instr) : Bool := i = .loadPerformed || i = .storePerformed || i = .remoteRequest
  let special (i : Instr) : Bool :=
    access i || i = .tagPurge || i = .rimshotArrival || i = .orphanTimeout || i = .remoteReply || i = .channelRowAck || i = .transactionTimeout
      || i = .barrierArrival || i = .progressTimeout || i = .colldefTimeout
  of (· = .tagPurge) ++ sortActs s.actKey (of (· = .rimshotArrival)) ++ of (· = .orphanTimeout) ++ of (fun i => i = .remoteReply || i = .channelRowAck)
    ++ of (· = .transactionTimeout) ++ of (fun i => !special i) ++ of (fun i => i = .progressTimeout || i = .colldefTimeout)
    ++ sortActs s.actKey (of (· = .barrierArrival)) ++ sortActs s.actKey ((ws ++ ts).filter fun a => access a.op && (s.atHome a).isNone)
    ++ sortActs (fun a => (s.atHome a).getD 0) ((ws ++ ts).filter fun a => (s.atHome a).isSome)
/-- What expires by the fabric clock: transactions (R377), groups that are being defined (R298), collectives without progress (R307). -/
def State.expiries (s : State) : List Act :=
  (s.txTags.filterMap fun x => match x.2.busy with
    | some r => if r.time + s.tt * 1000 ≤ s.fabric then some { op := .transactionTimeout, ev := { id := x.1, num := x.2.gen.toNat } } else none
    | none => none)
    ++ s.ctxs.flatMap fun c => c.2.groups.flatMap fun g =>
      (if !g.2.live && !g.2.timedOut && g.2.since + gTimeout g.2.desc ≤ s.fabric then [{ op := .colldefTimeout, ev := { id := g.1, num := c.1 } }] else [])
        ++ (g.2.runs.filter fun x => x.running && x.progress + gTimeout g.2.desc ≤ s.fabric).map fun x => { op := .progressTimeout, ev := { tile := x.tile, id := x.acc } }
/-- A tile clock in ns on the fabric clock (R378, R403). -/
def State.nextFabric (s : State) : State :=
  { s with fabric := s.fabric + (s.fabFrac + 1000) / s.mhz, fabFrac := (s.fabFrac + 1000) % s.mhz }
/-- The next clock. -/
def State.nextClock (s : State) : State :=
  let s := s.working.foldl State.account s.balances
  let s := { s.nextFabric with
    clock := s.clock + 1, late := false
    bankUse := s.bankUse.filter fun b => s.clock < b.1, bankWon := s.bankWon.filter fun b => s.clock < b.1
    tiles := s.tiles.map fun (p : Nat × Tile) => (p.1, if p.2.freezeReq then { p.2 with frozen := true, freezeReq := false } else p.2)
    parts := s.parts.map fun (p : Nat × Part) => (p.1, { p.2 with pealRd := p.2.pealRdNext }) }
  let stays (a : Act) : Bool := a.engine && (s.holder a).any fun t => t = a.ev.tile || !unitStep a.op
  let due := s.timers.filter fun x => x.1 ≤ s.clock && !stays x.2
  let rest := (s.timers.filter fun x => !(x.1 ≤ s.clock && !stays x.2)).map fun x => if stays x.2 then (x.1 + 1, x.2) else x
  let again := s.waiters.filter fun a => !stays a
  let s := { s with timers := rest, waiters := s.waiters.filter stays, tiles := s.tiles.map fun (p : Nat × Tile) => (p.1, s.edgeReady p.2.clock) }
  { s with
    agenda := s.arrange again (due.map Prod.snd ++ s.expiries) ++ s.tiles.flatMap fun (p : Nat × Tile) => p.2.tickActs (BitVec.ofNat 8 p.1)
    slots := (s.tiles.filter fun (p : Nat × Tile) => p.2.ticking).flatMap fun p => allStreams.map fun st => (BitVec.ofNat 8 p.1, st) }
/-- Nothing is due and no slot is left: the late part of the clock, or after it the next clock. -/
def State.tick (s : State) : State :=
  if s.late then s.nextClock else s.beginLate

/-! ## What a step performs (log entry 1) -/

/-- A step due now: held at the edge of its frozen tile (R336), left to the late part when it puts an entry into a queue before the owners' slots have
run (R330), or performed with its particulars. -/
def State.takeAct (s : State) (a : Act) : Slot :=
  match s.holder a with
  | some t => .idle (s.modTile t fun u => { u with held := u.held ++ [a] })
  | none =>
    if s.afterSlots a then .idle { s with queueQ := s.queueQ ++ [a] }
    else .run a.op { s with ev := a.ev }
/-- What the machine performs next: the first step due, else the next issue slot of the clock, else the clock goes on. While the device is
held in reset nothing runs, and what comes to it is lost, but for a cold reset (R391). -/
def State.pick (s : State) : Option Slot :=
  match s.agenda with
  | a :: rest => some (if s.inReset && a.op ≠ .coldReset then .idle { s with agenda := rest } else ({ s with agenda := rest } : State).takeAct a)
  | [] => match s.slots with
    | p :: rest => some (State.slot { s with slots := rest, ct := p.1, cs := p.2 })
    | [] => if s.inReset then none else some (.idle s.tick)

end Sys2Proof.Machine
end

