-- ==== Sys2Proof/Machine/Step.lean ====
section
/-! DEFINITION. One step of the machine: the first step due, an issue slot, or the clock (log entry 1); and a state whose next step runs a given
instruction (log entry 10). -/
namespace Sys2Proof.Machine

/-- One step. What it performs is `State.pick`; its meaning is `exec`. -/
def step (s : State) : Host.Outcome State Fault Refusal :=
  match s.pick with
  | some (.run i s') => exec i s'
  | some (.idle s') => .next s'
  | none => .fault .heldInReset

/-- The state with an opcode-table instruction as the next that tile 0 issues (log entry 10). -/
def State.withFetchWord (s : State) (nbits w : Nat) : State :=
  let p := tableWords (w % 2 ^ nbits)
  { s.modTile 0 (fun u => u.ready p.1 p.2) with
    agenda := [], slots := [(0, homeStream (bits p.1 31 24))], inReset := false }

end Sys2Proof.Machine
end

