-- ==== Sys2Proof/Safety.lean ====
section
/-! DEFINITION. What the claims call a safe state, and the conditions under which a stream issues an instruction, as the claims state them. -/
namespace Sys2Proof.Machine

/-- THE INVARIANT: memory is in its canonical form (log entry 2), so that equal memories are equal data. -/
def State.Inv (s : State) : Prop := Mem.wf s.mem = true

/-- The current stream may issue an instruction that is legal on the streams `legal` and names the registers `names`: the stream is legal (R114)
and no named register has its pending bit set or lies in a claimed bank (R15, R72, R116). -/
def State.mayIssue (s : State) (legal : Stream → Bool) (names : List Dest) : Bool := legal s.cs && !names.any s.busy
/-- There is room for one more result in flight, or the result is discarded (R14, R113). -/
def State.hasRoom (s : State) (d : Dest) : Bool := d.discards || decide (s.cur.flights.length < 16)
/-- No exposed-latency result is in flight to a destination of an interlocked result (R116). -/
def State.clearOf (s : State) (ds : List Dest) : Bool := !(s.cur.flights.any fun f => ds.any f.dest.covers)
/-- The current stream is C and runs at privilege 1 (R111, R323). -/
def State.mayPrivileged (s : State) : Bool := onC s.cs && s.cur.priv != 0

/-- Between `s` and `t` nothing changes but tile `n`, and the counter of numbers (the model's own). -/
def State.onlyTile (s t : State) (n : TileNo) : Prop :=
  { t with tiles := s.tiles, nextId := s.nextId } = s ∧ ∀ k, k ≠ n → t.tile k = s.tile k
/-- Between `s` and `t` nothing changes but the current stream, and the counter of numbers. -/
def State.onlyStream (s t : State) : Prop := s.onlyTile t s.ct ∧ t.me.setStrm s.cs s.cur = s.me

/-- A branch to a line that is not in the buffer (R103, R132): the stream awaits the line with its check, and unless that will fail, the branch's
results are in flight. -/
def Strm.awaitsLine (z : Strm) (target : LaneAddr) (after fails : Bool) (fl : List Flight) : Strm :=
  { z with pc := target, check := some ⟨target, after, z.pc, fails⟩, flights := if fails then z.flights else z.flights ++ fl, stall := rISSUED
           waitN := none }
/-- What a branch that goes to `target` leaves (R103, R132): with the target line in the buffer the PC is the target, or behind it for RET, and
the branch's results are in flight; else the line is awaited. Nothing else changes. -/
def State.branchesTo (s t : State) (target : LaneAddr) (after : Bool) (fl : List Flight) : Prop :=
  s.onlyStream t ∧
  match s.cur.buf.map Prod.fst with
  | some n =>
    if n = target.toNat / 8 then
      t.cur = { s.cur with pc := if after then target + 1 else target, flights := s.cur.flights ++ fl, stall := rISSUED, waitN := none }
    else t.cur = s.cur.awaitsLine target after (s.willFail target) fl
  | none => t.cur = s.cur.awaitsLine target after (s.willFail target) fl
/-- The fault of R103 for a target whose line is in the buffer; none when the line is not there yet. -/
def State.targetBad (s : State) (target : LaneAddr) : Option (BitVec 16) :=
  match s.cur.buf with
  | some (n, ws) => if n = target.toNat / 8 then targetFault ws s.cs target else none
  | none => none

/-- No accumulator row of the current tile holds a soft error (R363). -/
def State.accsSound (s : State) : Prop := ∀ r, Map.has s.me.ecc (eccAcc r) = false
/-- An instruction that reads an uncorrectable error (R363): nothing of it lands, and MEM_UNCORRECTABLE is due. -/
def State.losesRead (s : State) (i : Instr) : Prop :=
  ∃ (t : State) (e : Async), exec i s = .next t ∧ t.mem = s.mem ∧ t.cur.flights = s.cur.flights ∧ t.cur.asyncs = s.cur.asyncs ++ [e] ∧ e.code = cMEM_UNCORRECTABLE

/-- A vector instruction completes (R113, R201, R202): its result is one flight to the row that vd names now. Lane `j` of the width `w` that `m`
selects takes the value `f j` gives, the bits of every other lane stay, and the flags are those of the selected lanes. -/
def State.vectorResult (s : State) (i : Instr) (d : Reg) (lat w n : Nat) (m : Nat → Bool) (f : Nat → Nat × Flags) : Prop :=
  ∃ (data bits : VRow) (fl : Flags), exec i s = .next (s.result (.acc (s.accRow d)) lat data bits fl).advance
    ∧ (∀ j, j < n → m j = true → laneBits data w j = (f j).1 % 2 ^ w ∧ laneBits bits w j = 2 ^ w - 1)
    ∧ (∀ j, j < n → m j = false → laneBits bits w j = 0)
    ∧ ∀ b, b < 6 → (fl.getLsbD b = true ↔ ∃ j, j < n ∧ m j = true ∧ (f j).2.getLsbD b = true)

/-- An instruction that a stream issues from a line, as against a step of the hardware, of the host or of the management processor. -/
def isIssued (i : Instr) : Bool := (encode i).isSome || match i with | .illegalOpcode _ => true | _ => false

/-- A register word names `n` rows of the issuing tile's slice that it may access (R186). -/
def State.recordAddr (s : State) (w : Word) (n : Nat) : Prop :=
  let a := w.toNat % 2 ^ 32
  a % 64 = 0 ∧ keyTile a = s.ct ∧ keyTile (a + 64 * (n - 1)) = s.ct ∧ ∀ j, j < n → s.sFault s.ct (a + 64 * j) = none
/-- And these rows read as `rs`: no channel bars them, no atomic of the stream on them is outstanding, and they hold no soft error. -/
def State.recordRows (s : State) (w : Word) (rs : List Row) : Prop :=
  s.recordAddr w rs.length ∧ ∀ j, j < rs.length →
    let k := w.toNat % 2 ^ 32 + 64 * j
    s.chanGate k = .free ∧ s.ownRow k = rs[j]? ∧ Map.find s.ecc k = none

/-- A mailbox command is a machine request (`none`), or one of formed partition `p` with its credential (R400, R402). -/
def State.mailFor (s : State) (p : Option Nat) : Prop :=
  s.recovery = false ∧ match p with
  | none => s.ev.num = 1
  | some p => s.ev.num ≠ 1 ∧ s.ide = true ∧ s.ev.caller.part.toNat = p ∧ p < 8 ∧ (s.part p).formed = true ∧ (s.part p).cred = s.ev.caller.cred

end Sys2Proof.Machine
end

