-- ==== Sys2Proof/Certificates/Slice0/Obligations.lean ====
section
/-! DEFINITION. The statements for the provers. Each docstring names the rules of spec/ that the statement formalises. -/
open Sys2Proof Sys2Proof.Machine

/-- R126, R127: on a stream that may issue it and with room for its result, each of these completes: its result, one flight of the latency of
R115 to x[rd], is the value of the tables of R126 and R127, and the stream goes on. -/
def Obligations.ScalarArithmetic : Prop :=
  ∀ (s : State) (d a b c : Reg) (i : BitVec 14) (k : BitVec 6),
    s.mayIssue onAll [.x d, .x a, .x b, .x c] = true → s.hasRoom (.x d) = true →
    let x := s.x a
    let y := s.x b
    let z := s.x c
    let r (lat : Nat) (w : Word) : Out := .next (s.setX d lat w).advance
    exec (.add d a b) s = r 1 (x + y) ∧ exec (.sub d a b) s = r 1 (x - y) ∧ exec (.mul d a b) s = r 3 (x * y)
      ∧ exec (.mulh d a b) s = r 3 ((x.signExtend 128 * y.signExtend 128).extractLsb' 64 64)
      ∧ exec (.mulhu d a b) s = r 3 ((x.setWidth 128 * y.setWidth 128).extractLsb' 64 64)
      ∧ exec (.and d a b) s = r 1 (x &&& y) ∧ exec (.or d a b) s = r 1 (x ||| y) ∧ exec (.xor d a b) s = r 1 (x ^^^ y)
      ∧ exec (.andn d a b) s = r 1 (x &&& ~~~y)
      ∧ exec (.shl d a b) s = r 1 (x <<< (y.toNat % 64)) ∧ exec (.shr d a b) s = r 1 (x >>> (y.toNat % 64))
      ∧ exec (.sar d a b) s = r 1 (x.sshiftRight (y.toNat % 64)) ∧ exec (.rotr d a b) s = r 1 (x.rotateRight (y.toNat % 64))
      ∧ exec (.min d a b) s = r 1 (if x.toInt ≤ y.toInt then x else y) ∧ exec (.max d a b) s = r 1 (if x.toInt ≤ y.toInt then y else x)
      ∧ exec (.minu d a b) s = r 1 (if x.toNat ≤ y.toNat then x else y) ∧ exec (.maxu d a b) s = r 1 (if x.toNat ≤ y.toNat then y else x)
      ∧ exec (.slt d a b) s = r 1 (if x.toInt < y.toInt then 1 else 0) ∧ exec (.sltu d a b) s = r 1 (if x.toNat < y.toNat then 1 else 0)
      ∧ exec (.seq d a b) s = r 1 (if x = y then 1 else 0)
      ∧ exec (.sel d a b c) s = r 1 (if z = 0 then y else x) ∧ exec (.mad d a b c) s = r 3 (x * y + z)
      ∧ exec (.addi d a i) s = r 1 (x + i.signExtend 64) ∧ exec (.muli d a i) s = r 3 (x * i.signExtend 64)
      ∧ exec (.andi d a i) s = r 1 (x &&& i.signExtend 64) ∧ exec (.ori d a i) s = r 1 (x ||| i.signExtend 64)
      ∧ exec (.xori d a i) s = r 1 (x ^^^ i.signExtend 64)
      ∧ exec (.shli d a k) s = r 1 (x <<< k.toNat) ∧ exec (.shri d a k) s = r 1 (x >>> k.toNat)
      ∧ exec (.sari d a k) s = r 1 (x.sshiftRight k.toNat) ∧ exec (.rotri d a k) s = r 1 (x.rotateRight k.toNat)
      ∧ exec (.slti d a i) s = r 1 (if x.toInt < i.toInt then 1 else 0)

/-- R46, R126: DIV, DIVU, REM and REMU complete with latency 18. Division by zero gives a quotient of all ones and the dividend as remainder; the most negative value by -1
gives itself and 0; otherwise the quotient truncates toward zero and quotient times divisor plus remainder is the dividend, the remainder smaller in magnitude than the
divisor and with the dividend's sign. R126: CLZ, CTZ and POPC complete with latency 1: the number of zeros above the highest one, below the lowest one, 64 when there is
none, and the number of ones. R128 to R130: LUI, LIT, BFX and BFI complete with latency 1. A field control word gives pos = c[5:0] and len = min(c[12:6], 64 - pos); BFX
gives 0 for length 0 and otherwise the field, zero- or sign-extended; BFI puts the low bits of the second operand into the first. -/
def Obligations.DivisionCountsAndFields : Prop :=
  (∀ (s : State) (d a b : Reg), s.mayIssue onAll [.x d, .x a, .x b] = true → s.hasRoom (.x d) = true →
    let x := s.x a
    let y := s.x b
    ∃ q r uq ur : Word,
      exec (.div d a b) s = .next (s.setX d 18 q).advance ∧ exec (.rem d a b) s = .next (s.setX d 18 r).advance
      ∧ exec (.divu d a b) s = .next (s.setX d 18 uq).advance ∧ exec (.remu d a b) s = .next (s.setX d 18 ur).advance
      ∧ (y = 0 → q = BitVec.allOnes 64 ∧ r = x ∧ uq = BitVec.allOnes 64 ∧ ur = x)
      ∧ (x = BitVec.intMin 64 → y = BitVec.allOnes 64 → q = x ∧ r = 0)
      ∧ (y ≠ 0 → uq.toNat * y.toNat + ur.toNat = x.toNat ∧ ur.toNat < y.toNat)
      ∧ (y ≠ 0 → ¬(x = BitVec.intMin 64 ∧ y = BitVec.allOnes 64) →
          q.toInt * y.toInt + r.toInt = x.toInt ∧ r.toInt.natAbs < y.toInt.natAbs ∧ (0 ≤ x.toInt → 0 ≤ r.toInt) ∧ (x.toInt ≤ 0 → r.toInt ≤ 0)))
    ∧ (∀ (s : State) (d a : Reg), s.mayIssue onAll [.x d, .x a] = true → s.hasRoom (.x d) = true →
    let x := s.x a
    ∃ l t p : Nat,
      exec (.clz d a) s = .next (s.setX d 1 (BitVec.ofNat 64 l)).advance ∧ exec (.ctz d a) s = .next (s.setX d 1 (BitVec.ofNat 64 t)).advance
      ∧ exec (.popc d a) s = .next (s.setX d 1 (BitVec.ofNat 64 p)).advance
      ∧ l ≤ 64 ∧ (∀ j, j < l → x.getLsbD (63 - j) = false) ∧ (l < 64 → x.getLsbD (63 - l) = true)
      ∧ t ≤ 64 ∧ (∀ j, j < t → x.getLsbD j = false) ∧ (t < 64 → x.getLsbD t = true)
      ∧ p = (List.range 64).countP fun j => x.getLsbD j)
    ∧ (∀ (s : State) (d a b c : Reg) (u : BitVec 19) (l0 l1 : Lane) (z : Bool),
    s.mayIssue onAll [.x d, .x a, .x b, .x c] = true → s.hasRoom (.x d) = true →
    let r (w : Word) : Out := .next (s.setX d 1 w).advance
    let pos (w : Word) : Nat := w.toNat % 64
    let len (w : Word) : Nat := Nat.min (w.toNat / 64 % 128) (64 - pos w)
    exec (.lui d u) s = r (u.signExtend 64 <<< 13)
      ∧ exec (.lit d true l0 none) s = r (l0.setWidth 64) ∧ exec (.lit d false l0 none) s = r (l0.signExtend 64)
      ∧ exec (.lit d z l0 (some l1)) s = r (l1 ++ l0)
      ∧ (∃ w : Word, exec (.bfx d a b z) s = r w ∧ ∀ j, j < 64 →
          w.getLsbD j = if j < len (s.x b) then (s.x a).getLsbD (pos (s.x b) + j)
            else z && 0 < len (s.x b) && (s.x a).getLsbD (pos (s.x b) + len (s.x b) - 1))
      ∧ (∃ w : Word, exec (.bfi d a b c) s = r w ∧ ∀ j, j < 64 →
          w.getLsbD j = if pos (s.x c) ≤ j ∧ j < pos (s.x c) + len (s.x c) then (s.x b).getLsbD (j - pos (s.x c)) else (s.x a).getLsbD j))

/-- R12, R102, R113, R115: what those results and `advance` are. A result to a register other than x0 is one more flight, landing `lat` ticks
after the current one; a result to x0 is discarded. The stream then goes on behind the instruction, or under REP to its next repetition, and
nothing else of the machine changes. -/
def Obligations.ResultAndAdvance : Prop :=
  ∀ (s : State) (d : Reg) (lat : Nat) (w : Word),
    let t := (s.setX d lat w).advance
    let fl : List Flight := if d = 0 then [] else
      [{ id := s.nextId, dest := .x d, data := w.setWidth 4096, bits := BitVec.allOnes 4096, land := s.now + lat, flags := 0, lane := s.cur.pc }]
    s.onlyStream t ∧ t.nextId = s.nextId + 1
      ∧ ∃ pc' rep', t.cur = { s.cur with pc := pc', rep := rep', flights := s.cur.flights ++ fl, stall := rISSUED, waitN := none, issuedWait := none, gHold := none }
          ∧ (s.cur.rep = none → pc' = s.cur.pc + 1 ∧ rep' = none)
          ∧ ∀ p, s.cur.rep = some p →
              (p.idx + 1 < p.count → pc' = s.cur.pc ∧ rep' = some { p with idx := p.idx + 1 }) ∧ (p.count ≤ p.idx + 1 → pc' = s.cur.pc + 1 ∧ rep' = none)

/-- R131, R132: a conditional branch reads its registers and goes on behind itself, or to its target, as its condition says; a target in the buffered line that is no
instruction of the stream traps, and the branch has no other effect (R103). R103, R133 to R135: J, CALL, RET and LOOP. CALL's link is x31, LOOP's counter the register
less 1, each landing at the next tick; LOOP branches while the counter is not 0; RET goes on behind the lane that its register names. A target in the buffered line that
is no instruction of the stream traps, with the branch's own lane recorded and the target as fault address; the branch then has no effect: no link and no counter is
written. -/
def Obligations.BranchesAndLoops : Prop :=
  (∀ (s : State) (a b : Reg) (o : BitVec 14), s.mayIssue onAll [.x a, .x b] = true →
    let x := s.x a
    let y := s.x b
    let target := s.cur.pc + o.signExtend 16
    let arm (i : Instr) (taken : Prop) : Prop :=
      (¬ taken → exec i s = .next s.advance)
        ∧ (taken → s.targetBad target = none → ∃ t, exec i s = .next t ∧ s.branchesTo t target false [])
        ∧ ∀ c, taken → s.targetBad target = some c → exec i s = .next (s.takeTrap s.ct s.cs c s.cur.pc (target.setWidth 64) 0 false false)
    arm (.beq a b o) (x = y) ∧ arm (.bne a b o) (x ≠ y) ∧ arm (.blt a b o) (x.toInt < y.toInt) ∧ arm (.bge a b o) (y.toInt ≤ x.toInt)
      ∧ arm (.bltu a b o) (x.toNat < y.toNat) ∧ arm (.bgeu a b o) (y.toNat ≤ x.toNat))
    ∧ (∀ (s : State) (a : Reg) (o : BitVec 24) (p : BitVec 14),
    let link (d : Reg) (w : Word) : List Flight := [{ id := s.nextId, dest := .x d, data := w.setWidth 4096, land := s.now + 1, lane := s.cur.pc }]
    let goes (i : Instr) (target : LaneAddr) (after : Bool) (fl : List Flight) : Prop :=
      (s.targetBad target = none → ∃ t, exec i s = .next t ∧ s.branchesTo t target after fl)
        ∧ ∀ c, s.targetBad target = some c → ∃ n, exec i s =
            .next (({ s with nextId := n } : State).takeTrap s.ct s.cs c s.cur.pc (target.setWidth 64) 0 false false)
    (s.mayIssue onAll [] = true → goes (.j o) (s.cur.pc + o.setWidth 16) false [])
      ∧ (s.mayIssue onAll [.x 31] = true → s.hasRoom (.x 31) = true → goes (.call o) (s.cur.pc + o.setWidth 16) false (link 31 (s.cur.pc.setWidth 64)))
      ∧ (s.mayIssue onAll [.x a] = true → goes (.ret a) ((s.x a).setWidth 16) true [])
      ∧ (s.mayIssue onAll [.x a] = true → s.hasRoom (.x a) = true →
          (s.x a ≠ 1 → goes (.loop a p) (s.cur.pc + p.signExtend 16) false (link a (s.x a - 1)))
            ∧ (s.x a = 1 → exec (.loop a p) s = .next (s.setX a 1 0).advance)))

/-- R137: REP reads its count from the register, or from icnt with x0, and a count above 65,535 is ILLEGAL_USE; it then stands before the body. R140: NOP has no effect. R141,
R337: TRAP and BRK take their traps, with the lane and the code recorded and the return behind them; with halt-on-break set BRK freezes the tile and raises no trap. -/
def Obligations.RepNopTrapAndBreak : Prop :=
  (∀ (s : State) (c : BitVec 5) (a : Reg) (k : BitVec 6) (s2 s1 sd : Bool), s.mayIssue onAll [.x a] = true →
    let n := if a = 0 then c.toNat else (s.x a).toNat
    (n ≤ 65535 → ∃ t, exec (.rep c a k s2 s1 sd) s = .next t ∧ s.onlyStream t
        ∧ t.cur = { s.advance.cur with rep := some { count := n, idx := 0, istep := k, s2 := s2, s1 := s1, sd := sd } })
      ∧ (65535 < n → exec (.rep c a k s2 s1 sd) s = .next (s.takeTrap s.ct s.cs cILLEGAL_USE s.cur.pc (s.cur.pc.setWidth 64) 0 false false))
      ∧ exec .nop s = .next s.advance)
    ∧ (∀ (s : State) (i : BitVec 19), s.mayIssue onAll [] = true →
    let trap (c : BitVec 16) : Out := .next (s.takeTrap s.ct s.cs c s.cur.pc (s.cur.pc.setWidth 64) (i.setWidth 64) true false)
    exec (.trap i) s = trap cUSER_TRAP
      ∧ (s.me.haltBrk = false → exec (.brk i) s = trap cBREAKPOINT)
      ∧ (s.me.haltBrk = true → ∃ t, exec (.brk i) s = .next t ∧ t.me.freezeReq = true ∧ t.cur = s.cur ∧ t.mem = s.mem))

/-- R117, R354 to R357: TAKING A TRAP of a stream that is not C in its handler. The stream is held; its frame is valid and records the cause, the lane, the fault address,
TINFO, RESUMENEXT, the privilege, REP, every result in flight and every asynchronous fault that is still to come; the stream's registers and FLAGS and all of memory are
as before, and every other tile is; the error is reported. R357: a trap of C in its handler is a double fault: TINFO holds the new code in [15:0] and the old cause in
[31:16], and the unit stops; so it does when the image names no handler, or C has ended. -/
def Obligations.TrapTaken : Prop :=
  (∀ (s : State) (t : TileNo) (st : Stream) (code : BitVec 16) (lane : LaneAddr) (addr info : Word) (next async : Bool),
    ¬(st = .C ∧ (s.strmOf t st).priv ≠ 0) → (s.tile t).tvec ≠ 0xFFFF → (s.tile t).c.mode = .running ∨ (s.tile t).c.mode = .held →
    let z := s.strmOf t st
    let s' := s.takeTrap t st code lane addr info next async
    let z' := s'.strmOf t st
    z'.mode = .held ∧ z'.pc = lane ∧ z'.flights = [] ∧ z'.rep = none ∧ z'.x = z.x ∧ z'.q = z.q ∧ z'.flags = z.flags ∧ z'.priv = z.priv
      ∧ z'.frame = { z.frame with valid := true, ppriv := z.priv, resumeNext := next, rep := z.rep, async := async, cause := code, tpc := lane
                                  taddr := addr, tinfo := info, flights := z.flights, asyncs := z.asyncs.filter fun a => (s.tile t).ttick < a.due, stopTick := (s.tile t).ttick }
      ∧ s'.mem = s.mem ∧ (∀ k, k ≠ t → s'.tile k = s.tile k) ∧ (∀ k, k ≠ st → s'.strmOf t k = s.strmOf t k)
      ∧ s'.reports = s.reports ++ [{ code := code, info := t.toNat : Report }])
    ∧ (∀ (s : State) (t : TileNo) (st : Stream) (code : BitVec 16) (lane : LaneAddr) (addr info : Word) (next async : Bool),
    let z := s.strmOf t st
    let s' := s.takeTrap t st code lane addr info next async
    (st = .C → z.priv ≠ 0 →
        (s'.strmOf t st).frame.cause = cDOUBLE_FAULT
          ∧ (s'.strmOf t st).frame.tinfo = code.setWidth 64 ||| (z.frame.cause.setWidth 64 <<< 16)
          ∧ (s'.strmOf t st).frame.flights = z.frame.flights)
      ∧ ((st = .C ∧ z.priv ≠ 0) ∨ (s.tile t).tvec = 0xFFFF ∨ (s.tile t).c.mode = .ended ∨ (s.tile t).c.mode = .noEntry →
          (∀ k, (s'.strmOf t k).mode = .ended ∨ (s'.strmOf t k).mode = .noEntry)
            ∧ s'.lateQ = s.lateQ ++ [{ op := .cancelStop, ev := { tile := t } }] ∧ ∀ r, (s'.tile t).unit = some r → r.failed = true))

/-- R355, R356: HANDLER_ENTRY. In a tick in which C may enter for a held stream, and C has not ended, C runs at the trap vector with privilege 1, and the other streams are as
they were. When C itself runs, its frame records cause ENTRY with its results in flight and the asynchronous faults still to come; when C is held by its own trap, its
frame stays that trap's. R359: RFE outside a handler and RFE.K there are ILLEGAL_USE; RFE waits until the handled stream's frame is written (log entry 65), and takes the
fault of R103 when its TPC is no target. Else the handled stream runs again, at TPC or behind it with RESUMENEXT, at the privilege its frame saved, with the saved results
landing as many ticks after the next tick as they had left when it stopped; its registers, FLAGS and all of memory are as before. C returns to the privilege of its frame,
and is held again when its own trap still waits. Two clauses are the model's own choice: that RESUMENEXT ends a REP and a TPC that the handler has changed keeps it (log
entry 16, DESIGN CHOICE), and the fault of a TPC at a lane with a reserved nibble (log entry 11, DESIGN CHOICE). -/
def Obligations.HandlerEntryAndReturn : Prop :=
  (∀ (s : State) (st : Stream), (s.tile s.ev.tile).mayEnter = some st →
    let u := s.tile s.ev.tile
    u.c.mode = .running ∨ u.c.mode = .held →
    ∃ t, exec .handlerEntry s = .next t ∧ s.onlyTile t s.ev.tile
      ∧ let u' := t.tile s.ev.tile
        u'.handling = some st ∧ u'.c.mode = .running ∧ u'.c.pc = u.tvec ∧ u'.c.priv = 1 ∧ u'.c.rep = none
          ∧ u'.c.x = u.c.x ∧ u'.c.q = u.c.q ∧ u'.c.flags = u.c.flags ∧ u'.v = u.v ∧ u'.f = u.f
          ∧ (u.c.mode = .held → u'.c.frame = u.c.frame ∧ u'.c.flights = u.c.flights)
          ∧ (u.c.mode = .running → u'.c.flights = [] ∧ u'.c.frame.valid = true ∧ u'.c.frame.cause = cENTRY ∧ u'.c.frame.ppriv = u.c.priv ∧ u'.c.frame.flights = u.c.flights
            ∧ u'.c.frame.asyncs = u.c.asyncs.filter fun a => u.ttick < a.due))
    ∧ (∀ (s : State) (st : Stream), s.mayPrivileged = true → s.me.handling = some st →
    let u := s.me
    let fr := (u.strm st).frame
    ((u.strm st).framed = false → exec .rfe s = s.stall rINTERLOCK)
    ∧ (∀ c, (u.strm st).framed = true → targetFault (u.line (fr.tpc.toNat / 8)) st fr.tpc = some c →
        exec .rfe s = .next (s.takeTrap s.ct s.cs c s.cur.pc (fr.tpc.setWidth 64) 0 false false))
    ∧ (∀ s' : State, s'.mayPrivileged = true → s'.me.handling = none → ∀ i, i ∈ [Instr.rfe, .rfeK] →
        exec i s' = .next (s'.takeTrap s'.ct s'.cs cILLEGAL_USE s'.cur.pc (s'.cur.pc.setWidth 64) 0 false false))
    ∧ ((u.strm st).framed = true → targetFault (u.line (fr.tpc.toNat / 8)) st fr.tpc = none →
    ∃ t, exec .rfe s = .next t ∧ t.mem = s.mem ∧ (∀ k, k ≠ s.ct → t.tile k = s.tile k)
      ∧ let z := t.me.strm st
        t.me.handling = none ∧ z.mode = .running ∧ z.frame.valid = false ∧ z.priv = fr.ppriv
          ∧ (fr.resumeNext = true → z.pc = fr.tpc + 1 ∧ z.rep = none) ∧ (fr.resumeNext = false → z.pc = fr.tpc ∧ z.rep = fr.rep)
          ∧ z.x = (u.strm st).x ∧ z.q = (u.strm st).q ∧ z.flags = (u.strm st).flags
          ∧ z.flights = (u.strm st).flights ++ fr.flights.map (fun f => { f with land := u.ttick + 1 + (f.land - fr.stopTick) })
          ∧ z.asyncs = (u.strm st).asyncs ++ fr.asyncs.map (fun a => { a with due := u.ttick + 1 + (a.due - fr.stopTick) })
          ∧ t.me.c.priv = u.c.frame.ppriv ∧ (st = .C ∨ u.c.ownTrap = false → t.me.c.frame.valid = false)
          ∧ (st ≠ .C → u.c.ownTrap = true → t.me.c.mode = .held ∧ t.me.c.frame = u.c.frame)))

/-- R323, R324, R357, R359: the other privileged instructions. SRR answers a listed register; SRW changes a register of TSEL's frame from the next tick; both wait while that
frame is not yet written (log entry 65), and an unlisted number is ILLEGAL_USE; WAKE is sent to a tile of the partition, and any other tile is PARTITION; RFE.K fails the
unit; IDLE ends when a cause holds and then answers the causes, and waits when none does. At privilege 0 each of them takes PRIVILEGE. R18, R286, R324, R363: the steps of
the trap hardware. An asynchronous fault that is due takes its trap; a wake sets the tile's wake; the time that IDLE waits for comes. -/
def Obligations.SupervisorAndTrapSteps : Prop :=
  (∀ (s : State) (d a : Reg) (i : BitVec 14),
    (s.mayPrivileged = true →
      (s.mayIssue onC [.x d] = true → s.clearOf [.x d] = true → s.frameBusy i.toNat = false → ∀ w, s.sreg i.toNat = some w →
          exec (.srr d i) s = .next (s.answer d w).advance)
        ∧ (s.mayIssue onC [.x a] = true → (s.sreg i.toNat).isSome = true → s.frameBusy i.toNat = false → i ≠ 6 → exec (.srw a i) s = .next
            (s.modCur fun z => { z with delayed := z.delayed ++ [.sreg i.toNat (s.x a) s.me.tsel.toNat (s.now + 1)] }).advance)
        ∧ (s.mayIssue onC [.x a] = true → s.partOf ((s.x a).setWidth 8) = s.partOf s.ct →
            exec (.srw a 6) s = .next (s.later { op := .wake, ev := { tile := (s.x a).setWidth 8 } }).advance)
        ∧ (s.mayIssue onC [.x a, .x d] = true → s.clearOf [.x d] = true → (s.sreg i.toNat).isSome = true → s.frameBusy i.toNat = true →
            exec (.srr d i) s = s.stall rINTERLOCK ∧ exec (.srw a i) s = s.stall rINTERLOCK)
        ∧ (s.mayIssue onC [.x a] = true → s.partOf ((s.x a).setWidth 8) ≠ s.partOf s.ct → exec (.srw a 6) s = s.trap cPARTITION)
        ∧ (s.mayIssue onC [.x a, .x d] = true → s.clearOf [.x d] = true → s.sreg i.toNat = none → exec (.srr d i) s = s.trap cILLEGAL_USE ∧ exec (.srw a i) s = s.trap cILLEGAL_USE)
        ∧ (s.mayIssue onC [.x a, .x d] = true → s.clearOf [.x d] = true → s.me.woken = false → ¬(s.x a ≠ 0 ∧ (s.x a).toNat ≤ s.now) → s.cur.waitN = none → ∃ t : State,
            exec (.idle d a) s = .next t ∧ t.cur = { s.cur with waitN := some idleMark, stall := rSLEEP } ∧ t.me.idleUntil = (s.x a).toNat ∧ t.mem = s.mem)
        ∧ (s.me.handling ≠ none → exec .rfeK s = .next (s.failUnit s.ct))
        ∧ (s.mayIssue onC [.x a, .x d] = true → s.clearOf [.x d] = true →
            (s.me.woken = true ∨ (s.x a ≠ 0 ∧ (s.x a).toNat ≤ s.now)) →
            ∃ (t : State) (w : Word), exec (.idle d a) s = .next (t.answer d w).advance ∧ w ≠ 0 ∧ w.getLsbD 1 = s.me.woken ∧ t.me.woken = false
              ∧ (s.x a ≠ 0 → (s.x a).toNat ≤ s.now → w.getLsbD 0 = true)))
      ∧ (s.cs = .C → s.cur.priv = 0 → ∀ i', i' ∈ [Instr.rfe, .rfeK, .srr d i, .srw a i, .idle d a] →
          exec i' s = .next (s.takeTrap s.ct s.cs cPRIVILEGE s.cur.pc (s.cur.pc.setWidth 64) 0 false false)))
    ∧ (∀ (s : State),
    let u := s.tile s.ev.tile
    let z := s.strmOf s.ev.tile s.ev.st
    (∀ x, z.asyncs.find? (fun x => x.due ≤ u.ttick) = some x → z.mode = .running → u.preemptReq = false → u.stretched = false →
        ∃ lane, exec .asyncTrap s = .next ((s.modStrmOf s.ev.tile s.ev.st fun z => { z.abandon with asyncs := z.asyncs.erase x }).takeTrap
          s.ev.tile s.ev.st x.code lane x.addr x.info false true))
      ∧ (∃ t, exec .wake s = .next t ∧ s.onlyTile t s.ev.tile ∧ t.tile s.ev.tile = { u with woken := true })
      ∧ (u.idleUntil ≠ 0 → u.idleUntil ≤ u.ttick → u.c.waitN = some idleMark →
          ∃ t, exec .idleTimerExpiry s = .next t ∧ s.onlyTile t s.ev.tile ∧ t.tile s.ev.tile = { u with idleTimer := true }))

/-- R145: QEXT, QINS, QMOV and QROTM complete with latency 1: word k of the source, the row with word k replaced, the row, and the 64 bytes that begin at byte x[xs][5:0] of
the two rows laid end to end. R70, R146, R147, R82, R84, R154, R363: without a soft error in the word they read, LDS reads the eight bytes of its slot with latency 1,
STS's store is visible to the loads of the next tick; LDC reads a constant word with latency 2, and an index outside 0 to 16,383 is ILLEGAL_USE; a word with an
uncorrectable error lands nowhere and gives MEM_UNCORRECTABLE; MARK and FENCE go on when their conditions hold and else hold the stream. -/
def Obligations.RowRegistersSpillAndFences : Prop :=
  (∀ (s : State) (d : Reg) (e q r : QReg) (a b : Reg) (k : BitVec 3), s.mayIssue onCF [.x d, .q e, .q q, .q r, .x a, .x b] = true →
    (s.hasRoom (.x d) = true → exec (.qext d q k) s = .next (s.setX d 1 ((s.q q).extractLsb' (64 * k.toNat) 64)).advance
        ∧ exec (.qextX d q b) s = .next (s.setX d 1 ((s.q q).extractLsb' (64 * ((s.x b).toNat % 8)) 64)).advance)
      ∧ (s.hasRoom (.q e) = true →
          (∃ w : Row, exec (.qins e a k) s = .next (s.setQ e 1 w).advance
            ∧ ∀ j, j < 8 → w.extractLsb' (64 * j) 64 = if j = k.toNat then s.x a else (s.q e).extractLsb' (64 * j) 64)
          ∧ (∃ w : Row, exec (.qinsX e a b) s = .next (s.setQ e 1 w).advance
            ∧ ∀ j, j < 8 → w.extractLsb' (64 * j) 64 = if j = (s.x b).toNat % 8 then s.x a else (s.q e).extractLsb' (64 * j) 64)
          ∧ exec (.qmov e q) s = .next (s.setQ e 1 (s.q q)).advance
          ∧ (∃ w : Row, exec (.qrotm e q r a) s = .next (s.setQ e 1 w).advance ∧ ∀ j, j < 64 →
              w.extractLsb' (8 * j) 8 = if (s.x a).toNat % 64 + j < 64 then (s.q q).extractLsb' (8 * ((s.x a).toNat % 64 + j)) 8
                else (s.q r).extractLsb' (8 * ((s.x a).toNat % 64 + j - 64)) 8)))
    ∧ (∀ (s : State) (d a : Reg) (i : BitVec 14) (c : BitVec 3),
    (s.mayIssue onCF [.x d] = true → s.hasRoom (.x d) = true → Map.find s.me.ecc (eccSpill i.toNat) = some true → s.losesRead (.lds d i))
      ∧ (s.mayIssue onCF [.x d] = true → s.hasRoom (.x d) = true → Map.find s.me.ecc (eccSpill i.toNat) = none →
        exec (.lds d i) s = .next (s.setX d 1 (BitVec.ofNat 64 (Mem.readN s.me.spill (8 * i.toNat) 8))).advance)
      ∧ (s.mayIssue onCF [.x a] = true → exec (.sts a i) s = .next
          (s.modMe fun u => { u with spillPend := u.spillPend ++ [(8 * i.toNat, 8, (s.x a).setWidth 4096)] }).advance)
      ∧ (s.mayIssue onCF [.x d, .x a] = true → s.hasRoom (.x d) = true →
          let k := (s.x a + i.signExtend 64).toInt
          (0 ≤ k → k ≤ 16383 → Map.find s.me.ecc (eccConst k.toNat) = some true → s.losesRead (.ldc d a i))
            ∧ (0 ≤ k → k ≤ 16383 → Map.find s.me.ecc (eccConst k.toNat) = none → exec (.ldc d a i) s = .next (s.setX d 2 ((Map.get 0 s.me.cbank k.toNat).setWidth 64)).advance)
            ∧ (k < 0 ∨ 16383 < k → exec (.ldc d a i) s = s.trap cILLEGAL_USE))
      ∧ (s.mayIssue onAll [] = true →
          (s.cur.accs.all Access.markOk = true → exec .mark s = .next s.advance) ∧ (s.cur.accs.all Access.markOk = false → exec .mark s = s.stall rMARK)
            ∧ ((s.cur.accs.all fun e => e.fenceOk s.ct c.toNat) = true → (c = 6 → s.cur.naOut = [] ∧ s.cur.remoteOut = []) → exec (.fence c) s = .next s.advance)
            ∧ ((s.cur.accs.all fun e => e.fenceOk s.ct c.toNat) = true → c = 6 → s.cur.naOut ≠ [] ∨ s.cur.remoteOut ≠ [] →
                exec (.fence c) s = s.stall rREMOTE_ACK)
            ∧ ((s.cur.accs.all fun e => e.fenceOk s.ct c.toNat) = false → exec (.fence c) s = s.stall rFENCE)))

/-- R12, R17, R142, R144: LDQ. A row of the tile's own slice lands after 4 ticks, one of the cluster after 8, any other is interlocked; the load enters the stream's queue and
is performed later: a fixed-latency one comes to its bank in the last clock before it lands, a peer's row by a free time later (log entry 57); memory is as before. R63,
R143: LDQ.W and LDQ.WC. The instruction waits with an interlocked load in the queue, which lands no earlier than LDQ's result would; once that load has been performed the
stream goes on. -/
def Obligations.RowLoads : Prop :=
  (∀ (s : State) (q : QReg) (m : BitVec 3) (b : Reg) (i : BitVec 13) (ql : Option Qual) (a : Nat),
    s.mayIssue onCF (.q q :: baseNames m b) = true → s.rowAddr m b i = .ok a → s.chanGate a = .free →
    let acc : Access := { key := a, ownDie := s.ownDie a, acq := qualAcq ql, addr := BitVec.ofNat 64 a }
    let sent : Access := { acc with id := s.nextId + 1, lane := s.cur.pc, sink := some s.nextId }
    let by_ (c : Nat) : Nat × Act := (c, { op := .loadPerformed, ev := { tile := s.ct, st := s.cs, id := s.nextId + 1 } })
    let fixed (lat : Nat) : Prop :=
      s.cur.flights.length < 16 → s.mayNow lat acc = true → ∃ t, exec (.ldq q m b i ql) s = .next t ∧ t.mem = s.mem
        ∧ t.cur = { s.advance.cur with
                    flights := s.cur.flights ++ [{ id := s.nextId, dest := .q q, land := s.now + lat, lane := s.cur.pc, loads := [s.nextId + 1] }]
                    accs := s.cur.accs ++ [{ sent with due := some (s.clock + lat - 1) }] }
        ∧ ∃ late, t.timers = s.timers ++ [by_ (s.clock + lat - 1 + late)] ∧ (keyTile a = s.ct → late = 0)
    (keyTile a = s.ct → fixed 4)
      ∧ (keyTile a ≠ s.ct → clusterOf (keyTile a) = clusterOf s.ct → fixed 8)
      ∧ (clusterOf (keyTile a) ≠ clusterOf s.ct → (∀ f, f ∈ s.cur.flights → f.dest ≠ .q q) → ∃ t, exec (.ldq q m b i ql) s = .next t ∧ t.mem = s.mem
          ∧ t.cur = { s.advance.cur with
                      pending := s.cur.pending ++ [.q q]
                      awaits := s.cur.awaits ++ [{ id := s.nextId, dests := [.q q], loads := [s.nextId + 1], isLoad := true, lane := s.cur.pc, addr := BitVec.ofNat 64 a }]
                      accs := s.cur.accs ++ [sent] }
          ∧ t.timers = s.timers ++ [by_ (s.clock + 1 + Config.freeDelay s.fresh)]))
    ∧ (∀ (s : State) (q : QReg) (m : BitVec 3) (b : Reg) (i : BitVec 13) (ql : Option Qual),
    (∀ k, s.cur.issuedWait = some k →
        ((∀ a, a ∈ s.cur.accs → a.id ≠ k) → exec (.ldqW q m b i ql) s = .next s.advance ∧ exec (.ldqWc q m b i ql) s = .next s.advance)
          ∧ ((∃ a, a ∈ s.cur.accs ∧ a.id = k) → exec (.ldqW q m b i ql) s = s.stall rFE_WAIT ∧ exec (.ldqWc q m b i ql) s = s.stall rFE_WAIT))
      ∧ (∀ a, s.cur.issuedWait = none → s.mayIssue onCF (.q q :: baseNames m b ++ [.q q]) = true → s.clearOf [.q q] = true →
          s.rowAddr m b i = .ok a → s.chanGate a = .free →
          ∀ fe, fe = .full ∨ fe = .fullClear →
          ∃ t, exec (if fe = .full then .ldqW q m b i ql else .ldqWc q m b i ql) s = .next t ∧ t.mem = s.mem ∧ t.cur.pc = s.cur.pc
            ∧ t.cur.issuedWait = some (s.nextId + 1) ∧ t.cur.pending = s.cur.pending ++ [.q q]
            ∧ (∃ c, t.cur.accs = s.cur.accs ++ [c] ∧ c.id = s.nextId + 1 ∧ c.key = a ∧ c.fe = fe ∧ c.isLoad = true ∧ (c.isStore = true ↔ fe = .fullClear))
            ∧ ∃ w, t.cur.awaits = s.cur.awaits ++ [w] ∧ w.dests = [.q q] ∧ w.loads = [s.nextId + 1]
              ∧ (keyTile a = s.ct → w.minLand = s.now + 4)))

/-- R62, R142, R143, R362: STQ reads q[q] at issue and puts the row into the stream's store queue; STG does so for a translated G-space row, and LDG its
interlocked load. An access that has waited for its translation keeps the address and the row that it read when it issued. A translation fault traps,
and without a cached translation the stream waits for the walk. Memory changes only when the access is performed. -/
def Obligations.StoresAndGlobal : Prop :=
  ∀ (s : State) (q : QReg) (m : BitVec 3) (b : Reg) (i : BitVec 13) (ql : Option Qual),
    let put (c : Access) (r : Row) : Prop :=
      c.id = s.nextId ∧ c.isLoad = false ∧ c.isStore = true ∧ c.data = r ∧ c.rel = qualRel ql
    let h := s.cur.gHold.getD { va := s.addrG b i, q1 := s.q q, q2 := s.q q }
    (∀ a, s.mayIssue onCF (.q q :: baseNames m b) = true → s.rowAddr m b i = .ok a → s.chanGate a = .free →
        ∃ t c, exec (.stq q m b i ql) s = .next t ∧ t.mem = s.mem ∧ put c (s.q q) ∧ c.key = a ∧ c.ownDie = s.ownDie a ∧ t.cur = { s.advance.cur with accs := s.cur.accs ++ [c] })
      ∧ (∀ p, s.mayIssue onCF [.q q, .x b] = true → s.gResolve h.va false true = .ok p →
          ∃ t c, exec (.stg q b i ql) s = .next t ∧ t.mem = s.mem ∧ put c h.q1 ∧ c.key = p.key ∧ t.cur = { s.advance.cur with accs := s.cur.accs ++ [c] })
      ∧ (∀ p, s.mayIssue onCF [.x b, .q q] = true → s.clearOf [.q q] = true → s.gResolve h.va true false = .ok p →
          ∃ t c w, exec (.ldg q b i ql) s = .next t ∧ t.mem = s.mem ∧ c.id = s.nextId + 1 ∧ c.isLoad = true ∧ c.isStore = false ∧ c.key = p.key ∧ c.sink = some s.nextId
            ∧ w.id = s.nextId ∧ w.dests = [.q q] ∧ w.loads = [s.nextId + 1]
            ∧ t.cur = { s.advance.cur with accs := s.cur.accs ++ [c], awaits := s.cur.awaits ++ [w], pending := s.cur.pending ++ [.q q] })
      ∧ (s.mayIssue onCF [.q q, .x b] = true → s.clearOf [.q q] = true →
          (∀ c, s.gResolve h.va true false = .fault c → exec (.ldg q b i ql) s = s.trapG h.va c)
            ∧ (∀ c, s.gResolve h.va false true = .fault c → exec (.stg q b i ql) s = s.trapG h.va c)
            ∧ (s.gResolve h.va true false = .walk → exec (.ldg q b i ql) s = (s.modCur fun z => { z with gHold := some h }).startWalk h.va true false)
            ∧ (s.gResolve h.va false true = .walk → exec (.stg q b i ql) s = (s.modCur fun z => { z with gHold := some h }).startWalk h.va false true))

/-- R151 to R153: AMO and CAS read their registers at issue and put one indivisible access into the queue, interlocked on q[q]; on a page of host memory they take
ILLEGAL_USE. R152, R153: the row that an AMO leaves: each element of width w in a word that WMASK selects is the operation of the old element and the operand's, every
other word is as before, and WMASK 0 writes nothing; CAS writes the selected words when all of them are as expected. -/
def Obligations.Atomics : Prop :=
  (∀ (s : State) (q qn : QReg) (m : BitVec 3) (b : Reg) (i : BitVec 13) (ql : Option Qual) (op : BitVec 4) (w64 : Bool) (wm : BitVec 8),
    let done (x : Instr) (k : Nat) (r : Rmw) : Prop :=
      ∃ t c w, exec x s = .next t ∧ t.mem = s.mem ∧ c.id = s.nextId + 1 ∧ c.isLoad = true ∧ c.isStore = true ∧ c.key = k ∧ c.rmw = some r
        ∧ c.sink = some s.nextId ∧ w.id = s.nextId ∧ w.dests = [.q q] ∧ w.loads = [s.nextId + 1]
        ∧ t.cur = { s.advance.cur with accs := s.cur.accs ++ [c], awaits := s.cur.awaits ++ [w], pending := s.cur.pending ++ [.q q] }
    let h (n : QReg) : GHold := s.cur.gHold.getD { va := s.addrG b i, q1 := s.q q, q2 := s.q n }
    s.mayIssue onCF (.q qn :: baseNames m b ++ [.q q]) = true → s.clearOf [.q q] = true →
    (∀ a, m ≠ 4 → s.rowAddr m b i = .ok a → s.chanGate a = .free →
        done (.amo q m b i op w64 wm ql) a (.amo op w64 wm (s.q q)) ∧ done (.cas q m b i qn wm ql) a (.cas wm (s.q q) (s.q qn)))
      ∧ (∀ p, m = 4 → s.gResolve (h qn).va true true = .ok p →
          (p.host = false → done (.amo q m b i op w64 wm ql) p.key (.amo op w64 wm (h q).q1)
              ∧ done (.cas q m b i qn wm ql) p.key (.cas wm (h qn).q1 (h qn).q2))
            ∧ (p.host = true → exec (.amo q m b i op w64 wm ql) s = s.trap cILLEGAL_USE ∧ exec (.cas q m b i qn wm ql) s = s.trap cILLEGAL_USE)))
    ∧ (∀ (op : BitVec 4) (wm : BitVec 8) (x y old : Row), op.toNat ≤ 8 →
    let elem {n : Nat} (o v : BitVec n) : BitVec n :=
      match op.toNat with
      | 0 => v
      | 1 => o + v
      | 2 => o &&& v
      | 3 => o ||| v
      | 4 => o ^^^ v
      | 5 => if v.slt o then v else o
      | 6 => if o.slt v then v else o
      | 7 => if v.ult o then v else o
      | _ => if o.ult v then v else o
    let word (r : Row) (j : Nat) : Word := r.extractLsb' (64 * j) 64
    let half (r : Row) (j : Nat) : BitVec 32 := r.extractLsb' (32 * j) 32
    (wm = 0 → ∀ w64, (Rmw.amo op w64 wm x).apply old = none)
      ∧ (wm ≠ 0 → (∃ r, (Rmw.amo op true wm x).apply old = some r ∧ ∀ j, j < 8 → word r j = if wm.getLsbD j then elem (word old j) (word x j) else word old j)
        ∧ ∃ r, (Rmw.amo op false wm x).apply old = some r ∧ ∀ j, j < 16 → half r j = if wm.getLsbD (j / 2) then elem (half old j) (half x j) else half old j)
      ∧ (((∃ j, j < 8 ∧ wm.getLsbD j = true ∧ word old j ≠ word x j) ∨ wm = 0) → (Rmw.cas wm x y).apply old = none)
      ∧ (wm ≠ 0 → (∀ j, j < 8 → wm.getLsbD j = true → word old j = word x j) →
          ∃ r, (Rmw.cas wm x y).apply old = some r ∧ ∀ j, j < 8 → word r j = if wm.getLsbD j then word y j else word old j))

/-- R62, R78, R79, R82: STORE_PERFORMED. A store that may be performed writes its row at its home and sets the row full, and every other byte of memory
is as before; one for another die is first accepted at the bridge and writes nothing yet; a barrier arrival is sent to its home. With no access
named (log entry 1) the step is an addition to word 0 of a row, in one step, which waits for the stream's earlier unacknowledged stores (R91), or a store of
the host (R88, R399): with an established link it writes the bytes of an exposed HBM address, or of the host's own memory, and no other. -/
def Obligations.StorePerformed : Prop :=
  (∀ s : State, s.ev.id = 0 → s.ev.num = 3 → let k := s.ev.wide.toNat
    ((∃ n, n ∈ (s.strmOf s.ev.tile s.ev.st).naOut ∧ n < s.ev.aux) → exec .storePerformed s = .next (s.retry .storePerformed))
      ∧ ((∀ n, n ∈ (s.strmOf s.ev.tile s.ev.st).naOut → s.ev.aux ≤ n) → ¬(keyIsS k = true ∧ (s.tile (keyTile k)).frozen = true) → ∃ t, exec .storePerformed s = .next t
          ∧ t.mem = (s.putBytes (rowOf k) 8 (Mem.word s.mem (rowOf k) + s.ev.w0).toNat).mem))
  ∧ (∀ s : State, s.ev.id = 0 → s.ev.num = 1 ∨ s.ev.num = 2 → ∃ t, exec .storePerformed s = .next t
      ∧ let n := min s.ev.aux 64
        let pa := s.ev.w0.toNat
        (s.ide = true → s.ev.num = 2 → t = s.putBytes (keyHost pa) n s.ev.wide.toNat)
          ∧ (s.ide = true → s.ev.num = 1 → (∀ i, i < n → s.inHbm (pa + i) = true ∧ Config.machineReserved (pa + i) = false) →
              t = s.putBytes (keyHbm pa) n s.ev.wide.toNat)
          ∧ ((s.ide = false ∨ (s.ev.num = 1 ∧ ∃ i, i < n ∧ (s.inHbm (pa + i) = false ∨ Config.machineReserved (pa + i) = true))) → t = s))
  ∧ ∀ (s : State) (a : Access), s.Inv → s.accOf = some a → s.accMay a = true →
    (a.ownDie = true ∨ a.bridged = true → a.arrive = none → ∃ t, exec .storePerformed s = .next t ∧ t.Inv ∧ t.row a.key = a.data
        ∧ (∀ k, k < a.key ∨ a.key + 64 ≤ k → Mem.read t.mem k = Mem.read s.mem k)
        ∧ (keyIsS a.key = true → a.key % 64 = 0 → t.rowFull a.key = true)
        ∧ (t.strmOf s.ev.tile s.ev.st).x = (s.strmOf s.ev.tile s.ev.st).x ∧ (t.strmOf s.ev.tile s.ev.st).q = (s.strmOf s.ev.tile s.ev.st).q)
      ∧ (a.ownDie = false → a.bridged = false → ∃ t, exec .storePerformed s = .next t ∧ t.mem = s.mem
          ∧ ∀ e, e ∈ (t.strmOf s.ev.tile s.ev.st).accs → e.id = a.id → e.bridged = true)
      ∧ (∀ r, a.bridged = true → a.arrive = some r → ∃ t, exec .storePerformed s = .next t ∧ t.mem = s.mem ∧ Map.find t.msgs s.nextId = some (.arrival r))

/-- R17, R63, R78 to R80, R151, R363: LOAD_PERFORMED. A load whose granules are not as it needs them waits at its row, and one that loses its bank to an engine
or a delivery wins it in the next clock (log entry 57). Of any other, at a row that can be read: the value bound is that of the stream's own latest earlier store still in its queue, or the row at its home; a
plain load changes no byte of memory, LDQ.WC sets its granules empty, and an indivisible operation writes its row in the same step. A load
that finds an uncorrectable error binds nothing and changes no byte. -/
def Obligations.LoadPerformed : Prop :=
  ∀ (s : State) (a : Access) (k : Nat), s.Inv → s.accOf = some a → s.accMay a = true →
    (s.feTakes a = false → ∃ t, exec .loadPerformed s = .next t ∧ t.mem = s.mem ∧ t.waiters = s.waiters ++ [{ op := .loadPerformed, ev := s.ev }])
    ∧ (s.feTakes a = true → s.bankLost a = true → ∃ t, exec .loadPerformed s = .next t ∧ t.mem = s.mem
        ∧ t.waiters = s.waiters ++ [{ op := .loadPerformed, ev := s.ev }] ∧ t.bankWon = s.bankWon ++ [(s.clock + 1, a.key / 2 ^ 18)])
    ∧ (s.feTakes a = true → s.bankLost a = false → a.sink = some k →
    let z := s.strmOf s.ev.tile s.ev.st
    let w := forward ((s.strmWith s.ev.tile s.ev.st a.id).before a.id) a
    let v := w.getD (s.row a.key)
    (w = none → Map.find s.ecc (rowOf a.key) = some true → ∃ t, exec .loadPerformed s = .next t ∧ t.mem = s.mem
        ∧ (t.strmOf s.ev.tile s.ev.st).x = z.x ∧ (t.strmOf s.ev.tile s.ev.st).q = z.q)
    ∧ (w ≠ none ∨ Map.find s.ecc (rowOf a.key) ≠ some true → ∃ t, exec .loadPerformed s = .next t ∧ t.Inv
      ∧ (a.rmw = none → t.mem = s.mem)
      ∧ (∀ r, a.rmw = some r → a.isStore = true → t.row a.key = (r.apply (s.row a.key)).getD (s.row a.key)
          ∧ ∀ n, n < a.key ∨ a.key + 64 ≤ n → Mem.read t.mem n = Mem.read s.mem n)
      ∧ (∀ f, f ∈ z.flights → f.id = k → f.data = 0 → a.part = 0 → ∃ g, g ∈ (t.strmOf s.ev.tile s.ev.st).flights ∧ g.id = k ∧ g.dest = f.dest
          ∧ g.data.setWidth 512 = v ∧ g.loads = f.loads.filter (fun n => n ≠ a.id))
      ∧ (∀ w, w ∈ z.awaits → w.id = k → w.vals = [] → a.part = 0 → ∃ g, g ∈ (t.strmOf s.ev.tile s.ev.st).awaits ∧ g.id = k ∧ g.dests = w.dests
          ∧ g.vals = [v.setWidth 4096] ∧ g.loads = w.loads.filter (fun n => n ≠ a.id))
      ∧ (t.strmOf s.ev.tile s.ev.st).x = z.x ∧ (t.strmOf s.ev.tile s.ev.st).q = z.q))

/-- R12, R13, R47, R72, R113, R363: RESULT_LAND. Every result of the stream whose tick has come lands, in order of issue, so that each bit of a scalar or row register, of an
accumulator row or of a mask is the one that the last of them to write it brings, and a bit that none writes is as before; the same holds of VTYPE, VWBASE and the
patterns. x0, m0 and pt0 stay as they read. A row written whole holds no soft error any more. The flags of all of them are ORed into FLAGS. Nothing else of the stream, of
the tile or of the machine changes, no byte of memory included. R15, R143: INTERLOCKED_RESULT. A ready result without a load outstanding is written to its scalar or row
register and its pending bits clear; one that waits for a load is not, and one that may not land yet is tried again. -/
def Obligations.ResultsLand : Prop :=
  (∀ (s : State),
    let t0 := s.ev.tile
    let u := s.tile t0
    let z := s.strmOf t0 s.ev.st
    let due (f : Flight) : Bool := f.land ≤ u.ttick
    let fs := z.flights.filter due
    let inRows (r n k : Nat) : Bool := (List.range n).any fun i => (r + i) % 256 = k
    let wrote (d : Dest) (j : Nat) (f : Flight) : Bool :=
      match f.dest, d with
      | .accs r n, .acc k => inRows r n k
      | e, _ => e = d && f.bits.getLsbD j
    let landed (d : Dest) (j : Nat) (old : Bool) : Bool := ((fs.filter (wrote d j)).getLast?.map fun f => f.data.getLsbD j).getD old
    let last (d : Dest) : Option VRow := (fs.filter fun f => f.dest = d).getLast?.map Flight.data
    ∃ t, exec .resultLand s = .next t ∧ t.mem = s.mem ∧ (∀ k, k ≠ t0 → t.tile k = s.tile k)
      ∧ let u' := t.tile t0
        let z' := t.strmOf t0 s.ev.st
        (∀ n j, n ≠ 0 → j < 64 → (z'.xr n).getLsbD j = landed (.x n) j ((z.xr n).getLsbD j)) ∧ z'.xr 0 = 0
          ∧ (∀ n j, j < 512 → (z'.qr n).getLsbD j = landed (.q n) j ((z.qr n).getLsbD j))
          ∧ (∀ r j, j < 4096 → (u'.accAt r).getLsbD j = landed (.acc r) j ((u.accAt r).getLsbD j))
          ∧ (∀ n j, n ≠ 0 → j < 512 → (u'.mask n).getLsbD j = landed (.mask n) j ((u.mask n).getLsbD j)) ∧ u'.mask 0 = BitVec.allOnes 512
          ∧ u'.vtype = ((last .vtype).map fun v => v.setWidth 3).getD u.vtype ∧ u'.vwbase = ((last .vwbase).map fun v => v.setWidth 8).getD u.vwbase
          ∧ (∀ n, n ≠ 0 → u'.pat n = ((last (.pat n)).map fun v =>
              ({ kind := v.extractLsb' 0 3, k := v.extractLsb' 3 5, sel := v.extractLsb' 8 24 } : Pat)).getD (u.pat n)) ∧ u'.pat 0 = {}
          ∧ (∀ r, Map.has u'.ecc (eccAcc r) = (Map.has u.ecc (eccAcc r) && !(fs.any fun f => match f.dest with
              | .acc k => k = r && f.bits = BitVec.allOnes 4096
              | .accs k n => inRows k n r
              | _ => false)))
          ∧ z'.flags = fs.foldl (fun a f => a ||| f.flags) z.flags ∧ z'.flights = z.flights.filter (fun f => !due f)
          ∧ { z' with x := z.x, q := z.q, flags := z.flags, flights := z.flights } = z
          ∧ { u' with acc := u.acc, masks := u.masks, vtype := u.vtype, vwbase := u.vwbase, pats := u.pats, ecc := u.ecc }.setStrm s.ev.st z = u)
    ∧ (∀ (s : State) (w : Await) (n : Reg) (q : QReg) (v : VRow),
    let t0 := s.ev.tile
    let z := s.strmOf t0 s.ev.st
    z.awaits.find? (fun w => w.id = s.ev.id) = some w →
    let lands (d : Dest) (p : Strm → Prop) : Prop :=
      w.ready = true → w.loads = [] → w.dests = [d] → w.vals = [v] → w.minLand ≤ (s.tile t0).ttick →
        ∃ t, exec .interlockedResult s = .next t ∧ t.mem = s.mem ∧ p (t.strmOf t0 s.ev.st)
          ∧ d ∉ (t.strmOf t0 s.ev.st).pending ∧ (t.strmOf t0 s.ev.st).flags = z.flags
          ∧ (t.strmOf t0 s.ev.st).awaits = z.awaits.filter (fun a => a.id ≠ w.id)
    lands (.x n) (fun z' => (n ≠ 0 → z'.xr n = v.setWidth 64) ∧ (∀ m, m ≠ n → z'.xr m = z.xr m) ∧ z'.q = z.q)
      ∧ lands (.q q) (fun z' => z'.qr q = v.setWidth 512 ∧ (∀ m, m ≠ q → z'.qr m = z.qr m) ∧ z'.x = z.x)
      ∧ (w.loads ≠ [] → exec .interlockedResult s = .next s)
      ∧ (w.ready = true → w.loads = [] → (s.tile t0).ttick < w.minLand → (s.tile t0).preemptReq = false →
          exec .interlockedResult s = .next (s.retry .interlockedResult)))

/-- R202, R207 to R209: the floating-point instructions complete with latency 4 under a floating VTYPE: every lane that the mask selects takes the exact operation of the
pattern-applied first source, the second source and the old lane, rounded once with RNE; the immediate and constant-bank forms take all lanes. Under an integer VTYPE each
takes ILLEGAL_USE. The rows and the constant that are read hold no soft error; of one that has an uncorrectable error nothing lands; VMOVI reads no row. R210: the special
functions complete with latency 8: in every lane that the mask selects, the FP32 function of the lane widened to FP32, rounded once to the lane format. On FP32 a NaN
gives the canonical NaN and no flag, and the special operands give the exact results of the table with its flags. -/
def Obligations.VectorFloat : Prop :=
  (∀ (s : State) (d a : Reg) (b : Src2) (p : BitVec 4) (k : BitVec 3) (i20 : BitVec 20) (c : BitVec 14),
    s.mayIssue onV (.mask 0 :: s.vNames d a b k) = true → s.cur.flights.length < 16 →
    (Map.find s.me.ecc (eccAcc (s.accRow a)) = some true → (etypeFmt s.me.vtype).isSome = true →
        ∀ i, i ∈ [Instr.vadd d a b p k, .vsub d a b p k, .vmul d a b p k, .vfma d a b p k, .vmadd d a b p k, .vmin d a b p k, .vmax d a b p k] → s.losesRead i)
    ∧ (∀ m : FFmt, etypeFmt s.me.vtype = some m →
        s.vectorResult (.vmovi d i20) d 4 m.width (4096 / m.width) (fun _ => true) fun _ => m.result (fp32.decode (i20.toNat * 2 ^ 12), 0))
    ∧ (s.accsSound → Map.find s.me.ecc (eccConst c.toNat) = none →
    (∀ m : FFmt, etypeFmt s.me.vtype = some m →
      let w := m.width
      let x (j : Nat) : FpNum := m.decode (laneBits (s.v a) w (srcLane (s.me.pat p) j))
      let x0 (j : Nat) : FpNum := m.decode (laneBits (s.v a) w j)
      let y (j : Nat) : FpNum := s.srcNum m b j
      let z (j : Nat) : FpNum := m.decode (laneBits (s.v d) w j)
      let imm : FpNum := fp32.decode (i20.toNat * 2 ^ 12)
      let con : FpNum := fp32.decode (Map.get 0 s.me.cbank c.toNat).toNat
      let v3 (i : Instr) (f : Nat → FpNum × Flags) : Prop := s.vectorResult i d 4 w (4096 / w) (s.me.mask k).getLsbD fun j => m.result (f j)
      let all (i : Instr) (f : Nat → FpNum × Flags) : Prop := s.vectorResult i d 4 w (4096 / w) (fun _ => true) fun j => m.result (f j)
      v3 (.vadd d a b p k) (fun j => (x j).add (y j)) ∧ v3 (.vsub d a b p k) (fun j => (x j).add (y j).neg) ∧ v3 (.vmul d a b p k) (fun j => (x j).mul (y j))
        ∧ v3 (.vfma d a b p k) (fun j => (x j).fma (y j) (z j)) ∧ v3 (.vmadd d a b p k) (fun j => (z j).fma (x j) (y j))
        ∧ v3 (.vmin d a b p k) (fun j => ((x j).minMax false (y j), 0)) ∧ v3 (.vmax d a b p k) (fun j => ((x j).minMax true (y j), 0))
        ∧ v3 (.vabs d a p k) (fun j => ((x j).abs, 0)) ∧ v3 (.vneg d a p k) (fun j => ((x j).neg, 0))
        ∧ all (.vaddi d i20) (fun j => (z j).add imm) ∧ all (.vmuli d i20) (fun j => (z j).mul imm) ∧ all (.vmovi d i20) (fun _ => (imm, 0))
        ∧ all (.vmaxi d i20) (fun j => ((z j).minMax true imm, 0)) ∧ all (.vmini d i20) (fun j => ((z j).minMax false imm, 0))
        ∧ all (.vaddc d a c) (fun j => (x0 j).add con) ∧ all (.vmulc d a c) (fun j => (x0 j).mul con)
        ∧ all (.vfmac d a c) (fun j => (x0 j).fma con (z j)) ∧ all (.vmaddc d a c) (fun j => (z j).fma (x0 j) con))
      ∧ (etypeFmt s.me.vtype = none → ∀ i, i ∈ [Instr.vadd d a b p k, .vsub d a b p k, .vmul d a b p k, .vfma d a b p k, .vmadd d a b p k, .vmin d a b p k,
            .vmax d a b p k, .vabs d a p k, .vneg d a p k, .vaddi d i20, .vmuli d i20, .vmovi d i20, .vmaxi d i20, .vmini d i20, .vaddc d a c, .vmulc d a c,
            .vfmac d a c, .vmaddc d a c] → exec i s = s.trap cILLEGAL_USE)))
    ∧ (∀ (s : State) (d a : Reg) (p : BitVec 4) (k : BitVec 3) (m : FFmt),
    s.mayIssue onV [.acc (s.accRow d), .acc (s.accRow a), .mask k] = true → s.cur.flights.length < 16 → s.accsSound → etypeFmt s.me.vtype = some m →
    let w := m.width
    let x (j : Nat) : FpNum := m.decode (laneBits (s.v a) w (srcLane (s.me.pat p) j))
    let rcp (x : BitVec 32) : Nat × Flags := recip fp32 (fp32.decode x.toNat)
    let sqrt (x : BitVec 32) : Nat × Flags := sqrtNum fp32 (fp32.decode x.toNat)
    let fn (i : Instr) (g : BitVec 32 → Nat × Flags) : Prop :=
      s.vectorResult i d 8 w (4096 / w) (s.me.mask k).getLsbD (fun j =>
          let r := g (BitVec.ofNat 32 (fp32.rne (x j)).1)
          let c := m.rne (fp32.decode r.1)
          (c.1, r.2 ||| c.2))
        ∧ ∀ v, fp32.decode v.toNat = .nan → g v = (0x7FC00000, 0)
    let sgn (n : Bool) : Nat := if n then 2 ^ 31 else 0
    (fn (.vrcp d a p k) rcp ∧ fn (.vsqrt d a p k) sqrt ∧ fn (.vrsq d a p k) rsqFp32 ∧ fn (.vexp2 d a p k) exp2Fp32 ∧ fn (.vlog2 d a p k) log2Fp32
        ∧ fn (.vtanh d a p k) tanhFp32 ∧ fn (.vsigm d a p k) sigmFp32)
      ∧ (∀ (v : BitVec 32) (n : Bool), fp32.decode v.toNat = .inf n →
          rcp v = (sgn n, 0) ∧ sqrt v = (if n then (0x7FC00000, fNV) else (0x7F800000, 0)) ∧ rsqFp32 v = (if n then (0x7FC00000, fNV) else (0, 0))
            ∧ exp2Fp32 v = (if n then (0, 0) else (0x7F800000, 0)) ∧ log2Fp32 v = (if n then (0x7FC00000, fNV) else (0x7F800000, 0))
            ∧ tanhFp32 v = (sgn n + 0x3F800000, 0) ∧ sigmFp32 v = (if n then 0 else 0x3F800000, 0))
      ∧ ∀ (v : BitVec 32) (n : Bool) (a : Nat) (e : Int), fp32.decode v.toNat = .fin n a e →
          let r : ℚ := (if n then -1 else 1) * a * 2 ^ e
          let gives (c : Nat × Flags) (y : ℚ) : Prop := c.2 = 0 ∧ ∃ m k, fp32.decode c.1 = .fin (y < 0) m k ∧ (m : ℚ) * 2 ^ k = |y|
          (r = 0 → rcp v = (sgn n + 0x7F800000, fDZ) ∧ sqrt v = (sgn n, 0) ∧ rsqFp32 v = (sgn n + 0x7F800000, fDZ) ∧ exp2Fp32 v = (0x3F800000, 0)
              ∧ log2Fp32 v = (2 ^ 31 + 0x7F800000, fDZ) ∧ tanhFp32 v = (v.toNat, 0) ∧ sigmFp32 v = (0x3F000000, 0))
            ∧ (r ≠ 0 → |r| ≤ 1 / 2 ^ 128 → rcp v = (sgn n + 0x7F800000, fOF ||| fNX))
            ∧ (r < 0 → sqrt v = (0x7FC00000, fNV) ∧ rsqFp32 v = (0x7FC00000, fNV) ∧ log2Fp32 v = (0x7FC00000, fNV))
            ∧ (∀ k : Int, r = 4 ^ k → gives (rsqFp32 v) (2 ^ (-k))) ∧ (∀ k : Int, r = 2 ^ k → gives (log2Fp32 v) k)
            ∧ (∀ k : Int, r = k → -149 ≤ k → k ≤ 127 → gives (exp2Fp32 v) (2 ^ k))
            ∧ (128 ≤ r → exp2Fp32 v = (0x7F800000, fOF ||| fNX)) ∧ (r ≤ -150 → exp2Fp32 v = (0, fUF ||| fNX))
            ∧ (10 ≤ |r| → tanhFp32 v = (sgn n + 0x3F800000, 0)) ∧ (0 < |r| → |r| < 1 / 2 ^ 12 → tanhFp32 v = (v.toNat, 0))
            ∧ (18 ≤ r → sigmFp32 v = (0x3F800000, 0)) ∧ (r ≤ -104 → sigmFp32 v = (0, 0)))

/-- R210: the error bounds of the special functions on FP32, in ulps of the exact result: VRCP and VSQRT half a ulp with NX exactly when the result is
inexact, VRSQ one, the others two, VLOG2 on [0.5, 2] instead 2^-22; for operands that the table does not list the other five set NX. Inside its
bound a result is a free value, a fixed function of the operand's bits (log entry 7). -/
def Obligations.SpecialBounds : Prop :=
  ∀ (v : BitVec 32) (n : Bool) (a : Nat) (e : Int), fp32.decode v.toNat = .fin n a e →
    let r : ℝ := (if n then -1 else 1) * a * 2 ^ e
    let ulp (y : ℝ) : ℝ := 2 ^ max (Int.log 2 |y| - 23) (-149)
    let near (c : Nat × Flags) (y b : ℝ) : Prop :=
      ∃ s m k, fp32.decode c.1 = .fin s m k ∧ |(if s then -1 else 1) * (m : ℝ) * 2 ^ k - y| ≤ b
    let exactly (c : Nat × Flags) (y : ℝ) : Prop :=
      ∃ s m k, fp32.decode c.1 = .fin s m k ∧ |(if s then -1 else 1) * (m : ℝ) * 2 ^ k - y| ≤ ulp y / 2
        ∧ (c.2.getLsbD 4 = true ↔ (if s then -1 else 1) * (m : ℝ) * 2 ^ k ≠ y) ∧ c.2 &&& ~~~(fNX ||| fUF) = 0
    let inexact (c : Nat × Flags) : Prop := c.2 = fNX ∨ c.2 = fNX ||| fUF
    (1 / 2 ^ 128 < |r| → exactly (recip fp32 (fp32.decode v.toNat)) (1 / r))
      ∧ (0 < r → exactly (sqrtNum fp32 (fp32.decode v.toNat)) (Real.sqrt r))
      ∧ (0 < r → near (rsqFp32 v) (1 / Real.sqrt r) (ulp (1 / Real.sqrt r)) ∧ ((∀ k : Int, r ≠ 4 ^ k) → inexact (rsqFp32 v)))
      ∧ (-150 < r → r < 128 → near (exp2Fp32 v) (2 ^ r) (2 * ulp (2 ^ r)) ∧ ((∀ k : Int, r ≠ k) → inexact (exp2Fp32 v)))
      ∧ (0 < r → near (log2Fp32 v) (Real.logb 2 r) (if 1 / 2 ≤ r ∧ r ≤ 2 then 1 / 2 ^ 22 else 2 * ulp (Real.logb 2 r))
          ∧ ((∀ k : Int, r ≠ 2 ^ k) → inexact (log2Fp32 v)))
      ∧ (1 / 2 ^ 12 ≤ |r| → |r| < 10 → near (tanhFp32 v) (Real.tanh r) (2 * ulp (Real.tanh r)) ∧ inexact (tanhFp32 v))
      ∧ (-104 < r → r < 18 → r ≠ 0 → near (sigmFp32 v) (1 / (1 + Real.exp (-r))) (2 * ulp (1 / (1 + Real.exp (-r)))) ∧ inexact (sigmFp32 v))

/-- R46, R202, R203, R211: the integer and bitwise instructions complete with latency 4 and raise no flag: each selected lane takes the operation of the
lanes' bits, wrapped to the width; the integer ones take ILLEGAL_USE under a floating VTYPE. -/
def Obligations.VectorInteger : Prop :=
  ∀ (s : State) (d a : Reg) (b : Src2) (p : BitVec 4) (k : BitVec 3), s.mayIssue onV (s.vNames d a b k) = true → s.cur.flights.length < 16 → s.accsSound →
    let e := s.me.vtype
    let w := etypeWidth e
    let x (j : Nat) : Nat := laneBits (s.v a) w (srcLane (s.me.pat p) j)
    let y (j : Nat) : Nat := s.srcBits b w j
    let op (i : Instr) (f : Nat → Nat) : Prop := s.vectorResult i d 4 w (4096 / w) (s.me.mask k).getLsbD fun j => (f j, 0)
    op (.vand d a b p k) (fun j => x j &&& y j) ∧ op (.vor d a b p k) (fun j => x j ||| y j) ∧ op (.vxor d a b p k) (fun j => x j ^^^ y j)
      ∧ op (.vmov d a p k) x
      ∧ (etypeFmt e = none →
          op (.viadd d a b p k) (fun j => x j + y j) ∧ op (.visub d a b p k) (fun j => x j + 2 ^ w - y j) ∧ op (.vimul d a b p k) (fun j => x j * y j)
          ∧ op (.vimin d a b p k) (fun j => if sgn w (y j) < sgn w (x j) then y j else x j) ∧ op (.vimax d a b p k) (fun j => if sgn w (x j) < sgn w (y j) then y j else x j)
          ∧ op (.viabs d a p k) (fun j => if sgn w (x j) < 0 then 2 ^ w - x j else x j)
          ∧ op (.vshl d a b p k) (fun j => x j * 2 ^ (y j % w)) ∧ op (.vshr d a b p k) (fun j => x j / 2 ^ (y j % w))
          ∧ op (.vsar d a b p k) (fun j => wrapInt w (sgn w (x j) / 2 ^ (y j % w))))
      ∧ ((etypeFmt e).isSome = true → ∀ i, i ∈ [Instr.viadd d a b p k, .visub d a b p k, .vimul d a b p k, .vimin d a b p k, .vimax d a b p k, .viabs d a p k,
            .vshl d a b p k, .vshr d a b p k, .vsar d a b p k] → exec i s = s.trap cILLEGAL_USE)

/-- R212 to R214: VCMP writes the mask bit of each selected lane by its condition and 0 elsewhere; VSEL takes the first source where the selector is 1,
else the second; VBCAST writes the second source to the selected lanes; VEXT reads one lane, sign-extended for an integer type; VINS writes one. -/
def Obligations.CompareAndMove : Prop :=
  ∀ (s : State) (d a : Reg) (md : BitVec 3) (b : Src2) (p : BitVec 4) (k : BitVec 3) (u : Bool) (cond : BitVec 3),
    s.mayIssue onV (.mask md :: .x d :: .x a :: s.vNames d a b k) = true → s.cur.flights.length < 16 → s.accsSound →
    let e := s.me.vtype
    let w := etypeWidth e
    let n := 4096 / w
    let lane (j : Nat) : Nat := laneBits (s.v a) w (srcLane (s.me.pat p) j)
    let idx : Nat := s.laneIndex b n
    (¬(u = true ∧ (etypeFmt e).isSome = true) → ∃ r, exec (.vcmp md a b p k u cond) s = .next (s.result (.mask md) 4 r (BitVec.allOnes 4096) 0).advance
        ∧ (∀ j, j < 512 → (n ≤ j ∨ (s.me.mask k).getLsbD j = false) → r.getLsbD j = false)
        ∧ (∀ j, j < n → (s.me.mask k).getLsbD j = true → r.getLsbD j = match etypeFmt e with
            | some m => fpCond cond.toNat (m.decode (lane j)) (s.srcNum m b j)
            | none => if u then intCond cond.toNat (lane j) (s.srcBits b w j) else intCond cond.toNat (sgn w (lane j)) (sgn w (s.srcBits b w j))))
      ∧ (u = true → (etypeFmt e).isSome = true → exec (.vcmp md a b p k u cond) s = s.trap cILLEGAL_ENCODING)
      ∧ s.vectorResult (.vsel d a b p k) d 4 w n (fun _ => true) (fun j => if (s.me.mask k).getLsbD j then (lane j, 0) else s.srcMove e b j)
      ∧ s.vectorResult (.vbcast d b k) d 4 w n (s.me.mask k).getLsbD (s.srcMove e b)
      ∧ exec (.vext d a b p) s = .next (s.setX d 4 (if (etypeFmt e).isSome then BitVec.ofNat 64 (lane idx) else BitVec.ofInt 64 (sgn w (lane idx)))).advance
      ∧ s.vectorResult (.vins d a b) d 4 w n (fun j => j = idx) (fun _ => ((s.x a).toNat, 0))

/-- R216, R217: VCVT converts part `part` of the wider side and leaves every destination lane outside it; VQUANT writes the packed block image of the 128
pattern-applied lanes, VDEQ decodes one; both take ILLEGAL_USE unless VTYPE is FP32. -/
def Obligations.Conversions : Prop :=
  ∀ (s : State) (d a : Reg) (p : BitVec 4) (k : BitVec 3) (part rm blk : BitVec 2) (dst src : BitVec 3) (fmt : BitVec 5),
    s.mayIssue onV [.acc (s.accRow d), .acc (s.accRow a), .mask k] = true → s.cur.flights.length < 16 → s.accsSound → vcvtOk part dst src = true → quantOk blk fmt = true →
    let ws := etypeWidth src
    let wd := etypeWidth dst
    let m := 4096 / Nat.max ws wd
    let from_ (j : Nat) : Nat := if wd < ws then j - part.toNat * m else j
    let si (j : Nat) : Nat := srcLane (s.me.pat p) (if ws < wd then part.toNat * m + from_ j else from_ j)
    s.vectorResult (.vcvt d a p k part rm dst src) d 4 wd (4096 / wd)
        (fun j => (wd < ws → part.toNat * m ≤ j) && from_ j < m && (s.me.mask k).getLsbD (from_ j))
        (fun j => if src = dst then (laneBits (s.v a) ws (si j), 0) else laneOfNum dst rm (laneNum src (laneBits (s.v a) ws (si j))))
      ∧ (s.me.vtype = 0 →
          let r := packImage fmt.toNat blk rm ((List.range 128).map fun i => fp32.decode (laneBits (s.v a) 32 (srcLane (s.me.pat p) i)))
          exec (.vquant d a p rm blk fmt) s = .next (s.result (.acc (s.accRow d)) 6 r.1 (BitVec.allOnes 4096) r.2).advance
            ∧ s.vectorResult (.vdeq d a k rm blk fmt) d 4 32 128 (s.me.mask k).getLsbD (fun j =>
                let sc := if blk = 3 then none else some ((s.v a).toNat / 2 ^ (2048 + 8 * (j / blkLen blk.toNat)) % 256)
                fp32.ofNum rm (scaledNum fmt.toNat (laneBits (s.v a) (container fmt.toNat) j % 2 ^ elemWidth fmt.toNat) sc)))
      ∧ (s.me.vtype ≠ 0 → exec (.vquant d a p rm blk fmt) s = s.trap cILLEGAL_USE ∧ exec (.vdeq d a k rm blk fmt) s = s.trap cILLEGAL_USE)

/-- R218, R219: the reductions and VSCAN complete with latency 6 and write every lane: each lane of a block with the value of its block's tree, or of the
whole row's; the leaves are the pattern-applied lanes, the masked-off ones the identity. -/
def Obligations.Reductions : Prop :=
  ∀ (s : State) (d a : Reg) (blk row : Bool) (op : BitVec 2) (p : BitVec 4) (k : BitVec 3),
    s.mayIssue onV [.acc (s.accRow d), .acc (s.accRow a), .mask k] = true → s.cur.flights.length < 16 → s.accsSound → s.me.vtype.toNat ≤ 5 →
    let e := s.me.vtype
    let w := etypeWidth e
    let n := 4096 / w
    let tree (o : Nat) : List Nat := (redTree e o (if blk then 5 else n.log2) (s.leaves o a p k, 0)).1
    let red (i : Instr) (o : Nat) : Prop :=
      ∃ data fl, exec i s = .next (s.result (.acc (s.accRow d)) 6 data (BitVec.allOnes 4096) fl).advance
        ∧ ∀ j, j < n → laneBits data w j = (redLane e ((tree o).getD (if blk then j / 32 else 0) 0)).1 % 2 ^ w
    red (.vrsum d a blk p k) 0 ∧ red (.vrmax d a blk p k) 1 ∧ red (.vrmin d a blk p k) 2
      ∧ (∀ o, (s.leaves o a p k).length = n ∧ ∀ j, j < n → (s.leaves o a p k).getD j 0 =
          if (s.me.mask k).getLsbD j then (match etypeFmt e with
            | some m => (fp32.rne (m.decode (laneBits (s.v a) w (srcLane (s.me.pat p) j)))).1
            | none => laneBits (s.v a) w (srcLane (s.me.pat p) j)) else redId e o)
      ∧ ∃ data fl, exec (.vscan d a row op p k) s = .next (s.result (.acc (s.accRow d)) 6 data (BitVec.allOnes 4096) fl).advance
          ∧ ∀ j, j < n →
            let o := op.toNat
            let y := [1, 2, 4, 8, 16].foldl (fun y t => (scanStep e o t y).1) (s.leaves o a p k)
            laneBits data w j = (redLane e ((if row then (scanCarry e o (n / 32 - 1) (y.take 32) (y.drop 32) 0).1 else y).getD j 0)).1 % 2 ^ w

/-- R220, R221: VLD and VST name eight rows of one tile, 64 bytes apart. In the tile's slice VLD lands after 6 ticks, else it is interlocked; VST reads its
register at issue and stores its eight rows in order; VLDS and VSTS move 512 bytes of spill memory. Memory is as before until the accesses are performed. -/
def Obligations.VectorMemory : Prop :=
  ∀ (s : State) (d a : Reg) (i : BitVec 14), s.mayIssue onV [.acc (s.accRow d), .x a] = true →
    let x := (s.x a).toNat
    let off : Nat := ((((x % 2 ^ 23 : Nat) : Int) + i.toInt * 64) % (2 ^ 23 : Int)).toNat / 64 * 64
    let at_ (k : Nat) : Nat := x / 2 ^ 23 % 2 ^ 9 * 2 ^ 23 + (off + 64 * k) % 2 ^ 23
    (∀ k, k < 8 → (s.vRows a i)[k]? = some (at_ k))
      ∧ ((∀ k, k < 8 → s.sFault s.ct (at_ k) = none ∧ s.chanGate (at_ k) = .free) → s.accsSound →
          (∃ t as, exec (.vst d a i) s = .next t ∧ t.mem = s.mem ∧ t.cur = { s.advance.cur with accs := s.cur.accs ++ as } ∧ as.length = 8
              ∧ ∀ k, k < 8 → ∃ c, as[k]? = some c ∧ c.key = at_ k ∧ c.isStore = true ∧ c.isLoad = false ∧ c.data = (s.v d).extractLsb' (512 * k) 512)
            ∧ ((∀ k, k < 8 → keyTile (at_ k) = s.ct ∧ s.mayNow 6 { key := at_ k, ownDie := s.ownDie (at_ k), part := k, addr := BitVec.ofNat 64 (at_ k) } = true) →
                s.cur.flights.length < 16 → ∃ t as, exec (.vld d a i) s = .next t ∧ t.mem = s.mem ∧ as.length = 8
                  ∧ t.cur = { s.advance.cur with
                              accs := s.cur.accs ++ as
                              flights := s.cur.flights ++ [{ id := s.nextId, dest := .acc (s.accRow d), land := s.now + 6, lane := s.cur.pc
                                                             loads := (List.range 8).map fun k => s.nextId + 1 + k }] }
                  ∧ ∀ k, k < 8 → ∃ c, as[k]? = some c ∧ c.id = s.nextId + 1 + k ∧ c.key = at_ k ∧ c.isLoad = true ∧ c.part = k ∧ c.sink = some s.nextId)
            ∧ ((∃ k, k < 8 ∧ keyTile (at_ k) ≠ s.ct) → (∀ f, f ∈ s.cur.flights → f.dest.covers (.acc (s.accRow d)) = false) →
                ∃ t w, exec (.vld d a i) s = .next t ∧ t.mem = s.mem ∧ t.cur.awaits = s.cur.awaits ++ [w] ∧ w.dests = [.acc (s.accRow d)]
                  ∧ w.loads = (List.range 8).map (fun k => s.nextId + 1 + k) ∧ t.cur.pending = s.cur.pending ++ [.acc (s.accRow d)]))
      ∧ (s.cur.flights.length < 16 → (∀ k, k < 64 → Map.find s.me.ecc (eccSpill (64 * i.toNat + k)) = none) → exec (.vlds d i) s = .next
          (s.result (.acc (s.accRow d)) 1 (BitVec.ofNat 4096 (Mem.readN s.me.spill (512 * i.toNat) 512)) (BitVec.allOnes 4096) 0).advance)
      ∧ (s.accsSound → exec (.vsts d i) s = .next (s.modMe fun u => { u with spillPend := u.spillPend ++ [(512 * i.toNat, 512, s.v d)] }).advance)

/-- R206, R215, R222: the vector state and the masks. VSETT, VSETW and VPAT land after 1 tick, the mask operations and VACLR after 4. R223 to R225: the conditional queue.
VCQPUSH appends the selected lanes in ascending order, or traps and leaves the queue; VCQPOP takes up to 128 of the oldest; VCQCNT answers the count; VCQBAL waits for the
balance with a peer of its cluster and goes on once it is applied. -/
def Obligations.VectorStateAndQueue : Prop :=
  (∀ (s : State) (d a : Reg) (md ma mb : BitVec 3) (e : BitVec 3) (i : BitVec 14) (pd : BitVec 4) (kind : BitVec 3) (k c : BitVec 5),
    s.mayIssue onV ([.x d, .x a, .mask md, .mask ma, .mask mb, .vtype, .vwbase, .pat pd]
      ++ (List.range (c.toNat + 1)).map fun n => .acc ((s.accRow d + n) % 256)) = true → s.cur.flights.length < 16 →
    let r (x : Dest) (lat : Nat) (v : VRow) : Out := .next (s.result x lat v (BitVec.allOnes 4096) 0).advance
    let mk (n : BitVec 3) : BitVec 512 := s.me.mask n
    exec (.vmand md ma mb) s = r (.mask md) 4 ((mk ma &&& mk mb).setWidth 4096) ∧ exec (.vmor md ma mb) s = r (.mask md) 4 ((mk ma ||| mk mb).setWidth 4096)
      ∧ exec (.vmnot md ma) s = r (.mask md) 4 ((~~~mk ma).setWidth 4096)
      ∧ exec (.vmpop d ma) s = .next (s.setX d 4 (BitVec.ofNat 64 ((List.range (4096 / etypeWidth s.me.vtype)).countP (mk ma).getLsbD))).advance
      ∧ exec (.vsett e) s = r .vtype 1 (e.setWidth 4096)
      ∧ exec (.vsetw a i) s = r .vwbase 1 (((s.x a + i.signExtend 64).setWidth 8).setWidth 4096)
      ∧ (∃ v, exec (.vpat pd a kind k) s = r (.pat pd) 1 v ∧ v.extractLsb' 0 3 = kind ∧ v.extractLsb' 3 5 = k
          ∧ v.extractLsb' 8 24 = if kind = 5 then (s.x a).extractLsb' 0 24 else 0)
      ∧ exec (.vaclr d c) s = r (.accs (s.accRow d) (c.toNat + 1)) 4 0)
    ∧ (∀ (s : State) (d a : Reg) (f : BitVec 3) (p : BitVec 4) (k : BitVec 3),
    s.mayIssue onV [.x d, .x a, .acc (s.accRow a), .acc (s.accRow d), .mask k, .mask f] = true → s.clearOf [.acc (s.accRow d), .mask f, .x d] = true →
    s.me.vtype = 0 ∨ s.me.vtype = 3 → s.accsSound →
    let es := ((List.range 128).filter fun i => (s.me.mask k).getLsbD i).map fun i => BitVec.ofNat 32 (laneBits (s.v a) 32 (srcLane (s.me.pat p) i))
    (s.me.condQ.length + es.length ≤ 1024 → exec (.vcqpush a p k) s = .next (s.modMe fun u => { u with condQ := u.condQ ++ es }).advance)
      ∧ (1024 < s.me.condQ.length + es.length → exec (.vcqpush a p k) s = s.trap cILLEGAL_USE)
      ∧ (∃ v m, exec (.vcqpop d f) s = .next ((s.modMe fun u => { u with condQ := u.condQ.drop 128 }).answers [.acc (s.accRow d), .mask f] [v, m]).advance
          ∧ (∀ j, j < 128 → laneBits v 32 j = ((s.me.condQ.getD j 0).toNat)) ∧ ∀ j, j < 512 → m.getLsbD j = decide (j < Nat.min 128 s.me.condQ.length))
      ∧ exec (.vcqcnt d) s = .next (s.answer d (BitVec.ofNat 64 s.me.condQ.length)).advance
      ∧ (s.cur.waitN = some balDone → exec (.vcqbal a) s = .next s.advance)
      ∧ (s.cur.waitN ≠ some balDone →
          let peer : TileNo := (s.x a).setWidth 8
          (clusterOf peer ≠ clusterOf s.ct → exec (.vcqbal a) s = s.trap cILLEGAL_USE)
            ∧ (clusterOf peer = clusterOf s.ct → ∀ c, s.tileFault s.ct peer = some c → exec (.vcqbal a) s = s.trap c)
            ∧ (clusterOf peer = clusterOf s.ct → s.tileFault s.ct peer = none →
                exec (.vcqbal a) s = (s.modCur fun z => { z with waitN := some (balKey peer) }).stall rINTERLOCK)))

/-- R73, R74, R148 to R150: circular buffers. CBINIT sets its fields, empties the buffer and makes it VALID; CBWAITF goes on when at least n slots were
filled, CBWAITE when at least n were free, as the tick found the buffer, and else the stream waits; CBADV moves PROD once the stream's earlier accesses
meet FENCE tile, or CONS once its earlier loads are performed, modulo twice the number of slots, and else holds the stream. Each takes ILLEGAL_USE where
R149 says: no slots, rows beyond the slice, a stream waiting; a buffer that is not VALID; a count that R74 does not allow. That CBADV's count is checked before
its wait is the model's choice (log entry 84, DESIGN CHOICE). -/
def Obligations.CircularBuffers : Prop :=
  ∀ (s : State) (c : BitVec 3),
    let b : CircBuf := Map.get {} s.me.cbs c.toNat
    let b0 : CircBuf := if (Map.get {} s.me.cbs0 c.toNat : CircBuf).valid then Map.get {} s.me.cbs0 c.toNat else b
    let filled (b : CircBuf) : Nat := (b.prod.toNat + 2 * b.nSlots.toNat - b.cons.toNat) % (2 * b.nSlots.toNat)
    let put (b : CircBuf) : Out := .next (s.modMe fun u => { u with cbs := Map.set u.cbs c.toNat b }).advance
    let n9 (n : Nat) : BitVec 9 := BitVec.ofNat 9 (n % (2 * b.nSlots.toNat))
    (∀ a : Reg, s.mayIssue onAll [.x a] = true →
        let w := (s.x a).toNat
        let slots := w / 2 ^ 37 % 2 ^ 8
        let rows := if w / 2 ^ 45 % 2 ^ 8 = 0 then 256 else w / 2 ^ 45 % 2 ^ 8
        let base := w / 4 % 2 ^ 17
        (slots ≠ 0 → base + slots * rows ≤ 98304 → s.me.cbWaited c.toNat = false → exec (.cbinit c a) s = put
            { slotRows := BitVec.ofNat 8 (w / 2 ^ 45), nSlots := BitVec.ofNat 8 slots, baseRow := BitVec.ofNat 17 base, prod := 0, cons := 0, valid := true })
          ∧ (slots = 0 ∨ 98304 < base + slots * rows ∨ s.me.cbWaited c.toNat = true → exec (.cbinit c a) s = s.trap cILLEGAL_USE))
      ∧ (s.mayIssue onAll [] = true →
          (∀ n : BitVec 14,
              let waits (i : Instr) (there : Nat) : Prop :=
                (b.valid = true → n.toNat ≤ b.nSlots.toNat → n.toNat ≤ there → exec i s = .next s.advance)
                  ∧ (b.valid = true → n.toNat ≤ b.nSlots.toNat → there < n.toNat → exec i s = (s.modCur fun z => { z with waitN := some c.toNat }).stall rCB_WAIT)
                  ∧ (b.valid = false ∨ b.nSlots.toNat < n.toNat → exec i s = s.trap cILLEGAL_USE)
              waits (.cbwaitf c n) (filled b0) ∧ waits (.cbwaite c n) (b0.nSlots.toNat - filled b0))
            ∧ ∀ k : BitVec 8,
              (b.valid = true → filled b + k.toNat ≤ b.nSlots.toNat →
                  (s.cur.fenced s.ct 1 = true → exec (.cbadv c true k) s = put { b with prod := n9 (b.prod.toNat + k.toNat) })
                    ∧ (s.cur.fenced s.ct 1 = false → exec (.cbadv c true k) s = s.stall rFENCE))
                ∧ (b.valid = true → k.toNat ≤ filled b →
                    ((∀ e, e ∈ s.cur.accs → e.isLoad = false) → exec (.cbadv c false k) s = put { b with cons := n9 (b.cons.toNat + k.toNat) })
                      ∧ ((∃ e, e ∈ s.cur.accs ∧ e.isLoad = true) → exec (.cbadv c false k) s = s.stall rFENCE))
                ∧ (b.valid = false ∨ b.nSlots.toNat < filled b + k.toNat → exec (.cbadv c true k) s = s.trap cILLEGAL_USE)
                ∧ (b.valid = false ∨ filled b < k.toNat → exec (.cbadv c false k) s = s.trap cILLEGAL_USE))

/-- R155 to R159: the barrier instructions. BARINIT makes a barrier VALID with an empty count in phase 0, then counts in order the arrivals held for it, and takes ILLEGAL_USE
on an expectation outside 1 to 65,535 and on a VALID barrier with arrivals or waiters; BARARR puts its arrival into the stream's order as a store with release at the
barrier's scope, or at fabric scope when it is not VALID; BARWAIT goes on when the barrier is VALID and its phase differs from x[xp][15:0], and else waits. A home that is
fenced or of another partition traps. Two clauses are the model's reading: that SCOPE is read when the arrival issues (log entry 15, DEDUCED), and that BARWAIT of another
tile's barrier sees the PHASE as it stands in its own clock (log entry 68, DESIGN CHOICE). R158, R331: BARRIER_ARRIVAL. At a VALID barrier of a resident unit of the
launch the arrival is counted, and the last of a phase completes it: the count returns to 0 and the phase goes up. At one that is not VALID it is held; without that unit
it is parked; without room it is sent again 64 clocks later; of a launch that has completed it is discarded and counted (log entry 69). -/
def Obligations.Barriers : Prop :=
  (∀ (s : State) (a : Reg) (i : BitVec 7),
    let own : Barrier := Map.get {} s.me.bars i.toNat
    let e := (s.x a).toNat
    (∀ c : BitVec 3, s.mayIssue onAll [.x a] = true →
        let arr (b : Barrier) : Barrier := if b.count + 1 = b.expect then { b with count := 0, phase := b.phase + 1 } else { b with count := b.count + 1 }
        let fresh : Barrier := { valid := true, scope := c, expect := BitVec.ofNat 16 e, count := 0, phase := 0 }
        (1 ≤ e → e ≤ 65535 → (own.valid = true → own.count = 0 ∧ s.barWaited s.ct i = false) → exec (.barinit a c i) s = .next
            (s.modMe fun u => { u with
              bars := Map.set u.bars i.toNat ((s.me.barQ.filter fun h => h.idx = i.toNat).foldl (fun b _ => arr b) fresh)
              barQ := u.barQ.filter fun h => h.idx ≠ i.toNat }).advance)
          ∧ (e = 0 ∨ 65535 < e ∨ (own.valid = true ∧ (own.count ≠ 0 ∨ s.barWaited s.ct i = true)) → exec (.barinit a c i) s = s.trap cILLEGAL_USE))
      ∧ ∀ r : Bool,
        let home : TileNo := if r then (s.x a).setWidth 8 else s.ct
        let b : Barrier := Map.get {} (s.tile home).bars i.toNat
        (s.mayIssue onAll [.x a] = true →
            (s.tileFault s.ct home = none → ∃ t x, exec (.bararr a r i) s = .next t ∧ t.mem = s.mem ∧ t.cur = { s.advance.cur with accs := s.cur.accs ++ [x] }
                ∧ x.isStore = true ∧ x.rel = some (if b.valid then b.scope else 6)
                ∧ x.arrive = some { home := home, idx := i.toNat, launch := s.me.launchNo, tile := s.ct, st := s.cs })
              ∧ ∀ f, s.tileFault s.ct home = some f → exec (.bararr a r i) s = s.trap f)
          ∧ ∀ d : Reg, s.mayIssue onAll [.x a, .x d] = true →
              (s.tileFault s.ct home = none → b.valid = true → b.phase ≠ (s.x d).setWidth 16 → exec (.barwait d a r i) s = .next s.advance)
                ∧ (s.tileFault s.ct home = none → b.valid = false ∨ b.phase = (s.x d).setWidth 16 →
                    ∃ t, exec (.barwait d a r i) s = .next t ∧ s.onlyStream t ∧ t.cur.pc = s.cur.pc ∧ t.cur.stall = rBARRIER)
                ∧ ∀ f, s.tileFault s.ct home = some f → exec (.barwait d a r i) s = s.trap f)
    ∧ (∀ (s : State) (a : Arrival), Map.find s.msgs s.ev.id = some (.arrival a) →
    let u := s.tile a.home
    let b : Barrier := Map.get {} u.bars a.idx
    let live : Prop := (Map.get {} s.launches a.launch : Launch).status = 0
    let here : Prop := live ∧ ∃ r, u.unit = some r ∧ r.launch = a.launch
    (here → u.qTakes 4 1 = true → b.valid = true → ∃ t, exec .barrierArrival s = .next t ∧ t.mem = s.mem
        ∧ (b.count + 1 = b.expect → Map.get {} (t.tile a.home).bars a.idx = { b with count := 0, phase := b.phase + 1 })
        ∧ (b.count + 1 ≠ b.expect → Map.get {} (t.tile a.home).bars a.idx = { b with count := b.count + 1 }))
      ∧ (here → u.qTakes 4 1 = true → b.valid = false → ∃ t, exec .barrierArrival s = .next t ∧ (t.tile a.home).barQ = u.barQ ++ [a])
      ∧ (here → u.qTakes 4 1 = false → ∃ t, exec .barrierArrival s = .next t
          ∧ t.timers = s.timers ++ [(s.clock + 64, { op := .barrierResend, ev := { tile := a.tile, id := s.nextId } })]
          ∧ Map.find t.msgs s.nextId = some (.arrival a) ∧ (t.tile a.home).bars = u.bars)
      ∧ (¬ live → exec .barrierArrival s = .next ((s.unsend s.ev.id).countAt a.home 8 1))
      ∧ (live → ¬ here → ∃ t, exec .barrierArrival s = .next t ∧ (t.tile a.home).parked = u.parked ++ [.arrival a] ∧ (t.tile a.home).bars = u.bars)
      ∧ ∃ t, exec .barrierResend s = .next t ∧ t.tiles = s.tiles ∧ t.mem = s.mem ∧ Map.find t.msgs s.nextId = some (.arrival a)
          ∧ t.timers = s.timers ++ [(s.clock + 1 + Config.freeDelay s.fresh, { op := .barrierArrival, ev := { tile := a.home, id := s.nextId } })])

/-- R160 to R162: CSRR reads the register of its number with latency 1; CSRW of FLAGS takes effect at the next tick and a write of any other register is
ignored; a number outside the table is ILLEGAL_USE; EVT never waits and leaves every register and all of memory. -/
def Obligations.StatusRegisters : Prop :=
  ∀ (s : State) (d a : Reg) (i : BitVec 14), s.mayIssue onAll [.x d, .x a] = true → s.hasRoom (.x d) = true →
    let reads (n : BitVec 14) (w : Word) : Prop := exec (.csrr d n) s = .next (s.setX d 1 w).advance
    reads 0 (s.cur.flags.setWidth 64) ∧ reads 1 (s.me.vtype.setWidth 64) ∧ reads 2 (BitVec.ofNat 64 s.me.ttick)
      ∧ reads 3 (match s.cs with | .C => 0 | .V => 1 | .F => 2) ∧ reads 4 (s.ct.setWidth 64) ∧ reads 5 (s.me.vwbase.setWidth 64)
      ∧ (∀ n : BitVec 14, 0x20 ≤ n.toNat → n.toNat ≤ 0x37 → reads n (s.me.planeReg (0x100 + (n.toNat - 0x20))))
      ∧ (∀ n : BitVec 14, 0x100 ≤ n.toNat → n.toNat ≤ 0x17F →
          let b : Barrier := Map.get {} s.me.bars (n.toNat - 0x100)
          ∃ w, reads n w ∧ w.extractLsb' 0 16 = b.phase ∧ w.extractLsb' 16 16 = b.count ∧ w.extractLsb' 32 16 = b.expect ∧ w.extractLsb' 48 3 = b.scope
            ∧ w.getLsbD 63 = b.valid)
      ∧ (∀ n : BitVec 14, 0x10 ≤ n.toNat → n.toNat ≤ 0x17 →
          let b : CircBuf := Map.get {} s.me.cbs (n.toNat - 0x10)
          ∃ w, reads n w ∧ w.getLsbD 0 = b.valid ∧ w.extractLsb' 2 17 = b.baseRow ∧ w.extractLsb' 19 9 = b.cons ∧ w.extractLsb' 28 9 = b.prod
            ∧ w.extractLsb' 37 8 = b.nSlots ∧ w.extractLsb' 45 8 = b.slotRows)
      ∧ ((s.csr i.toNat).isNone = true → exec (.csrr d i) s = s.trap cILLEGAL_USE ∧ exec (.csrw a i) s = s.trap cILLEGAL_USE)
      ∧ exec (.csrw a 0) s = .next (s.modCur fun z => { z with delayed := z.delayed ++ [.flags (s.x a) (s.now + 1)] }).advance
      ∧ ((s.csr i.toNat).isSome = true → i ≠ 0 → exec (.csrw a i) s = .next s.advance)
      ∧ ∃ t : State, exec (.evt a i) s = .next t.advance ∧ t.mem = s.mem ∧ t.cur = s.cur ∧ ∀ n st, (t.tile n).strm st = (s.tile n).strm st

/-- R66, R68, R188, R193: SHAPE answers the status of its record and registers the shape when it is 0; a number that is live has status 1; SHFREE gives a
handle back that no task names; TCLR clears a handle's poison box; a handle that is not live is HANDLE_INVALID. -/
def Obligations.Shapes : Prop :=
  ∀ (s : State) (d a b : Reg) (r : Row), s.mayIssue onC [.x a, .x b, .x d] = true → s.clearOf [.x d] = true →
    let n := (s.x a).toNat % 2 ^ 12
    (s.recordRows (s.x b) [r] →
        exec (.shape d a b) s = .next (((if s.shapeStatus s.ct n r = 0 then s.modMe (fun u => u.register n (shapeOf r)) else s).answer d
            (BitVec.ofNat 64 (s.shapeStatus s.ct n r))).advance)
          ∧ (Map.has s.me.handles n = true → s.shapeStatus s.ct n r = 1)
          ∧ (s.me.register n (shapeOf r)).handle n = some { shape := shapeOf r, cur := (shapeOf r).base })
      ∧ (s.me.handle n = none → exec (.shfree a) s = s.trap cHANDLE_INVALID ∧ exec (.tclr a) s = s.trap cHANDLE_INVALID)
      ∧ (∀ h, s.me.handle n = some h →
          (s.me.handleUsed n = false → ∃ t : State, exec (.shfree a) s = .next t.advance ∧ s.onlyTile t s.ct ∧ t.me.handle n = none
              ∧ ∀ k, k ≠ n → t.me.handle k = s.me.handle k)
            ∧ (s.me.handleUsed n = true → exec (.shfree a) s = s.stall rTWAIT)
            ∧ ∃ t : State, exec (.tclr a) s = .next t.advance ∧ s.onlyTile t s.ct ∧ t.me.handle n = some { h with poison := none }
              ∧ ∀ k, k ≠ n → t.me.handle k = s.me.handle k)

/-- R169, R187, R189: POST reads the three rows of its record and reserves an entry; the task is accepted four clocks later. Without a free entry POST waits
and POST.TRY answers FULL, without reading the record; a malformed record traps with BAD_RECORD. -/
def Obligations.Post : Prop :=
  ∀ (s : State) (d a : Reg) (r0 r1 r2 : Row), s.mayIssue onC [.x a, .x d] = true → s.clearOf [.x d] = true →
    let posted (i : Instr) : Prop :=
      ∃ t : State, exec i s = .next t.advance ∧ t.mem = s.mem ∧ t.me.window = s.me.window
        ∧ t.me.posts = s.me.posts ++ [{ id := s.nextId, due := s.me.eclk + 4, record := recordOf r0 r1 r2, accsBefore := s.nextId }]
        ∧ (d ≠ 0 → t.cur.pending = s.cur.pending ++ [.x d])
    (s.me.window.length + s.me.posts.length < s.me.winlim → s.recordRows (s.x a) [r0, r1, r2] → s.me.malformed r0 r1 r2 false = false → posted (.post d a) ∧ posted (.postTry d a))
      ∧ (s.me.window.length + s.me.posts.length < s.me.winlim → s.recordRows (s.x a) [r0, r1, r2] → s.me.malformed r0 r1 r2 false = true →
          exec (.post d a) s = s.trap cBAD_RECORD ∧ exec (.postTry d a) s = s.trap cBAD_RECORD)
      ∧ (s.me.winlim ≤ s.me.window.length + s.me.posts.length → s.recordAddr (s.x a) 3 →
          exec (.post d a) s = s.stall rWINDOW_FULL ∧ exec (.postTry d a) s = .next (s.answer d (BitVec.ofNat 64 (2 ^ 63 + 1))).advance)

/-- R169 to R171, R174, R184: TASK_ACCEPT. The oldest post that is due enters the window with the next sequence number and its edges to the tasks in
the window, and its POST is answered; without one, a remote post does, when an entry was free before, and its poster in this package is answered. One that
reads a poisoned box leaves CANCELLED at once. -/
def Obligations.TaskAccepted : Prop :=
  ∀ (s : State),
    let t0 := s.ev.tile
    let u := s.tile t0
    u.unit.isSome = true → u.preemptReq = false →
    (∀ p ps, u.posts = p :: ps → p.due ≤ u.eclk → u.poisoned p.record = false → ∃ t k, exec .taskAccept s = .next t ∧ t.mem = s.mem
        ∧ (t.tile t0).window = u.window ++ [k] ∧ (t.tile t0).posts = ps ∧ (t.tile t0).seqCtr = k.seq ∧ (t.tile t0).accCtr = u.accCtr + 1
        ∧ k.seq = (if u.seqCtr = BitVec.allOnes 32 then 1 else u.seqCtr + 1) ∧ k.acc = u.accCtr + 1 ∧ k.record = p.record ∧ k.st = 1 ∧ k.edges = u.edgesOf p.record
        ∧ k.origin = none)
      ∧ (∀ r rs, u.posts = [] → u.remoteQ = r :: rs → s.ev.num = 1 → u.window.length < u.winlim → u.poisoned r.record = false →
          ∃ t k, exec .taskAccept s = .next t ∧ (t.tile t0).window = u.window ++ [k] ∧ (t.tile t0).remoteQ = rs ∧ k.record = r.record ∧ k.origin = some r.origin
            ∧ (r.req.srcPkg = Config.packageNumber.val → ∃ m key, Map.find t.msgs m = some (.reply { req := r.req, status := 0, value := k.seq.setWidth 64, sealKey := key })))
      ∧ (∀ p ps, u.posts = p :: ps → p.due ≤ u.eclk → u.poisoned p.record = true → ∃ t d, exec .taskAccept s = .next t
          ∧ (t.tile t0).done.getLast? = some d ∧ d.acc = u.accCtr + 1 ∧ d.st = 6 ∧ d.fault = cCANCEL_POISON)

/-- R175, R176, R179 to R181, R188, R195: the ends of a task. One that completed leaves DONE, or waits in PUBLISHING when it wrote a new version, with the granules that a
VECTOR or SOFT task or a roll had marked full; a publication makes that version current. A failed one leaves FAILED with its fault code, which is reported (R400) unless
it was where it was met; every task that has not been released and has a RAW or WAW edge to it leaves CANCELLED with CANCEL_DEP, and the write boxes of both poison their
handles. RENAME_ALLOC gives a waiting write box its new version. R172, R177, R180, R183: TASK_RELEASE releases the task that is picked: with its extents good it starts at
its engine, else it fails at once, in the tick of its release (log entry 40, DESIGN CHOICE); a task without an indirect box always has good extents. TASK_CANCEL_STOP lets
a cancelled task of the copy or transpose engine that stands at a restartable boundary leave CANCELLED. -/
def Obligations.TaskEndsAndReleases : Prop :=
  (∀ (s : State) (k : Task),
    let t0 := s.ev.tile
    let u := s.tile t0
    (u.task s.ev.id = some k →
      (k.ended = some 0 → k.endAt ≤ u.eclk → k.st = 2 → k.newVer = [] → exec .taskExit s = .next (s.leave t0 k 4 0))
        ∧ (k.ended = some 0 → k.endAt ≤ u.eclk → k.st = 2 → k.newVer ≠ [] → ∃ t k', exec .taskExit s = .next t ∧ t.mem = s.mem
            ∧ (t.tile t0).task k.acc = some k' ∧ k'.st = 3 ∧ k'.record = k.record ∧ k'.newVer = k.newVer
            ∧ (k.record.fills = false → s.onlyTile t t0)
            ∧ (k.record.fills = true → ∀ g, g ∈ k.marked → keyIsS (16 * g) = true → keyOff (16 * g) / 16 ∉ (t.tile (keyTile (16 * g))).emptyGr))
        ∧ (∀ c, k.ended = some c → c ≠ 0 → k.endAt ≤ u.eclk → u.window.length ≤ 256 → ∃ t, exec .taskFail s = .next t
            ∧ let u' := t.tile t0
              let left (o : Task) (st : BitVec 3) (code : BitVec 16) : Prop :=
                u'.task o.acc = none ∧ ∃ d, d ∈ u'.done ∧ d.acc = o.acc ∧ d.seq = o.seq ∧ d.st = st ∧ d.fault = code
              let poisons (o : Task) : Prop := ∀ x, x ∈ u.boxesOf o.record → x.2.1.write = true → (o.ivs.getD x.1 {}).empty = false →
                ∃ h p, u'.handle x.2.1.handle = some h ∧ h.poison = some p ∧ p.contains (o.ivs.getD x.1 {}) = true
              left k 5 c ∧ poisons k ∧ (c ≠ cTRANSLATION → { code := c, info := t0.toNat } ∈ t.reports)
                ∧ ∀ o, o ∈ u.window → u.task o.acc = some o → o.acc ≠ k.acc → o.st = 1 → (∃ e, e ∈ o.edges ∧ e.kind ≠ .war ∧ e.older = k.acc) →
                    left o 6 cCANCEL_DEP ∧ poisons o)
        ∧ (∀ i a b h, u.mayPublish k = true → k.newVer = [(i, a)] → k.record.box i = some b → u.handle b.handle = some h →
            ∃ t h', exec .publication s = .next t ∧ (t.tile t0).task k.acc = none ∧ (t.tile t0).handle b.handle = some h' ∧ h'.cur = a ∧ h'.shape = h.shape))
      ∧ (∀ i b h a, u.window = [k] → u.boxesOf k.record = [(i, b, h)] → s.renames t0 k i b h = true → s.renamePlace t0 b.handle h = some a →
          ∃ t k', exec .renameAlloc s = .next t ∧ t.mem = s.mem ∧ (t.tile t0).window = [k'] ∧ k'.newVer = k.newVer ++ [(i, a)] ∧ k'.st = k.st
            ∧ (a ≠ h.shape.base → (t.tile t0).pool = u.pool ++ [{ handle := b.handle, base := a, rows := h.shape.footRows a }])
            ∧ (t.tile t0).handles = u.handles))
    ∧ (∀ (s : State) (k : Task),
    let t0 := s.ev.tile
    let u := s.tile t0
    (u.unit.isSome = true → u.preemptReq = false → s.pickReady t0 s.ev.num (s.executorFree t0) = some k →
      let s' := if k.record.eng = 0 then (s.releaseTask t0 k).1.modTask t0 k.acc (fun k => { k with channel := u.freeChannel.getD 0 }) else (s.releaseTask t0 k).1
      ∀ k', (s'.tile t0).task k.acc = some k' →
        ((s.releaseTask t0 k).2 = false → exec .taskRelease s = .next (s'.failTask t0 k' (k'.ended.getD 0)))
          ∧ ((s.releaseTask t0 k).2 = true →
              (k'.record.eng = 1 ∨ (k'.record.eng = 0 ∧ k'.record.channel = false) → exec .taskRelease s = .next (s'.startCopy t0 k'))
                ∧ (k'.record.eng = 0 → k'.record.channel = true → exec .taskRelease s = .next (s'.startChannel t0 k'))
                ∧ (k'.record.eng = 2 → k'.record.op = 0 → exec .taskRelease s = .next (s'.startMatmul t0 k'))
                ∧ (k'.record.eng = 2 → k'.record.op ≠ 0 → exec .taskRelease s = .next (s'.startRoll t0 k'))
                ∧ (3 ≤ k'.record.eng → exec .taskRelease s = .next (s'.startColl t0 k'))))
      ∧ ((∀ x, x ∈ u.boxesOf k.record → x.2.1.idim = 0) → u.task k.acc = some k →
          (s.releaseTask t0 k).2 = true ∧ ∃ k', ((s.releaseTask t0 k).1.tile t0).task k.acc = some k' ∧ k'.st = 2 ∧ k'.record = k.record)
      ∧ (u.task s.ev.id = some k → k.cancel = true → k.st = 2 →
          k.record.eng = 1 ∨ (k.record.eng = 0 ∧ (k.record.indexed = false ∨ k.rowIdx = 0 ∨ k.suspended = true)) → exec .taskCancelStop s = .next (s.leave t0 k 6 k.fault)))

/-- R191, R192, R194, R195: TWAIT answers once no task accepted up to the one it names is in the window: 0, or the sequence number of the earliest that did not
end DONE; when no accepted task bears that number it waits for the POSTs under way, then for every accepted task. TSTAT answers the state, fault and flags of
the task, or 0. TACQ hands over the picked task of its class, with P0 to P3, the addresses of its boxes' first elements in their bound versions, its number and OP,
answers 0 when none can come, and waits else. TEND ends the task that its stream holds. -/
def Obligations.TaskInstructions : Prop :=
  ∀ (s : State) (d a : Reg),
    let past (n : Nat) : Prop := ∀ o, o ∈ s.me.window → n < o.acc
    let bad (n : Nat) : Word := match s.me.firstBad with
      | some b => if b.1 ≤ n then b.2.setWidth 64 else 0
      | none => 0
    let marked (n : Nat) : State := s.modCur fun z => { z with waitN := some n }
    (s.mayIssue onC [.x a, .x d] = true → s.clearOf [.x d] = true →
      let named := s.me.accOf ((s.x a).toNat % 2 ^ 32)
      (∀ n, (s.cur.waitN = none ∧ named = some n) ∨ (s.cur.waitN = some n ∧ n ≠ twaitMark) →
          (past n → exec (.twait d a) s = .next (s.answer d (bad n)).advance) ∧ (¬ past n → exec (.twait d a) s = s.stall rTWAIT))
        ∧ ((s.cur.waitN = none ∧ named = none) ∨ s.cur.waitN = some twaitMark →
            (s.me.posts ≠ [] → exec (.twait d a) s = (marked twaitMark).stall rTWAIT)
              ∧ (s.me.posts = [] → s.me.accCtr = 0 → exec (.twait d a) s = .next (s.answer d 0).advance)
              ∧ (s.me.posts = [] → s.me.accCtr ≠ 0 → past s.me.accCtr → exec (.twait d a) s = .next ((marked s.me.accCtr).answer d (bad s.me.accCtr)).advance)
              ∧ (s.me.posts = [] → s.me.accCtr ≠ 0 → ¬ past s.me.accCtr → exec (.twait d a) s = (marked s.me.accCtr).stall rTWAIT))
        ∧ ∃ w, exec (.tstat d a) s = .next (s.answer d w).advance
            ∧ let is (n : BitVec 32) : Bool := n = (s.x a).setWidth 32
              (∀ k : Task, (s.me.window.filter fun o => is o.seq).getLast? = some k → w.extractLsb' 0 3 = k.st ∧ w.extractLsb' 8 16 = 0 ∧ w.extractLsb' 24 6 = k.flags)
                ∧ ((s.me.window.filter fun o => is o.seq) = [] → ∀ k : DoneTask, (s.me.done.filter fun o => is o.seq).getLast? = some k →
                    w.extractLsb' 0 3 = k.st ∧ w.extractLsb' 8 16 = k.fault ∧ w.extractLsb' 24 6 = k.flags)
                ∧ ((s.me.window.filter fun o => is o.seq) = [] → (s.me.done.filter fun o => is o.seq) = [] → w = 0))
      ∧ (∀ c : BitVec 3, s.mayIssue onAll (tacqDests d) = true → s.clearOf (tacqDests d) = true →
          let legal : Prop := d = 0 ∨ 8 < d.toNat
          let may : Prop := legal ∧ (c = 4 ∨ (c = 3 ∧ s.cs = .V)) ∧ s.cur.heldTask = none
          let taken : Prop := (c = 3 ∧ ∃ o, o ∈ s.me.window ∧ o.record.eng = 3 ∧ o.st = 2) ∨ (c = 4 ∧ s.me.softAt = some s.me.eclk)
          let pick := s.pickReady s.ct c.toNat fun _ => true
          (∀ k, may → ¬ taken → pick = some k → s.me.task k.acc = some k →
              ((s.releaseTask s.ct k).2 = true → ∃ (t : State) (k' : Task) (w : Await), exec (.tacq d c) s = .next t.advance
                  ∧ t.cur.heldTask = some k.acc ∧ t.me.task k.acc = some k' ∧ k'.st = 2 ∧ k'.record = k.record ∧ k'.holder = some s.cs
                  ∧ t.cur.awaits = s.cur.awaits ++ [w]
                  ∧ w.dests = (List.range 8).map (fun i => Dest.x (BitVec.ofNat 5 (i + 1))) ++ [.x d]
                  ∧ let first (i : Nat) : Word := match (s.me.boxesOf k.record).find? fun b => b.1 = i with
                      | none => 0
                      | some b =>
                        let v := k'.ivs.getD i {}
                        let h := b.2.2.shape
                        BitVec.ofNat 64 (if h.layout then (h.planarAt (k'.bases.getD i 0) v.l0 v.l1 v.l2).1 else (h.packedAt (k'.bases.getD i 0) v.l0 v.l1 v.l2).1)
                    w.vals = [k.record.p0, k.record.p1, k.record.p2, k.record.p3, first 0, first 1, first 2, first 3,
                      BitVec.ofNat 64 (k.seq.toNat + k.record.op * 2 ^ 32)].map fun (x : Word) => x.setWidth 4096)
                ∧ ((s.releaseTask s.ct k).2 = false → ∃ t, exec (.tacq d c) s = .next t ∧ t.cur.pc = s.cur.pc ∧ t.cur.stall = rTASK_IDLE))
            ∧ (may → taken ∨ pick = none →
                (s.me.drained c.toNat = true → exec (.tacq d c) s = .next
                    ((s.modMe fun u => if c = 3 then { u with drainedV := true } else { u with drainedS := true }).answer d 0).advance)
                  ∧ (s.me.drained c.toNat = false → exec (.tacq d c) s = s.stall rTASK_IDLE))
            ∧ (¬ legal ∨ (c ≠ 3 ∧ c ≠ 4) → exec (.tacq d c) s = s.trap cILLEGAL_ENCODING)
            ∧ (legal → (c = 3 ∧ s.cs ≠ .V) ∨ ((c = 3 ∨ c = 4) ∧ s.cur.heldTask ≠ none) → exec (.tacq d c) s = s.trap cILLEGAL_USE))
      ∧ (s.mayIssue onAll [.x a] = true → (s.cur.heldTask = none → exec (.tend a) s = s.trap cILLEGAL_USE)
          ∧ ∀ i, s.cur.heldTask = some i → (s.cur.fenced s.ct 4 = false → exec (.tend a) s = s.stall rFENCE)
            ∧ (s.cur.fenced s.ct 4 = true → ∃ t : State, exec (.tend a) s = .next t.advance ∧ t.cur.heldTask = none ∧ t.mem = s.mem
              ∧ ∀ o, s.me.task i = some o → o.ended = none → t.me.task i = some { o with ended := some (if s.x a = 0 then 0 else cTASK_SOFT), endAt := s.me.eclk + 1 }))

/-- R199, R336: the work deque. DQPUSH appends at the bottom or answers 1 without room; DQPOP takes from the bottom; DQSTEAL takes its turn at the end of the clock (log entry
32, DEDUCED): it removes the top of a tile's deque and answers it, or answers EMPTY, LOST or NORES, and waits at a frozen tile; of two for one last item the first has it
and the other LOST. R29, R195, R198: END ends its stream, whose results in flight and stores go on and whose interlocked loads are discarded, and a task that it holds
fails with TASK_ABANDONED; CANCEL of the own unit or launch is applied late in the clock; CREAD answers a level's counter and status, CWAIT a child launch's once it is
over and ILLEGAL_USE at a level that contains the unit; an operand that names no member takes ILLEGAL_USE, and CANCEL of a job PRIVILEGE. -/
def Obligations.DequeAndLevels : Prop :=
  (∀ (s : State) (d a : Reg), s.mayIssue onC [.x a, .x d] = true → s.clearOf [.x d] = true →
    ((s.x a).getLsbD 63 = false → s.me.qTakes 0 1 = true →
        exec (.dqpush d a) s = .next ((s.modMe fun u => { u with deque := u.deque ++ [s.x a], queueAdded := true }).answer d 0).advance)
      ∧ ((s.x a).getLsbD 63 = false → s.me.qTakes 0 1 = false → exec (.dqpush d a) s = .next (s.answer d 1).advance)
      ∧ ((s.x a).getLsbD 63 = true → exec (.dqpush d a) s = s.trap cILLEGAL_USE)
      ∧ (∀ ws w, s.me.deque = ws ++ [w] → ∃ t : State, exec (.dqpop d) s = .next (t.answer d w).advance ∧ s.onlyTile t s.ct ∧ t.me.deque = ws)
      ∧ (s.me.deque = [] → exec (.dqpop d) s = .next (s.answer d (2 ^ 63)).advance)
      ∧ (s.tileFault s.ct ((s.x a).setWidth 8) = none → ∃ t : State, exec (.dqsteal d a) s = .next t.advance ∧ t.mem = s.mem
          ∧ t.steals = s.steals ++ [{ thief := s.ct, st := s.cs, id := s.nextId, victim := (s.x a).setWidth 8 }])
      ∧ (∀ f, s.tileFault s.ct ((s.x a).setWidth 8) = some f → exec (.dqsteal d a) s = s.trap f)
      ∧ (∀ q : Steal,
          let u := s.tile q.victim
          let same : Prop := u.unit.isSome = true ∧ u.launchNo = (s.tile q.thief).launchNo
          let t := s.doSteal q
          let gave (w : Word) : Prop := ∀ x, x ∈ (s.strmOf q.thief q.st).awaits → x.id = q.id →
            { x with vals := [w.setWidth 4096], ready := true } ∈ (t.strmOf q.thief q.st).awaits
          (u.frozen = true → t = { s with steals := s.steals ++ [q] })
            ∧ (u.frozen = false → ¬ same → gave (2 ^ 63 + 2) ∧ (t.tile q.victim).deque = u.deque)
            ∧ (∀ w ws, u.frozen = false → same → u.deque = w :: ws → gave w ∧ (t.tile q.victim).deque = ws)
            ∧ (u.frozen = false → same → u.deque = [] → gave (if u.dequeEmpty then 2 ^ 63 else 2 ^ 63 + 1) ∧ (t.tile q.victim).deque = []))
      ∧ ∀ (p q : Steal) (w : Word) (x y : Await), s.steals = [p, q] → p.victim = q.victim → p.id ≠ q.id →
          let u := s.tile p.victim
          u.unit.isSome = true → u.frozen = false → u.launchNo = (s.tile p.thief).launchNo → u.launchNo = (s.tile q.thief).launchNo →
          u.deque = [w] → u.dequeEmpty = false → x ∈ (s.strmOf p.thief p.st).awaits → x.id = p.id → y ∈ (s.strmOf q.thief q.st).awaits → y.id = q.id →
          { x with vals := [w.setWidth 4096], ready := true } ∈ (s.doSteals.strmOf p.thief p.st).awaits
            ∧ { y with vals := [((2 ^ 63 + 1 : Word)).setWidth 4096], ready := true } ∈ (s.doSteals.strmOf q.thief q.st).awaits)
    ∧ (∀ (s : State) (d a : Reg) (l : BitVec 3) (m : Nat),
    (s.mayIssue onAll [] = true → s.cur.heldTask = none → ∃ t, exec .endStream s = .next t ∧ s.onlyStream t ∧ t.cur.mode = .ended ∧ t.cur.flights = s.cur.flights
        ∧ t.cur.x = s.cur.x ∧ t.cur.flags = s.cur.flags ∧ t.cur.awaits = [] ∧ t.cur.pending = [] ∧ t.cur.accs = s.cur.accs.map (fun e => if s.cur.flights.any fun f => some f.id = e.sink then e else { e with sink := none }))
      ∧ (∀ i o, s.mayIssue onAll [] = true → s.cur.heldTask = some i → s.me.task i = some o → o.ended = none → ∃ t, exec .endStream s = .next t ∧ t.cur.mode = .ended
          ∧ t.me.task i = some { o with ended := some cTASK_ABANDONED, endAt := 0 })
      ∧ (s.mayIssue onC [.x a] = true → l.toNat ≤ 3 → s.levelMember l (s.x a) = some m →
          exec (.cancel a l) s = .next (s.postLate { op := .cancelStop, ev := { tile := s.ct, num := 1, aux := l.toNat, id := m } }).advance)
      ∧ (s.mayIssue onC [.x a] = true → exec (.cancel a 4) s = s.trap cPRIVILEGE)
      ∧ (s.mayIssue onC [.x a, .x d] = true → s.clearOf [.x d] = true → s.levelMember l (s.x a) = none →
          (l.toNat ≤ 3 → exec (.cancel a l) s = s.trap cILLEGAL_USE)
            ∧ (l.toNat ≤ 4 → exec (.cread d a l) s = s.trap cILLEGAL_USE ∧ exec (.cwait d a l) s = s.trap cILLEGAL_USE))
      ∧ (s.mayIssue onC [.x a, .x d] = true → s.clearOf [.x d] = true → l.toNat ≤ 4 → s.levelMember l (s.x a) = some m →
          exec (.cread d a l) s = .next (s.answer d (s.levelWord l m)).advance
            ∧ ((s.x a).toNat % 2 ^ 32 ≠ 0 → (s.launch m).status ≠ 0 → exec (.cwait d a l) s = .next (s.answer d (s.levelWord l m)).advance)
            ∧ ((s.x a).toNat % 2 ^ 32 ≠ 0 → (s.launch m).status = 0 → exec (.cwait d a l) s = s.stall rBARRIER)
            ∧ ((s.x a).toNat % 2 ^ 32 = 0 → exec (.cwait d a l) s = s.trap cILLEGAL_USE)))

/-- R20 to R23, R29, R354: CANCEL_STOP stops every stream of the unit of a tile, or applies a CANCEL at its level; a unit with no member left retires: the tile is free, its
barriers, buffers, deque and conditional queue are gone, and the launch has one unit less and, at the top of its hierarchy, takes its status. -/
def Obligations.UnitStopsAndRetires : Prop :=
  ∀ (s : State) (r : UnitRes),
    let t0 := s.ev.tile
    (s.tile t0).unit = some r →
    ((s.ev.num = 0 ∨ s.ev.aux = 0) → ∃ t, exec .cancelStop s = .next t
        ∧ ∀ st, ((t.tile t0).strm st).mode = .ended ∨ ((t.tile t0).strm st).mode = .noEntry)
      ∧ ((s.tile t0).unitOver = true → ∃ t, exec .unitRetire s = .next t ∧ t.mem = s.mem ∧ (t.tile t0).unit = none ∧ (t.tile t0).bars = [] ∧ (t.tile t0).cbs = []
          ∧ (t.tile t0).deque = [] ∧ (t.tile t0).condQ = []
          ∧ (t.launch r.launch).unitsLeft = (s.launch r.launch).unitsLeft - 1
          ∧ ((s.launch r.launch).parent = none →
              (t.launch r.launch).worst = worse (s.launch r.launch).worst (if r.cancelled then 3 else if r.failed then 2 else 1)))
      ∧ (s.ev.num ≠ 0 → (s.ev.aux = 1 → exec .cancelStop s = .next (s.cancelLaunch s.depth s.ev.id)) ∧ (s.ev.aux = 2 → exec .cancelStop s = .next (s.cancelGraph s.ev.id))
          ∧ (s.ev.aux = 3 → exec .cancelStop s = .next (s.cancelPhase s.ev.id)) ∧ (s.ev.aux = 4 → exec .cancelStop s = .next (s.cancelJob s.ev.id)))

/-- R190, R285, R287 to R292, R376: the remote instructions. A window address that fails its checks traps; without a free tag the stream waits; else the request leaves
with the registers read at issue and the lowest free tag, and stands among the stream's accesses. The stream goes on with its destinations pending, or, with rd x0,
waits until the result has come. Memory is as before. Two traps are the model's reading: WINDOW_LIMIT for a RENQ whose node passes the limit (log entry 31,
DEDUCED; R291 names no fault) and the TRANSLATION trap where the window entry itself does not translate (log entry 29, DEDUCED). -/
def Obligations.RemoteInstructions : Prop :=
  ∀ (s : State) (q qb : QReg) (d a b c : Reg) (i : BitVec 13) (ql : Option Qual) (op : BitVec 4) (w64 : Bool) (wm : BitVec 8) (n : BitVec 2),
    let sent (x : Instr) (e : BitVec 256) (waits : Bool) (ds : List Dest) (na out : Nat) (k : Request → Prop) : Prop :=
      (s.freeTx = none → exec x s = s.stall rREMOTE_ACK)
      ∧ ∀ tag, s.freeTx = some tag → ∃ (t : State) (r : Request) (g : Access) (m : Nat), exec x s = .next t ∧ t.mem = s.mem ∧ t.cur.x = s.cur.x ∧ t.cur.q = s.cur.q
        ∧ t.cur.flags = s.cur.flags ∧ t.cur.flights = s.cur.flights ∧ t.cur.pending = s.cur.pending ++ pendable ds ∧ t.cur.accs = s.cur.accs ++ [g] ∧ g.id = r.acc
        ∧ t.cur.naOut = s.cur.naOut ++ List.replicate na r.acc ∧ t.cur.remoteOut = s.cur.remoteOut ++ List.replicate out r.acc
        ∧ (waits = false → t.cur.pc = s.advance.cur.pc ∧ t.cur.rep = s.advance.cur.rep ∧ t.cur.stall = rISSUED)
        ∧ (waits = true → t.cur.pc = s.cur.pc ∧ t.cur.rep = s.cur.rep ∧ t.cur.stall = rREMOTE_ACK ∧ t.cur.issuedWait = some s.nextId)
        ∧ (Map.get {} t.txTags tag : TxTag).busy = some r ∧ Map.find t.msgs m = some (.request r)
        ∧ r.tag = tag ∧ r.tile = s.ct ∧ r.st = s.cs ∧ r.time = s.fabric ∧ r.entry = e ∧ k r
        ∧ (ds ≠ [] → r.await = s.nextId ∧ ∃ w, t.cur.awaits = s.cur.awaits ++ [w] ∧ w.id = s.nextId ∧ w.dests = ds ∧ w.ready = false)
        ∧ t.timers = s.timers ++ [(s.clock + 1 + Config.freeDelay (s.fresh + 64),
            { op := if r.kind = .rpost then .remotePostArrival else .remoteRequest, ev := { tile := r.target, id := m } })]
    let w := s.winAddr b i
    let wa := s.x a
    let row (w : Word) : Nat := winOff w / 64 * 64
    (winHandle w = (s.x b).toNat / 2 ^ 48 ∧ winOff w = ((((s.x b).toNat % 2 ^ 48 : Nat) : Int) + i.toInt * 64) % 2 ^ 48)
      ∧ (s.mayIssue onCF [.x b, .q q] = true → s.clearOf [.q q] = true →
          (∀ e, s.winCheck w 5 = .ok e → sent (.rldq q b i ql) e false [.q q] 0 0 fun r => r.kind = .rldq ∧ r.offset = row w)
            ∧ (∀ e, s.winCheck w 6 = .ok e → sent (.rstq q b i ql) e false [.q q] 0 1 fun r => r.kind = .rstq ∧ r.offset = row w ∧ r.data = s.q q)
            ∧ ∀ f, (s.winCheck w 5 = .error f → exec (.rldq q b i ql) s = s.trapWin f w) ∧ (s.winCheck w 6 = .error f → exec (.rstq q b i ql) s = s.trapWin f w))
      ∧ (s.mayIssue onCF [.q q, .x b] = true →
          (∀ e, s.winCheck w 6 = .ok e →
            (s.cur.naOut.length < 64 → sent (.rstqNa q b i ql) e false [] 1 0 fun r => r.kind = .rstqNa ∧ r.offset = row w ∧ r.data = s.q q)
              ∧ (64 ≤ s.cur.naOut.length → exec (.rstqNa q b i ql) s = s.stall rREMOTE_ACK))
            ∧ ∀ f, s.winCheck w 6 = .error f → exec (.rstqNa q b i ql) s = s.trapWin f w)
      ∧ (s.cur.issuedWait = none → s.mayIssue onCF [.x a, .x d, .q q] = true → s.clearOf [.x d, .q q] = true →
          (∀ e, s.winCheck wa 7 = .ok e → (winOff wa % 8 = 0 → sent (.ramo d a q op w64 wm) e (d = 0) [.x d, .q q] 0 1 fun r =>
              r.kind = .ramo ∧ r.offset = row wa ∧ r.data = s.q q ∧ r.amoOp = op ∧ r.w64 = w64 ∧ r.wm = wm)
              ∧ (winOff wa % 8 ≠ 0 → exec (.ramo d a q op w64 wm) s = s.trap cILLEGAL_USE))
            ∧ ∀ f, s.winCheck wa 7 = .error f → exec (.ramo d a q op w64 wm) s = s.trapWin f wa)
      ∧ (s.cur.issuedWait = none → s.mayIssue onCF [.q qb, .x d, .q q] = true → s.clearOf [.x d, .q q] = true →
          let wd (j : Nat) : Word := (s.q qb).extractLsb' (64 * j) 64
          let page (e : BitVec 256) (u : Word) : Nat := (wBase e + winOff u) % 2 ^ 56 / 2 ^ 16
          let good (e : BitVec 256) : Prop := (∀ j, j ≤ n.toNat → winHandle (wd j) = winHandle (wd 0) ∧ page e (wd j) = page e (wd 0) ∧ winOff (wd j) % 8 = 0)
            ∧ ∀ j k, j < k → k ≤ n.toNat → winOff (wd j) ≠ winOff (wd k)
          (∀ e, s.winCheck (wd 0) 7 = .ok e → (∀ j, j ≤ n.toNat → ∃ e', s.winCheck (wd j) 7 = .ok e') →
              (good e → sent (.rcas d q qb n) e (d = 0) [.x d, .q q] 0 1 fun r =>
                  r.kind = .rcas ∧ r.offs = (List.range (n.toNat + 1)).map (fun j => winOff (wd j)) ∧ r.data = s.q q)
                ∧ (¬ good e → exec (.rcas d q qb n) s = s.trap cILLEGAL_USE))
            ∧ ∀ j f, j ≤ n.toNat → (∀ k, k < j → ∃ e', s.winCheck (wd k) 7 = .ok e') → s.winCheck (wd j) 7 = .error f → exec (.rcas d q qb n) s = s.trapWin f (wd j))
      ∧ (s.cur.issuedWait = none → s.mayIssue onCF [.x a, .x b, .x d] = true → s.clearOf [.x d] = true →
          let k := winOff (s.x b)
          (∀ e, s.winCheck wa 7 = .ok e → (winOff wa % 8 = 0 ∧ k % 8 = 0 ∧ k ≠ 0 →
                (k + 8 ≤ wLimit e → sent (.renq d a b) e (d = 0) [.x d] 0 1 fun r => r.kind = .renq ∧ r.offset = row wa ∧ r.n = k)
                  ∧ (wLimit e < k + 8 → exec (.renq d a b) s = s.trapAddr cWINDOW_LIMIT (BitVec.ofNat 64 (winHandle wa * 2 ^ 48 + k))))
              ∧ (¬ (winOff wa % 8 = 0 ∧ k % 8 = 0 ∧ k ≠ 0) → exec (.renq d a b) s = s.trap cILLEGAL_USE))
            ∧ ∀ f, s.winCheck wa 7 = .error f → exec (.renq d a b) s = s.trapWin f wa)
      ∧ (s.cur.issuedWait = none → s.mayIssue onCF [.x a, .x b, .x c, .x d] = true → s.clearOf [.x d] = true →
          let k := s.x b
          let good : Prop := winOff wa % 8 = 0 ∧ winOff wa ≠ 0 ∧ k.extractLsb' 4 4 = 0 ∧ k.getLsbD 11 = false ∧ k.getLsbD 15 = false ∧ k.toNat < 2 ^ 17
          (∀ e, s.winCheck wa 5 = .ok e →
              (good → sent (.rchase d a b c) e (d = 0) [.x d] 0 1 fun r => r.kind = .rchase ∧ r.n = winOff wa ∧ r.ctl = k ∧ r.key = s.x c)
                ∧ (¬ good → exec (.rchase d a b c) s = s.trap cILLEGAL_USE))
            ∧ ∀ f, s.winCheck wa 5 = .error f → exec (.rchase d a b c) s = s.trapWin f wa)
      ∧ (∀ j y, s.cur.issuedWait = some j → ∀ x, x ∈ [Instr.ramo 0 a q op w64 wm, .rcas 0 q qb n, .renq 0 a b, .rchase 0 a b c, .rpost 0 a b y] →
          ((∀ y, y ∈ s.cur.awaits → y.id ≠ j) → exec x s = .next s.advance) ∧ ((∃ y, y ∈ s.cur.awaits ∧ y.id = j) → exec x s = s.stall rREMOTE_ACK))
      ∧ (∀ rs y, s.cur.issuedWait = none → s.mayIssue onC [.x a, .x b, .x d] = true → s.clearOf [.x d] = true → rs.length = 3 → s.recordRows (s.x a) rs →
          (s.winEntry s.ct ((s.x b).toNat % 2 ^ 16) = none → exec (.rpost d a b y) s = s.trapAddr cWINDOW_RANGE (s.x b))
            ∧ (∀ f, s.winEntry s.ct ((s.x b).toNat % 2 ^ 16) = some (.error f) → exec (.rpost d a b y) s = s.trapG (s.x b) f)
            ∧ ∀ e, s.winEntry s.ct ((s.x b).toNat % 2 ^ 16) = some (.ok e) →
              sent (.rpost d a b y) e (d = 0) [.x d] 0 1 fun r => r.kind = .rpost ∧ r.rows = rs ∧ r.target = (s.x b).extractLsb' 16 8 ∧ r.try_ = y)

/-- R286 to R292: REMOTE_REQUEST. A request that is not too old and that its stream's order lets be performed leaves its stream's queue and is served at its target; so is
a request of another package, whose ORIGIN addition is added to its word. Served, it acts on memory as its kind says and is answered, under the key of its slot when it is sealed; one that is refused, that
names an address its target cannot translate or reads a row with an uncorrectable error acts on nothing and is answered with its status. A reply to another
package takes a path of its own choice (R380). A request of another package that is too old is dropped and counted (R378), and one package's report that its unit
has stopped cancels what that unit posted here (R185). What a peer package holds and refuses is a free value, and the form of its messages the model's choice (log entry
6); so is the answer FAULT for a row that cannot be read (log entry 64, DESIGN CHOICE). -/
def Obligations.RemoteEffects : Prop :=
  ∀ (s : State) (r : Request),
    (Map.find s.msgs s.ev.id = some (.request r) → s.aged r.time = false → s.requestMay r s.ev.id = true →
        let g := (s.unsend s.ev.id).requestGone r
        exec .remoteRequest s = .next (g.serve r) ∧ g.mem = s.mem ∧ g.ecc = s.ecc ∧ Map.find g.msgs s.ev.id = none
          ∧ (∀ y, y ∈ (g.strmOf r.tile r.st).accs → y.id ≠ r.acc)
          ∧ (g.strmOf r.tile r.st).x = (s.strmOf r.tile r.st).x ∧ (g.strmOf r.tile r.st).q = (s.strmOf r.tile r.st).q)
      ∧ (Map.find s.msgs s.ev.id = some (.request r) → s.aged r.time = false → s.requestMay r s.ev.id = false → exec .remoteRequest s = .next (s.retry .remoteRequest))
      ∧ (s.ev.id = 0 → Map.find s.msgs 0 = none → s.ev.rows ≠ [] → s.ev.num ≠ 7 → s.ev.num ≠ 8 → r = peerRequest s.ev → wPeer r.entry = Config.packageNumber.val →
          r.srcPkg ≠ Config.packageNumber.val → (s.aged r.time = false → exec .remoteRequest s = .next (s.serve r))
            ∧ (s.aged r.time = true → exec .remoteRequest s = .next (s.dropAged (wCtx r.entry)) ∧ (s.dropAged (wCtx r.entry)).mem = s.mem))
      ∧ (s.ev.id = 0 → Map.find s.msgs 0 = none → s.ev.rows ≠ [] → s.ev.num = 8 → s.ev.aux ≠ Config.packageNumber.val →
          exec .remoteRequest s = .next (s.cancelPosted fun o => o.pkg = s.ev.aux && o.tile = s.ev.w0.extractLsb' 0 8
            && o.launch = (s.ev.w0.extractLsb' 8 32).toNat && o.unit = (s.ev.w0.extractLsb' 40 24).toNat))
      ∧ (s.ev.id = 0 → Map.find s.msgs 0 = none → s.ev.rows ≠ [] → s.ev.num = 7 → s.sFault s.ev.tile s.ev.w0.toNat = none →
          exec .remoteRequest s = .next (s.addWord s.ev.w0.toNat s.ev.w1))
      ∧ (let own : Bool := wPeer r.entry = Config.packageNumber.val
         let os := upToFail (s.requestTarget r) (r.touches s.mem (s.requestTarget r))
         let s1 : State := if own then os.foldl (fun s o => s.hubUsed hubMem (wCtx r.entry) (BitVec.ofNat 64 ((wBase r.entry + o) % 2 ^ 56))
           (r.kind ≠ .rstq && r.kind ≠ .rstqNa) (r.kind ≠ .rldq && r.kind ≠ .rchase)) s else s
         let at_ := s1.requestTarget r
         let word (x : Row) (j : Nat) : Word := x.extractLsb' (64 * j) 64
         let replied (st : BitVec 3) (v : Word) (x : Row) (m : List Host.Cell) : Prop :=
           let p : Reply := { req := r, status := st, value := v, row := x, sealKey := if own then (s.sealFor r.entry).2 else none }
           (s.serve r).mem = m ∧ (r.srcPkg = Config.packageNumber.val → Map.find (s.serve r).msgs s.nextId = some (.reply p))
             ∧ (r.srcPkg ≠ Config.packageNumber.val → (s.serve r).outReplies = match s.choosePath r.srcPkg (wOrdered r.entry) with
               | some y => s.outReplies ++ [{ p with path := some y }]
               | none => s.outReplies)
         let answers (st : BitVec 3) (v : Word) (x : Row) (m : List Host.Cell) : Prop :=
           replied (if own = true ∧ wSealed r.entry = true ∧ (s.seal (wSlot r.entry)).isNone = true then 3 else st) v x m
         (s.refusal r ≠ 0 → replied (s.refusal r) 0 0 s.mem)
           ∧ (s.refusal r = 0 → own = true → r.kind ≠ .rstq → r.kind ≠ .rstqNa → (∃ o k, o ∈ os ∧ at_ o = .ok k ∧ Map.find s.ecc (k / 64 * 64) = some true) → answers 2 0 0 s.mem)
           ∧ (s.refusal r = 0 → (own = true → r.kind ≠ .rstq → r.kind ≠ .rstqNa → ∀ o k, o ∈ os → at_ o = .ok k → Map.find s.ecc (k / 64 * 64) ≠ some true) →
             (∀ f, at_ r.offset = .error f → r.kind = .rldq ∨ r.kind = .rstq ∨ r.kind = .rstqNa ∨ r.kind = .ramo ∨ r.kind = .renq → answers f 0 0 s.mem)
               ∧ (∀ k, at_ r.offset = .ok k →
                   (r.kind = .rldq → answers 0 0 (s.row k) s.mem)
                     ∧ (r.kind = .rstq ∨ r.kind = .rstqNa → answers 0 0 0 (Mem.setRow s.mem k r.data))
                     ∧ (r.kind = .ramo → answers 0 0 (s.row k) (((Rmw.amo r.amoOp r.w64 r.wm r.data).apply (s.row k)).elim s.mem (Mem.setRow s.mem k)))
                     ∧ (r.kind = .renq →
                         let tl := (word (s.row k) 1).toNat
                         let good : Prop := tl = 0 ∨ (tl % 8 = 0 ∧ tl + 8 ≤ wLimit r.entry)
                         (¬ good → answers 6 0 0 s.mem)
                           ∧ (∀ f, good → at_ r.n = .error f ∨ ((∃ kn, at_ r.n = .ok kn) ∧ tl ≠ 0 ∧ at_ tl = .error f) → answers f 0 0 s.mem)
                           ∧ ∀ kn kt, good → at_ r.n = .ok kn → (tl = 0 → kt = k) → (tl ≠ 0 → at_ tl = .ok kt) →
                             let m := Mem.writeN (Mem.writeN (Mem.writeN s.mem kn 0 8) kt r.n 8) (k + 8) r.n 8
                             answers 0 (word (s.row k) 1) 0 (Mem.writeN m (k + 16) (Mem.word m (k + 16) + 1).toNat 8)))
               ∧ (r.kind = .rcas →
                   (∀ f, r.offs.mapM at_ = .error f → answers f 0 0 s.mem)
                     ∧ ∀ ks, r.offs.mapM at_ = .ok ks → ks.length ≤ 4 →
                       let same := ∀ j, j < ks.length → Mem.word s.mem (ks.getD j 0) = word r.data j
                       ∃ x : Row, (∀ j, j < ks.length → word x j = Mem.word s.mem (ks.getD j 0)) ∧ (∀ j, ks.length ≤ j → j < 8 → word x j = word r.data j)
                         ∧ (same → answers 0 1 x ((List.range ks.length).foldl (fun m j => Mem.writeN m (ks.getD j 0) (word r.data (4 + j)).toNat 8) s.mem))
                         ∧ (¬ same → answers 0 0 x s.mem))
               ∧ (∀ f, r.kind = .rchase → at_ (r.n / 64 * 64) = .error f → answers f 0 0 s.mem)
               ∧ (r.kind = .rchase → ∀ (p : Nat → Nat) (k : Nat → Nat) (j : Nat), p 0 = r.n → j ≤ (r.ctl.extractLsb' 0 4).toNat → (∀ i, i ≤ j → at_ (p i / 64 * 64) = .ok (k i)) →
                   let hit (i : Nat) : Prop := r.ctl.getLsbD 16 = true ∧ word (s.row (k i)) (r.ctl.extractLsb' 12 3).toNat = r.key
                   let nx (i : Nat) : Nat := (word (s.row (k i)) (r.ctl.extractLsb' 8 3).toNat).toNat
                   let fits (i : Nat) : Prop := nx i % 8 = 0 ∧ nx i + 64 ≤ wLimit r.entry
                   (∀ i, i < j → ¬ hit i ∧ nx i ≠ 0 ∧ fits i ∧ p (i + 1) = nx i) →
                   (hit j → answers 0 (BitVec.ofNat 64 (p j + (j + 1) * 2 ^ 48)) 0 s.mem)
                     ∧ (¬ hit j → nx j = 0 → answers 0 (BitVec.ofNat 64 (p j + (j + 1) * 2 ^ 48 + 2 ^ 53)) 0 s.mem)
                     ∧ (¬ hit j → nx j ≠ 0 → ¬ fits j → answers 6 0 0 s.mem)
                     ∧ (¬ hit j → nx j ≠ 0 → fits j → j = (r.ctl.extractLsb' 0 4).toNat → answers 0 (BitVec.ofNat 64 (nx j + (j + 1) * 2 ^ 48 + 2 * 2 ^ 53)) 0 s.mem)
                     ∧ ∀ f, ¬ hit j → nx j ≠ 0 → fits j → j < (r.ctl.extractLsb' 0 4).toNat → at_ (nx j / 64 * 64) = .error f → answers f 0 0 s.mem)))

/-- R184, R185, R286, R376 to R378: the other ends of a request. A remote post enters the queue of its tile, is answered with its refusal, or is dropped when it
fails authentication; a reply of the tag's generation frees the tag and delivers its values or its error to the unit that sent the request, resident or saved,
at once or, while its tile is frozen, when it thaws (R336); a late reply is dropped; a request without a reply ends with TIMEOUT and the tag's next generation; a
message that is too old is dropped. That a stopped poster's record gets NOTARGET, and that a post without a path, or one whose record or answer
fails authentication, gets no answer, is the model's choice (log entry 70, DESIGN CHOICE). -/
def Obligations.RequestEnds : Prop :=
  ∀ (s : State) (r : Request) (p : Reply),
    let gets (t : State) (r : Request) (vs : List VRow) : Prop :=
      ∀ u, s.unitTile r.tile r.launch r.unit = some u → ∃ u', t.unitTile r.tile r.launch r.unit = some u' ∧
        ∀ y, y ∈ (u.strm r.st).awaits → y.id = r.await → ∃ g, g ∈ (u'.strm r.st).awaits ∧ g.id = y.id ∧ g.dests = y.dests ∧ g.ready = true ∧ g.vals = vs
    let wide (w : Word) : VRow := w.setWidth 4096
    let errs (t : State) (r : Request) : Prop :=
      ∀ u, s.unitTile r.tile r.launch r.unit = some u → ∃ u', t.unitTile r.tile r.launch r.unit = some u' ∧
        ((u.strm r.st).isOver = false → ∃ y : Async, (u'.strm r.st).asyncs = (u.strm r.st).asyncs ++ [y] ∧ y.code = cREMOTE_ERROR ∧ y.addr = r.addr)
          ∧ ((u.strm r.st).isOver = true → r.kind = .rstqNa → ∀ x, u.unit = some x → ∃ x', u'.unit = some x' ∧ x'.failed = true)
    let ends (t : State) (r : Request) (st : BitVec 3) (v : Word) (row : Row) : Prop :=
      let e : Word := BitVec.ofNat 64 (2 ^ 63 + st.toNat)
      (r.kind = .rldq → gets t r (if st = 0 then [row.setWidth 4096] else [])) ∧ (r.kind = .rstq → gets t r [])
        ∧ (r.kind = .rldq ∨ r.kind = .rstq ∨ r.kind = .rstqNa → st ≠ 0 → errs t r)
        ∧ (r.kind = .ramo ∨ r.kind = .rcas → gets t r (if st = 0 then [wide v, row.setWidth 4096] else [wide e]))
        ∧ (r.kind = .renq ∨ r.kind = .rchase → gets t r [wide (if st = 0 then v else e)])
        ∧ (r.kind = .rpost → gets t r [wide (if st = 4 then BitVec.ofNat 64 (2 ^ 63 + 5) else v)])
    let waits (t : State) (p : Reply) : Prop :=
      Map.find t.msgs s.nextId = some (.reply p)
        ∧ t.tile p.req.tile = { s.tile p.req.tile with
            held := (s.tile p.req.tile).held ++ [{ op := .remoteReply, ev := { tile := p.req.tile, id := s.nextId, num := 3 } }] }
    let queued (t : State) (r : Request) : Prop :=
      ∃ x : RemotePost, t.mem = s.mem ∧ (t.tile r.target).remoteQ = (s.tile r.target).remoteQ ++ [x] ∧ x.req = r
        ∧ x.record = recordOf (r.rows.getD 0 0) (r.rows.getD 1 0) (r.rows.getD 2 0)
        ∧ x.origin = { pkg := r.srcPkg, tile := r.tile, launch := r.launch, unit := r.unit, post := r.acc }
    let answered (t : State) (v : Word) (k : Option (BitVec 256)) : Prop :=
      t.mem = s.mem ∧ (t.tile r.target).remoteQ = (s.tile r.target).remoteQ
        ∧ (r.srcPkg = Config.packageNumber.val → Map.find t.msgs s.nextId = some (.reply { req := r, status := 0, value := v, sealKey := k }))
    let closed : Prop := wSealed r.entry = true ∧ s.opens (wSlot r.entry) r.sealKey = false
    (Map.find s.msgs s.ev.id = some (.request r) → s.aged r.time = false → s.requestMay r s.ev.id = true →
        (wPeer r.entry = Config.packageNumber.val →
          (closed → exec .remotePostArrival s = .next ((s.unsend s.ev.id).requestGone r))
            ∧ (¬ closed → s.posterLives r = false → ∃ t, exec .remotePostArrival s = .next t ∧ answered t (BitVec.ofNat 64 (2 ^ 63 + 3)) (s.sealFor r.entry).2)
            ∧ (¬ closed → s.posterLives r = true → s.postRefusal r = none → ∃ t, exec .remotePostArrival s = .next t ∧ queued t r)
            ∧ ∀ c, ¬ closed → s.posterLives r = true → s.postRefusal r = some c →
                ∃ t, exec .remotePostArrival s = .next t ∧ answered t (BitVec.ofNat 64 (2 ^ 63 + c)) (s.sealFor r.entry).2)
          ∧ (wPeer r.entry ≠ Config.packageNumber.val →
            let lost : Prop := r.path = none ∨ (wSealed r.entry = true ∧ (r.sealKey = none ∨ r.fate = 3))
            (lost → exec .remotePostArrival s = .next ((s.unsend s.ev.id).requestGone r))
              ∧ (¬ lost → ∃ t v, exec .remotePostArrival s = .next t ∧ answered t v none ∧ (r.postBarred = true → v = BitVec.ofNat 64 (2 ^ 63 + 4)))))
      ∧ (Map.find s.msgs s.ev.id = some (.request r) → s.aged r.time = false → s.requestMay r s.ev.id = false →
          exec .remotePostArrival s = .next (s.retry .remotePostArrival))
      ∧ (s.ev.id = 0 → Map.find s.msgs 0 = none → s.ev.rows ≠ [] → r = peerPost s.ev → r.srcPkg ≠ Config.packageNumber.val → wPeer r.entry = Config.packageNumber.val →
          (s.aged r.time = false → ¬ closed → s.postRefusal r = none → ∃ t, exec .remotePostArrival s = .next t ∧ queued t r)
            ∧ (s.aged r.time = true → exec .remotePostArrival s = .next (s.dropAged (wCtx r.entry))))
      ∧ (s.ev.num = 2 → ∃ t, exec .remoteReply s = .next t ∧ t.mem = s.mem ∧ ∀ x, (s.tile s.ev.tile).unit = some x → x.launch = s.ev.aux → x.idx = s.ev.id →
          (t.tile s.ev.tile).unit = some { x with tasksOut := x.tasksOut.erase s.ev.w0.toNat })
      ∧ (s.ev.num = 3 → Map.find s.msgs s.ev.id = some (.reply p) → (s.tile p.req.tile).frozen = false → ∃ t : State, exec .remoteReply s = .next t ∧ t.mem = s.mem
          ∧ t.txTags = s.txTags ∧ Map.find t.msgs s.ev.id = none ∧ ends t p.req p.status p.value p.row)
      ∧ (s.ev.num ≠ 2 → s.ev.num ≠ 3 → Map.find s.msgs s.ev.id = some (.reply p) → s.ev.id < s.nextId → s.aged p.req.time = false →
          let x : TxTag := Map.get {} s.txTags p.req.tag
          let lost : Prop := p.req.kind = .rpost ∧ s.replyStatus p = 3
          (x.gen = p.req.gen → x.busy.isSome = true → ¬ lost → ∃ t : State, exec .remoteReply s = .next t ∧ t.mem = s.mem
              ∧ Map.get {} t.txTags p.req.tag = { x with busy := none } ∧ Map.find t.msgs s.ev.id = none
              ∧ ((s.tile p.req.tile).frozen = false → ends t p.req (s.replyStatus p) p.value p.row)
              ∧ ((s.tile p.req.tile).frozen = true → waits t { p with status := s.replyStatus p }))
            ∧ (x.gen = p.req.gen → x.busy.isSome = true → lost → exec .remoteReply s = .next (s.unsend s.ev.id))
            ∧ (x.gen ≠ p.req.gen ∨ x.busy = none → ∃ t : State, exec .remoteReply s = .next t ∧ t.mem = s.mem ∧ t.tiles = s.tiles ∧ t.saved = s.saved ∧ t.txTags = s.txTags
                ∧ Map.find t.msgs s.ev.id = none))
      ∧ (let x : TxTag := Map.get {} s.txTags s.ev.id
         (x.busy = some r → x.gen.toNat = s.ev.num → r.time + s.tt * 1000 ≤ s.fabric → ∃ t : State, exec .transactionTimeout s = .next t
            ∧ t.mem = s.mem ∧ Map.get {} t.txTags s.ev.id = { gen := x.gen + 1, busy := none : TxTag }
            ∧ (r.kind ≠ .chanRow → ((s.tile r.tile).frozen = false → ends t r 4 0 0) ∧ ((s.tile r.tile).frozen = true → waits t { req := r, status := 4 }))
            ∧ (r.kind = .chanRow → t.tiles = s.tiles ∧ t.timers = s.timers ++ [(s.clock + 256, { op := .channelResend, ev := { tile := r.tile, id := r.await, num := r.n, wide := r.data } })]))
          ∧ (x.busy = none ∨ x.gen.toNat ≠ s.ev.num ∨ (x.busy = some r ∧ s.fabric < r.time + s.tt * 1000) → exec .transactionTimeout s = .next s))
      ∧ ((Map.find s.msgs s.ev.id = some (.request r) ∧ s.aged r.time = true) ∨ (Map.find s.msgs s.ev.id = some (.reply p) ∧ s.aged p.req.time = true) →
          ∃ t : State, exec .agedDrop s = .next t ∧ t.mem = s.mem ∧ t.tiles = s.tiles ∧ t.txTags = s.txTags ∧ Map.find t.msgs s.ev.id = none)

/-- R62, R90, R91, R167, R178, R293 to R296, R363 to R365: the copy engine's steps and the channels. The step of a copy whose slice is not skipped reads the slice's source rows that it has not
read yet and writes one destination row, which others see now or later, until the task ends; it ends in the clock after its last slice, fails with its slice's fault or
MEM_UNCORRECTABLE, or is suspended by a translation fault, which fails a transpose. A SEND sends the row it reads to a tile of its package, or through a
window with a free tag; a row that a channel stores is written at its place and acknowledged, one that it cannot write poisons it; a refused row is sent again 256 clocks later. A row that finds its bank taken by a stream waits (R17). A reply through a window
counts for its tag's current generation only, and one that cannot be authenticated is dropped. The model's own choices: log entries 6, 24, 57, 64, 92. -/
def Obligations.CopiesAndChannels : Prop :=
  ∀ (s : State) (k : Task),
    let t0 := s.ev.tile
    let u := s.tile t0
    let runs (x : State) : Prop := exec .copyRow s = s.giveWay .copyRow x
    (∀ x, ((∃ b, b ∈ x.bankUse.drop s.bankUse.length ∧ b ∈ s.bankWon) → s.giveWay .copyRow x = .next (s.retry .copyRow))
        ∧ ((∀ b, b ∈ x.bankUse.drop s.bankUse.length → b ∉ s.bankWon) → s.giveWay .copyRow x = .next x))
      ∧ (u.working s.ev.id = some k →
      (∀ p, s.partOf t0 = some p → ∃ (t : State) (k' : Task) (x : Suspend), exec .copySuspend s = .next t ∧ t.mem = s.mem
          ∧ ((s.msixWord 131).getLsbD 32 = false → t.irqs = s.irqs ++ [65]) ∧ ((s.msixWord 131).getLsbD 32 = true → t.irqs = s.irqs ∧ 65 ∈ t.msixPend)
          ∧ (t.tile t0).task k.acc = some k' ∧ k'.suspended = true ∧ k'.record = k.record ∧ k'.st = 2
          ∧ (t.part p).suspends = (s.part p).suspends ++ [x] ∧ x.tile = t0 ∧ x.seq = k.seq ∧ x.subcause = s.ev.num ∧ x.addr = s.ev.w0.toNat ∧ x.ctx = s.ev.aux)
        ∧ (k.suspended = false → k.cancel = false → u.preemptReq = false → k.record.channel = false →
          (u.slices k ≤ k.blkDone → runs ((s.showAll t0 k.acc).endTask t0 k.acc 0 (u.eclk + 1)))
            ∧ (k.blkDone < u.slices k →
              let f := s.fetchSlice t0 k.acc k.blkDone
              let ends (c : BitVec 16) : State := (f.1.showAll t0 k.acc).endTask t0 k.acc c (f.1.tile t0).eclk
              let due (e : TransFault) : Prop :=
                (k.record.eng = 0 → runs (s.suspendDue t0 k.acc e)
                    ∧ (8 ≤ e.1 → s.suspendDue t0 k.acc e = (s.showAll t0 k.acc).endTask t0 k.acc cREMOTE_ERROR u.eclk))
                  ∧ (k.record.eng = 1 → e.1 < 8 → runs (((s.showAll t0 k.acc).report cTRANSLATION e.1).endTask t0 k.acc cTRANSLATION u.eclk))
                  ∧ (k.record.eng = 1 → 8 ≤ e.1 → runs ((s.showAll t0 k.acc).endTask t0 k.acc cREMOTE_ERROR u.eclk))
              (f.2 = true → runs (ends cMEM_UNCORRECTABLE))
                ∧ ∀ k1, f.2 = false → (f.1.tile t0).task k.acc = some k1 →
                  let v := f.1.view k1
                  let b := f.1.side t0 k1 (copyDst k1.record)
                  (∀ c, v.sliceStep t0 k1 k1.blkDone = .ok (.fail c) → runs (ends c))
                    ∧ (∀ e, v.sliceStep t0 k1 k1.blkDone = .error e → due e)
                    ∧ ∀ o d r, v.sliceStep t0 k1 k1.blkDone = .ok (.write o d) →
                      let rows := f.1.dueRows t0 k1 k1.blkDone o
                      rows[k1.rowIdx]? = some r →
                        (∀ e, v.rowBytes t0 k1 k1.blkDone o r = .error e → due e)
                          ∧ ∀ w, v.rowBytes t0 k1 k1.blkDone o r = .ok w →
                            (∀ e, f.1.keyWrites t0 b.h w.1 = .error e → due e)
                              ∧ ∀ ks, f.1.keyWrites t0 b.h w.1 = .ok ks →
                                let part := f.1.readPart t0 ks
                                (part.2 = true → runs ((part.1.showAll t0 k.acc).endTask t0 k.acc cMEM_UNCORRECTABLE (part.1.tile t0).eclk)) ∧
                                (part.2 = false →
                                let wr := if k1.written.contains d then k1.written else d :: k1.written
                                let new : LateRow := { writes := ks, grans := b.fullGranules r wr }
                                let y := (part.1.sealRows t0 b.h 1).writeRow t0 k.acc new
                                ∃ (j : Task) (shown : List LateRow), (y.tile t0).task k.acc = some j ∧ (∀ x, x ∈ shown ∨ x ∈ j.late ↔ x ∈ k1.late ++ [new])
                                  ∧ y.mem = shown.foldl (fun m x => applyWrites m x.writes) f.1.mem
                                  ∧ (j.cancel = false →
                                    let g (k : Task) : Task :=
                                      { k with flags := k.flags ||| w.2, prog := k.prog + 1, written := if rows.length ≤ k1.rowIdx + 1 then wr else k.written
                                               blkDone := if rows.length ≤ k1.rowIdx + 1 then k.blkDone + 1 else k.blkDone
                                               rowIdx := if rows.length ≤ k1.rowIdx + 1 then 0 else k.rowIdx + 1 }
                                    let z := y.modTask t0 k.acc g
                                    (z.view (g j)).restSkipped t0 (g j) = false → runs (z.nextCopy t0 (g j) 1)))))
        ∧ (k.suspended = false → k.cancel = false → u.preemptReq = false → k.record.channel = true → k.record.recv = false →
          let x := s.side t0 k 0
          let late (e : TransFault) : Prop :=
            (k.written.length < k.prog → runs (s.retry .copyRow)) ∧ (k.prog ≤ k.written.length → runs (s.suspendDue t0 k.acc e))
          (∀ e, s.spaceKey t0 x.h (x.sendRow k.prog) true false = .error e → late e)
            ∧ ∀ key, s.spaceKey t0 x.h (x.sendRow k.prog) true false = .ok key →
              (Map.find s.ecc (key / 64 * 64) = some true → ∃ t, runs t ∧ t.mem = s.mem ∧ t.msgs = s.msgs
                  ∧ ((t.tile t0).task k.acc).map (fun j => (j.ended, j.endAt)) = some (some cMEM_UNCORRECTABLE, u.eclk))
                ∧ (Map.find s.ecc (key / 64 * 64) = none →
                  (k.record.p0.getLsbD 8 = true → ∃ (t : State) (m : Nat) (r : ChanRow),
                    runs t ∧ t.mem = s.mem ∧ Map.find t.msgs m = some (.chanRow r) ∧ r.data = s.row key ∧ r.index = k.prog ∧ r.srcTile = t0
                      ∧ r.srcAcc = k.uid ∧ r.target = k.record.p0.extractLsb' 32 8 ∧ r.chan = k.record.chid ∧ r.total = x.sendRows)
                  ∧ (∀ sub, k.record.p0.getLsbD 8 = false → s.winEntry t0 ((k.record.p0.toNat / 2 ^ 16) % 2 ^ 16) = some (.error sub) → ∃ e : TransFault, e.1 = sub ∧ late e)
                  ∧ (∀ e, k.record.p0.getLsbD 8 = false → s.winEntry t0 ((k.record.p0.toNat / 2 ^ 16) % 2 ^ 16) = some (.ok e) →
                    let w := s.sealRows t0 x.h 1
                    let refused : Prop := (wSealed e = true ∧ w.seal (wSlot e) = none) ∨ (wPeer e ≠ Config.packageNumber.val ∧ s.choosePath (wPeer e) (wOrdered e) = none)
                    (s.freeTx = none → ∃ t, runs t ∧ t.mem = s.mem ∧ t.msgs = s.msgs ∧ t.tiles = s.tiles)
                      ∧ ∀ tag, s.freeTx = some tag →
                        (refused → ∃ t, runs t ∧ t.mem = s.mem ∧ t.msgs = s.msgs ∧ ((t.tile t0).task k.acc).map (fun j => (j.ended, j.endAt)) = some (some cREMOTE_ERROR, u.eclk))
                        ∧ (¬ refused → ∃ (t : State) (m : Nat) (q : Request), runs t ∧ t.mem = s.mem
                        ∧ Map.find t.msgs m = some (.request q) ∧ (Map.get {} t.txTags tag : TxTag).busy = some q ∧ q.kind = .chanRow ∧ q.entry = e ∧ q.data = s.row key
                        ∧ q.n = k.prog ∧ q.tile = t0 ∧ q.await = k.uid ∧ q.target = k.record.p0.extractLsb' 32 8 ∧ q.offs = [k.record.chid, x.sendRows])))))
      ∧ (∀ r, s.Inv → Map.find s.msgs s.ev.id = some (.chanRow r) →
          let v := s.tile r.target
          let c := v.chan r.chan
          ∃ (t : State) (m : Nat), exec .channelRowArrival s = .next t ∧ Map.find t.msgs m = some (.chanAck r (s.chanAnswer r))
            ∧ (s.chanAnswer r = 0 → ∃ c' : Channel, t.row (c.start + 64 * r.index) = r.data
                ∧ (∀ n, n < c.start + 64 * r.index ∨ c.start + 64 * r.index + 64 ≤ n → Mem.read t.mem n = Mem.read s.mem n)
                ∧ (t.tile r.target).chan r.chan = c' ∧ c'.filled = insertNat r.index c.filled ∧ c'.sender = some r.sender ∧ c'.state = 1 ∧ c'.rows = c.rows)
            ∧ (s.chanAnswer r = 1 → t.mem = s.mem ∧ t.tiles = s.tiles)
            ∧ (s.chanAnswer r = 2 → t.mem = s.mem ∧ ((∀ x, c.sender = some x → x = r.sender) → ((t.tile r.target).chan r.chan).state = 2)
                ∧ ((∃ x, c.sender = some x ∧ x ≠ r.sender) → t.tiles = s.tiles))
            ∧ (s.chanAnswer r = 3 → t.mem = s.mem ∧ ((t.tile r.target).chan r.chan).state = 2 ∧ (c.state = 1 → ∀ k', v.task c.acc = some k' → k'.ended = none →
                (t.tile r.target).task c.acc = some { k' with ended := some cCHANNEL_POISONED, endAt := v.eclk })))
      ∧ (∀ r out, Map.find s.msgs s.ev.id = some (.chanAck r out) → (s.tile r.srcTile).sending r.srcAcc = some k →
          let got := insertNat r.index k.written
          let eclk := (s.tile r.srcTile).eclk
          (out = 0 → ∃ t : State, exec .channelRowAck s = .next t ∧ t.mem = s.mem
              ∧ (got.length ≠ (s.side r.srcTile k 0).sendRows → (s.tile r.srcTile).task k.acc = some k → (t.tile r.srcTile).task k.acc = some { k with written := got })
              ∧ (got.length = (s.side r.srcTile k 0).sendRows → (s.tile r.srcTile).task k.acc = some k →
                  (t.tile r.srcTile).task k.acc = some { k with written := got, ended := some 0, endAt := eclk }))
            ∧ (out = 1 → ∃ t : State, exec .channelRowAck s = .next t ∧ t.mem = s.mem ∧ t.tiles = s.tiles
              ∧ t.timers = s.timers ++ [(s.clock + 256, { op := .channelResend, ev := { tile := r.srcTile, id := r.srcAcc, num := r.index, wide := r.data } })])
            ∧ (out = 2 → (s.tile r.srcTile).task k.acc = some k → ∃ t : State, exec .channelRowAck s = .next t
              ∧ (t.tile r.srcTile).task k.acc = some { k with ended := some cBADPARAM, endAt := eclk })
            ∧ (out = 3 → (s.tile r.srcTile).task k.acc = some k → ∃ t : State, exec .channelRowAck s = .next t
              ∧ (t.tile r.srcTile).task k.acc = some { k with ended := some cCHANNEL_POISONED, endAt := eclk }))
      ∧ (u.sending s.ev.id = some k → k.written.contains s.ev.num = false → u.preemptReq = false → k.record.p0.getLsbD 8 = true → ∃ (t : State) (m : Nat) (r : ChanRow),
          exec .channelResend s = .next t ∧ t.mem = s.mem ∧ t.tiles = s.tiles ∧ Map.find t.msgs m = some (.chanRow r) ∧ r.data = s.ev.wide ∧ r.index = s.ev.num
            ∧ r.srcTile = t0 ∧ r.srcAcc = k.uid ∧ r.target = k.record.p0.extractLsb' 32 8 ∧ r.chan = k.record.chid)
      ∧ (∀ e, u.sending s.ev.id = some k → k.written.contains s.ev.num = false → u.preemptReq = false → s.sendChanRow t0 k s.ev.num s.ev.wide = .error e →
          (k.written.length + 1 < k.prog → exec .channelResend s = .next (s.retry .channelResend))
            ∧ (k.prog ≤ k.written.length + 1 → exec .channelResend s = .next (s.sendFault t0 k s.ev.num e)))
      ∧ (∀ p, Map.find s.msgs s.ev.id = some (.reply p) → p.req.kind = .chanRow →
          let x : TxTag := Map.get {} s.txTags p.req.tag
          let answers (z : State) : Prop := exec .channelRowAck s = .next (z.chanAnswered p.req.tile p.req.await p.req.n p.req.data p.value.toNat)
          (s.ev.num = 3 → answers (s.unsend s.ev.id))
            ∧ (s.ev.num ≠ 3 → s.aged p.req.time = false →
              (x.gen ≠ p.req.gen ∨ x.busy = none → exec .channelRowAck s = .next ((s.unsend s.ev.id).countLate p.req.tile))
                ∧ (x.gen = p.req.gen → x.busy ≠ none → (s.unsend s.ev.id).replyStatus p = 3 → exec .channelRowAck s = .next (s.unsend s.ev.id))
                ∧ (x.gen = p.req.gen → x.busy ≠ none → (s.unsend s.ev.id).replyStatus p ≠ 3 →
                  let z := { s.unsend s.ev.id with txTags := Map.set s.txTags p.req.tag { x with busy := none } }
                  ((s.tile p.req.tile).frozen = true → exec .channelRowAck s = .next (z.holdReply p .channelRowAck))
                    ∧ ((s.tile p.req.tile).frozen = false → answers z))))

/-- R268 to R270, R278 to R283: the tag instructions. TAGALLOC makes the lowest free tag of the issuer's cluster live with its binding, or answers that none is free; a bad
binding traps. TAGFREE advances the generation and purges. SHOT waits as MARK does and for a place in the shot unit, reads its rows and sends the operand to the tag's
meeting router; rows that it may not access trap. CATCH takes the tag's delivery record, or waits, or answers that none has come. TAGSTAT
answers what its selector names. R269 contradicts itself on the size of an operand: that SHOT checks 64*(NM1+1) rows while it moves 512 bytes for each shot row
is the model's own choice (log entry 23, DEDUCED). -/
def Obligations.TagInstructions : Prop :=
  ∀ (s : State) (d a b : Reg) (k : BitVec 3) (y : Bool),
    let w := s.x a
    let tagw : Word := (w.setWidth 24).setWidth 64
    let n := w.toNat % 2 ^ 20
    let g := s.tag n
    let p := (s.partOf s.ct).getD 0
    let home := clusterOf s.ct * 2 ^ 15
    let isFree (j : Nat) : Prop := (s.tag (home + j)).live = false ∧ (s.tag (home + j)).purging = false
    let answers (i : Instr) (v : Word) : Prop := exec i s = .next (s.answer d v).advance
    (s.mayIssue onCF [.x a, .x d] = true → s.clearOf [.x d] = true →
      (∀ c, s.bindingFault w = some c → exec (.tagalloc d a) s = s.trap c)
        ∧ (s.bindingFault w = none →
            (∀ j, j < 4096 → isFree j → (∀ i, i < j → ¬ isFree i) → ∃ t : State,
                exec (.tagalloc d a) s = .next (t.answer d (BitVec.ofNat 64 (home + j + (s.tag (home + j)).gen.toNat * 2 ^ 20))).advance
                ∧ t.tiles = s.tiles ∧ t.mem = s.mem ∧ (∀ i, i ≠ home + j → t.tag i = s.tag i)
                ∧ t.tag (home + j) = { s.tag (home + j) with
                                       live := true, holder := s.ct, launch := s.me.launchNo, unitIdx := (s.me.unit.map UnitRes.idx).getD 0, binding := w, flags := 0
                                       outstanding := false })
              ∧ ((∀ j, j < 4096 → ¬ isFree j) → answers (.tagalloc d a) (2 ^ 63 + 1)))
        ∧ (let b' := g.binding
           (s.tagMine tagw = true → b'.getLsbD 44 = false → keyTile (b'.toNat % 2 ^ 32) = s.ct →
              (∀ r, s.me.delivQ.find? (fun r => r.tagw = tagw) = some r → ∃ (t : State) (v : Word), exec (.catchTag d a y) s = .next (t.answer d v).advance
                  ∧ t.mem = s.mem ∧ t.me.delivQ = s.me.delivQ.erase r ∧ (t.tag n).outstanding = false
                  ∧ (r.nm1 < 8 → r.leaves < 2 ^ 16 → v.toNat = r.leaves * 2 ^ 16 + r.origin.toNat * 2 ^ 8 + r.nm1 * 4 + (if r.orphan then 1 else 0)))
                ∧ ((∀ r, r ∈ s.me.delivQ → r.tagw ≠ tagw) → answers (.catchTag d a true) (2 ^ 63) ∧ exec (.catchTag d a false) s = s.stall rCATCH_WAIT))
            ∧ (s.tagMine tagw = false ∨ b'.getLsbD 44 = true ∨ keyTile (b'.toNat % 2 ^ 32) ≠ s.ct → exec (.catchTag d a y) s = s.trap cILLEGAL_USE))
        ∧ (s.tagPart n ≠ s.partOf s.ct → answers (.tagstat d a 0) 0)
        ∧ (s.tagPart n = s.partOf s.ct → ∃ v, answers (.tagstat d a 0) v ∧ v.getLsbD 0 = g.live ∧ v.extractLsb' 4 4 = g.gen ∧ v.extractLsb' 8 8 = g.holder
            ∧ v.extractLsb' 16 3 = g.binding.extractLsb' 48 3 ∧ v.extractLsb' 19 3 = g.binding.extractLsb' 45 3)
        ∧ answers (.tagstat d a 1) (g.flags.setWidth 64)
        ∧ (∀ j, 2 ≤ k.toNat → k.toNat ≤ 5 → j = 4 * p + (k.toNat - 2) → answers (.tagstat d a k) (BitVec.ofNat 64 (Map.get 0 (s.router (w.setWidth 8)).counts j)))
        ∧ answers (.tagstat d a 6) (BitVec.ofNat 64
            ((s.router (w.setWidth 8)).entries.filter fun e => e.2.used s.clock && s.tagPart (tagNo e.2.shot.tagw) = s.partOf s.ct).length)
        ∧ exec (.tagstat d a 7) s = s.trap cILLEGAL_ENCODING)
      ∧ (s.mayIssue onCF [.x a] = true →
          (s.tagMine w = true → ∃ t : State, exec (.tagfree a) s = .next t.advance ∧ t.mem = s.mem ∧ (t.tag n).live = false ∧ (t.tag n).gen = g.gen + 1
              ∧ (t.tag n).purging = true ∧ (∀ i, i ≠ n → t.tag i = s.tag i)
              ∧ ∃ c, (c, ({ op := .tagPurge, ev := { tile := meetingRouter n, id := n, w0 := tagWord n g.gen } } : Act)) ∈ t.timers)
            ∧ (s.tagMine w = false → exec (.tagfree a) s = s.trap cILLEGAL_USE))
      ∧ (s.mayIssue onCF [.x a, .x b, .x d] = true → s.clearOf [.x d] = true →
          let rows := (s.x b).toNat / 2 ^ 32 % 8 + 1
          let src := (s.x b).toNat % 2 ^ 32 / 64 * 64
          let local_ : Prop := keyTile (src + 64 * (64 * rows - 1)) = keyTile src ∧ clusterOf (keyTile src) = clusterOf s.ct
          (∀ i c, i < 64 * rows → (∀ j, j < i → s.sFault s.ct (src + 64 * j) = none) → s.sFault s.ct (src + 64 * i) = some c →
              exec (.shot d a b) s = s.trapAddr c (BitVec.ofNat 64 (src + 64 * i)))
            ∧ ((∀ i, i < 64 * rows → s.sFault s.ct (src + 64 * i) = none) →
              (¬ local_ → exec (.shot d a b) s = s.trap cILLEGAL_USE)
                ∧ (local_ → s.cur.marked = false → exec (.shot d a b) s = s.stall rMARK)
                ∧ (local_ → s.cur.marked = true → 4 ≤ s.me.shots.length → exec (.shot d a b) s = s.stall rINTERLOCK)
                ∧ (local_ → s.cur.marked = true → s.me.shots.length < 4 → (∀ i, i < 64 * rows → s.chanGate (src + 64 * i) = .free) →
                  ((∃ i, i < 64 * rows ∧ Map.find s.ecc (src + 64 * i) = some true) → s.losesRead (.shot d a b))
                    ∧ ((∀ i, i < 64 * rows → Map.find s.ecc (src + 64 * i) = none) → ∃ (t : State) (m : Nat) (o : ShotOp), exec (.shot d a b) s = .next t ∧ t.mem = s.mem
                      ∧ t.me.shots = s.me.shots ++ [o] ∧ o.st = s.cs ∧ o.shot.tagw = tagw ∧ o.shot.origin = s.ct ∧ o.shot.leaves = 1 ∧ o.shot.orphan = false ∧ o.shot.op = o.id
                      ∧ o.shot.rows.length = rows ∧ (∀ i j, i < rows → j < 8 → (o.shot.rows.getD i 0).extractLsb' (512 * j) 512 = s.row (src + 512 * i + 64 * j))
                      ∧ Map.find t.msgs m = some (.shot o.shot (meetingRouter n))
                      ∧ t.cur.pending = s.cur.pending ++ pendable [.x d] ∧ t.cur.pc = s.advance.cur.pc ∧ t.cur.x = s.cur.x))
                ∧ (local_ → s.cur.marked = true → s.me.shots.length < 4 → (∀ i, i < 64 * rows → s.chanGate (src + 64 * i) ≠ .poisoned) →
                    (∃ i, i < 64 * rows ∧ s.chanGate (src + 64 * i) = .wait) → exec (.shot d a b) s = s.stall rFE_WAIT)))

/-- R270 to R277, R280: the steps of the matching stores and of delivery. Two operands that meet are combined lane by lane, the lower origin on the left, and the result goes on to the
binding's destination; a first one waits in the lowest free entry until its timeout, which sends it on as an orphan; without an entry it bounces; a dead
generation, a wrong size or a foreign one is dropped. A delivery writes its rows and its record, waits at its tile's edge for an earlier one of its tag and for room in the queue, or is parked while no unit of
its launch is there; a purge empties the tag's entries. The model's own choices: log entries 5 (when a message arrives) and 42 (records and operands outlive their unit). -/
def Obligations.RimshotSteps : Prop :=
  ∀ (s : State) (sh : Shot) (r : TileNo),
    let n := tagNo sh.tagw
    let g := s.tag n
    let op := (g.binding.extractLsb' 48 3).toNat
    let lane (l r : Nat) : Nat :=
      match op with
      | 0 => (fp32.result ((fp32.decode l).add (fp32.decode r))).1
      | 1 => (fp32.rne ((fp32.decode l).minMax true (fp32.decode r))).1
      | 2 => (fp32.rne ((fp32.decode l).minMax false (fp32.decode r))).1
      | 3 => (bf16.result ((bf16.decode l).add (bf16.decode r))).1
      | 4 => l + r
      | _ => if sgn 32 l < sgn 32 r then r else l
    let lw := if op = 3 then 16 else 32
    let on (t : State) (x : Shot) : Prop :=
      let b := (s.tag (tagNo x.tagw)).binding
      ∃ (m : Nat) (z : Shot), z.rows = x.rows ∧ z.origin = x.origin ∧ z.orphan = x.orphan ∧ z.leaves = x.leaves ∧ z.fromRouter = true ∧
        if b.getLsbD 44 then z.tagw = (b.setWidth 24).setWidth 64 ∧ Map.find t.msgs m = some (.shot z (meetingRouter (b.toNat % 2 ^ 20)))
        else z.tagw = x.tagw ∧ Map.find t.msgs m = some (.deliver z (keyTile (b.toNat % 2 ^ 32)))
    (Map.find s.msgs s.ev.id = some (.shot sh r) →
      let foreign : Prop := sh.fromRouter = false ∧ (some sh.part ≠ s.tagPart n ∨ (g.live = true ∧ sh.launch ≠ g.launch))
      let fits : Prop := ¬ foreign ∧ s.tagLive sh.tagw = true ∧ sh.rows.length = (g.binding.extractLsb' 45 3).toNat + 1
      let partner (q : Nat × MatchEntry) : Bool := q.2.used s.clock && q.2.waiting && q.2.shot.tagw = sh.tagw
      (fits → ∀ q, (s.router r).entries.find? partner = some q →
          let e := q.2.shot
          let l := if sh.origin.toNat < e.origin.toNat then sh else e
          let h := if sh.origin.toNat < e.origin.toNat then e else sh
          ∃ (t : State) (z : Shot), exec .rimshotArrival s = .next t ∧ t.mem = s.mem ∧ on t z ∧ z.tagw = l.tagw ∧ z.origin = l.origin
            ∧ z.orphan = (e.orphan || sh.orphan) ∧ z.leaves = Nat.min 65535 (e.leaves + sh.leaves)
            ∧ z.rows.length = Nat.min e.rows.length sh.rows.length
            ∧ ∀ i j, i < z.rows.length → j < 4096 / lw →
              laneBits (z.rows.getD i 0) lw j = lane (laneBits (l.rows.getD i 0) lw j) (laneBits (h.rows.getD i 0) lw j) % 2 ^ lw)
        ∧ (fits → (s.router r).entries.find? partner = none →
          (∀ i, s.freeEntry r = some i → ∃ (t : State) (e : MatchEntry), exec .rimshotArrival s = .next t ∧ t.mem = s.mem
              ∧ Map.find (t.router r).entries i = some e ∧ e.waiting = true ∧ e.since = s.clock ∧ e.shot = { sh with bounces := 0 }
              ∧ ∃ c, c = s.clock + 256 * (g.binding.extractLsb' 32 12).toNat ∧ (c, ({ op := .orphanTimeout, ev := { tile := r, id := i, num := s.clock } } : Act)) ∈ t.timers)
            ∧ (s.freeEntry r = none → ∃ (t : State) (c : Nat), exec .rimshotArrival s = .next t ∧ t.mem = s.mem ∧ t.tiles = s.tiles
              ∧ Map.find t.msgs s.nextId = some (.shot { sh with bounces := sh.bounces + 1 } r)
              ∧ c = s.clock + 32 * 2 ^ Nat.min sh.bounces 5 ∧ (c, ({ op := .bounceResend, ev := { tile := r, id := s.nextId } } : Act)) ∈ t.timers))
        ∧ (∀ o v, sh.fromRouter = false → (s.tile sh.holder).shots.find? (fun o => o.id = sh.op) = some o →
            (foreign ∧ v = 3) ∨ (¬ foreign ∧ s.tagLive sh.tagw = false ∧ v = 1)
              ∨ (¬ foreign ∧ s.tagLive sh.tagw = true ∧ sh.rows.length ≠ (g.binding.extractLsb' 45 3).toNat + 1 ∧ v = 2) →
            ∃ t : State, exec .rimshotArrival s = .next t ∧ t.mem = s.mem ∧ (t.router r).entries = (s.router r).entries
              ∧ (t.tile sh.holder).shots = (s.tile sh.holder).shots.filter (fun o => o.id ≠ sh.op)
              ∧ ∀ y, y ∈ (s.strmOf sh.holder o.st).awaits → y.id = sh.op →
                ∃ x, x ∈ (t.strmOf sh.holder o.st).awaits ∧ x.id = sh.op ∧ x.dests = y.dests ∧ x.ready = true ∧ x.vals = [v])
        ∧ (sh.fromRouter = true ∨ ((s.tile sh.holder).shots.any fun o => o.id = sh.op) = true → ∃ t : State, exec .bounceResend s = .next t ∧ t.mem = s.mem
            ∧ t.tiles = s.tiles ∧ Map.find t.msgs s.nextId = some (.shot sh r)))
      ∧ (∀ e, Map.find (s.router s.ev.tile).entries s.ev.id = some e → e.waiting = true → e.used s.clock = true → e.since = s.ev.num →
          s.ev.num + 256 * ((s.tag (tagNo e.shot.tagw)).binding.extractLsb' 32 12).toNat ≤ s.clock →
          ∃ (t : State) (e' : MatchEntry), exec .orphanTimeout s = .next t ∧ t.mem = s.mem ∧ t.tiles = s.tiles ∧ on t { e.shot with orphan := true }
            ∧ Map.find (t.router s.ev.tile).entries s.ev.id = some e' ∧ e'.waiting = false ∧ e'.shot.orphan = true)
      ∧ (s.Inv → s.ev.num ≠ 1 → Map.find s.msgs s.ev.id = some (.deliver sh r) → s.tagLive sh.tagw = true →
          let a := (g.binding.setWidth 32).toNat
          let here : Prop := ∃ u, (s.tile r).unit = some u ∧ u.launch = g.launch
          (here → g.outstanding = false → (s.tile r).qTakes 3 1 = true → s.behind r sh = false → keyTile a = r → ∃ (t : State) (x : DelivRec), exec .delivery s = .next t
              ∧ (∀ i j, i < sh.rows.length → j < 8 → t.row (a + 512 * i + 64 * j) = (sh.rows.getD i 0).extractLsb' (512 * j) 512)
              ∧ (∀ m, m < a ∨ a + 512 * sh.rows.length ≤ m → Mem.read t.mem m = Mem.read s.mem m)
              ∧ (t.tile r).delivQ = (s.tile r).delivQ ++ [x] ∧ x.tagw = sh.tagw ∧ x.orphan = sh.orphan ∧ x.origin = sh.origin ∧ x.leaves = sh.leaves
              ∧ x.nm1 = sh.rows.length - 1 ∧ (t.tag n).outstanding = true)
            ∧ (here → g.outstanding = true ∨ (s.tile r).qTakes 3 1 = false ∨ s.behind r sh = true → ∃ t : State, exec .delivery s = .next t ∧ t.mem = s.mem
              ∧ (t.tile r).edgeWait = (s.tile r).edgeWait ++ [sh] ∧ (t.tile r).delivQ = (s.tile r).delivQ)
            ∧ (¬ here → ∃ t : State, exec .delivery s = .next t ∧ t.mem = s.mem ∧ (t.tile r).parked = (s.tile r).parked ++ [.delivery { sh with ready := false, full := false }]
              ∧ (t.tile r).delivQ = (s.tile r).delivQ))
      ∧ (s.ev.num ≠ 1 → Map.find s.msgs s.ev.id = some (.deliver sh r) → s.tagLive sh.tagw = false → exec .delivery s = .next (s.unsend s.ev.id))
      ∧ (s.ev.num = 1 → (s.tile s.ev.tile).edgeWait = [sh] →
          (sh.ready = true → g.outstanding = false → (s.tile s.ev.tile).qTakes 3 1 = true → keyTile (g.binding.setWidth 32).toNat = s.ev.tile →
              ∃ (t : State) (x : DelivRec), exec .delivery s = .next t ∧ (t.tile s.ev.tile).edgeWait = [] ∧ (t.tile s.ev.tile).delivQ = (s.tile s.ev.tile).delivQ ++ [x]
                ∧ x.tagw = sh.tagw ∧ x.orphan = sh.orphan ∧ x.origin = sh.origin ∧ x.leaves = sh.leaves ∧ (t.tag n).outstanding = true)
            ∧ (sh.ready = false ∨ g.outstanding = true ∨ (s.tile s.ev.tile).qTakes 3 1 = false → exec .delivery s = .next s))
      ∧ (∃ t : State, exec .tagPurge s = .next t ∧ t.mem = s.mem ∧ t.tiles = s.tiles
          ∧ ((t.router s.ev.tile).entries = (s.router s.ev.tile).entries.filter fun q => !(q.2.used s.clock && q.2.shot.tagw = s.ev.w0))
          ∧ ∃ c, (c, ({ op := .purgeAck, ev := { tile := s.ev.tile, id := s.ev.id } } : Act)) ∈ t.timers)
      ∧ ∃ t : State, exec .purgeAck s = .next t ∧ t.mem = s.mem ∧ t.tiles = s.tiles ∧ t.tag s.ev.id = { s.tag s.ev.id with purging := false }
          ∧ ∀ i, i ≠ s.ev.id → t.tag i = s.tag i

/-- R297 to R303, R306 to R308: collective groups and the collective sequencer. COLLDEF enters its group under the lowest free handle, waits for a handle and for the members, and
answers the handle and the own number, or why it failed; COLLDEF with FREE waits for the group's tasks and drops the group; a contribution is taken once, and a chunk whose
contributions have all arrived is combined in the order of g under KEYED; a destination row is written once, when all its elements are combined; the
commit and the abort write the status row and end the task; a Knell that comes for a collective of this member that has not begun dooms it. What other members do is
the model's free choice (log entry 6). The model's own choices: the lowest free handle, and the wait when 64 handles exist but not all are live (log entry 36, DEDUCED);
the first sequence number (25); a Knell before its collective (88); refused accesses and seals (92, 93); the time of a step (5). -/
def Obligations.Collectives : Prop :=
  ∀ (s : State) (d a : Reg) (n : Nat) (g : Group) (x : CollRun) (k : Task),
    let c := s.tileCtx s.ct
    let t0 := s.ev.tile
    let u := s.tile t0
    (s.mayIssue onC [.x a, .x d] = true → s.clearOf [.x d] = true →
      let answers (i : Instr) (live : Bool) (w : Word) : Prop :=
        ∃ t : State, exec i s = .next (t.answer d w).advance ∧ t.tiles = s.tiles ∧ t.mem = s.mem
          ∧ if live then t.group c n = { g with live := true } else Map.find (t.ctx c).groups n = none
      let inAway : Prop := ∃ y, y ∈ s.saved ∧ (s.launch y.launch).ctx = c ∧ y.tile.inGroup n = true
      let inTile : Prop := ∃ p, p ∈ s.tiles ∧ s.tileCtx (BitVec.ofNat 8 p.1) = c ∧ p.2.inGroup n = true
      (((s.ctx c).groups.find? fun p => s.cur.waitN = some (collMark p.1)) = some (n, g) → s.group c n = g →
          (g.timedOut = true → answers (.colldef d a) false (BitVec.ofNat 64 (2 ^ 63 + 4)))
            ∧ (g.timedOut = false → s.clock < g.peersAt → exec (.colldef d a) s = s.stall rBARRIER)
            ∧ (g.timedOut = false → g.peersAt ≤ s.clock → g.mismatch = true → answers (.colldef d a) false (BitVec.ofNat 64 (2 ^ 63 + 3)))
            ∧ (g.timedOut = false → g.peersAt ≤ s.clock → g.mismatch = false → answers (.colldef d a) true (BitVec.ofNat 64 (n + g.own * 2 ^ 16))))
        ∧ (∀ r, s.cur.waitN = none → s.recordRows (s.x a) [r] →
            let mine (p : Nat × Group) : Bool := !p.2.live && p.2.desc = r && p.2.defTile = s.ct && p.2.defUnit = s.me.unitNo
            ((s.ctx c).groups.find? mine = some (n, g) →
                exec (.colldef d a) s = (s.modCur fun z => { z with waitN := some (collMark n) }).stall rBARRIER)
              ∧ ((s.ctx c).groups.find? mine = none →
                (∀ e, s.collRefusal c r = some e → ∃ t, exec (.colldef d a) s = .next (t.answer d (BitVec.ofNat 64 (2 ^ 63 + e))).advance
                    ∧ (t = s ∨ (e = 2 ∧ ∃ sub, t = s.report cTRANSLATION sub)))
                ∧ (s.collRefusal c r = none → (∀ j, j < 64 → Map.has (s.ctx c).groups j = true) → exec (.colldef d a) s = s.stall rBARRIER)
                ∧ (s.collRefusal c r = none → n < 64 → (∀ j, j < n → Map.has (s.ctx c).groups j = true) → Map.has (s.ctx c).groups n = false →
                  ∃ t : State, exec (.colldef d a) s = .next t ∧ t.mem = s.mem ∧ t.cur.pc = s.cur.pc ∧ t.cur.waitN = some (collMark n) ∧ t.cur.stall = rBARRIER
                    ∧ (t.group c n).desc = r ∧ (t.group c n).live = false ∧ (t.group c n).defTile = s.ct ∧ (t.group c n).since = s.fabric)))
        ∧ (n = (s.x a).toNat % 64 →
            ((s.group c n).live = false → exec (.colldefFree d a) s = s.trap cILLEGAL_USE)
              ∧ ((s.group c n).live = true → inTile ∨ inAway → exec (.colldefFree d a) s = s.stall rTWAIT)
              ∧ ((s.group c n).live = true → ¬ inTile → ¬ inAway → answers (.colldefFree d a) false 0)))
      ∧ (Map.find (s.ctx s.ev.num).groups s.ev.id = some g →
          (g.live = false → s.clock < g.peersAt → g.since + gTimeout g.desc ≤ s.fabric →
            ∃ t : State, exec .colldefTimeout s = .next t ∧ t.tiles = s.tiles ∧ t.mem = s.mem ∧ (t.group s.ev.num s.ev.id).timedOut = true)
            ∧ (g.live = true ∨ g.peersAt ≤ s.clock ∨ s.fabric < g.since + gTimeout g.desc → exec .colldefTimeout s = .next s))
      ∧ (s.Inv → s.collRun t0 s.ev.id = some (n, g, x) → s.group (s.tileCtx t0) n = g → u.working s.ev.id = some k →
          let r := k.record
          let a := s.side t0 k 0
          let b := s.side t0 k 1
          let p := g.contribs r.srclay r.dstlay
          let adr := r.p3.toNat % 2 ^ 32
          let ends (i : Instr) (code : BitVec 16) (cause result det : Nat) : Prop :=
            ∃ (t : State) (w : Row), exec i s = .next t ∧ (t.tile t0).task s.ev.id = some { k with ended := some code, endAt := u.eclk }
              ∧ t.row adr = w ∧ (∀ m, m < adr / 64 * 64 ∨ adr / 64 * 64 + 64 ≤ m → Mem.read t.mem m = Mem.read s.mem m)
              ∧ w.extractLsb' 0 2 = BitVec.ofNat 2 result ∧ w.getLsbD 2 = r.declined g ∧ w.getLsbD 3 = x.inpath ∧ w.extractLsb' 8 8 = BitVec.ofNat 8 cause
              ∧ w.extractLsb' 32 32 = x.seq ∧ w.extractLsb' 128 6 = x.flags ∧ (det < 2 ^ 32 → w.extractLsb' 192 32 = BitVec.ofNat 32 det)
          (adr % 64 = 0 →
            (b.chunks ≤ x.chunks.length → ends .collCommit 0 0 0 (2 ^ 32 - 1))
              ∧ (s.ev.num < 256 → s.ev.aux < 2 ^ 32 → ends .knell cABORTED s.ev.num 1 s.ev.aux)
              ∧ (x.running = true → x.progress + gTimeout g.desc ≤ s.fabric → g.pendingCause < 256 → g.own < 2 ^ 32 →
                  ends .progressTimeout cABORTED (if g.pendingCause = 0 then 1 else g.pendingCause) 1 g.own))
            ∧ (x.chunks.length < b.chunks → exec .collCommit s = .next s)
            ∧ (x.running = false ∨ s.fabric < x.progress + gTimeout g.desc → exec .progressTimeout s = .next s)
            ∧ ((∃ j, j ∈ x.got ∧ j.chunk = s.ev.num ∧ j.g = s.ev.aux) ∨ (∃ j, j ∈ x.chunks ∧ j.1 = s.ev.num) → exec .collContribution s = .next s)
            ∧ ((∀ j, j ∈ x.got → ¬(j.chunk = s.ev.num ∧ j.g = s.ev.aux)) → (∀ j, j ∈ x.chunks → j.1 ≠ s.ev.num) →
                let f := s.fetchRows t0 k.acc a.h ((s.asSeq t0).contribRows t0 g r a b s.ev.num s.ev.aux)
                (f.2 = true → exec .collContribution s = .next (f.1.collAbort t0 s.ev.id 5 g.own cMEM_UNCORRECTABLE))
                  ∧ ∀ k1, f.2 = false → (f.1.tile t0).task k.acc = some k1 →
                    (∀ e, ((f.1.asSeq t0).view k1).contribution t0 g r a b s.ev.num s.ev.aux = .error e →
                        exec .collContribution s = .next (if e.1 < 8 then (f.1.report cTRANSLATION e.1).collAbort t0 s.ev.id 5 g.own cTRANSLATION
                          else f.1.collAbort t0 s.ev.id 5 g.own cREMOTE_ERROR))
                      ∧ ∀ vs, ((f.1.asSeq t0).view k1).contribution t0 g r a b s.ev.num s.ev.aux = .ok vs →
                        let got := x.got ++ [{ chunk := s.ev.num, g := s.ev.aux, at_ := s.clock, vals := vs }]
                        let cs := got.filter fun j => j.chunk = s.ev.num
                        ∃ way : Bool,
                          let s2 := (({ f.1 with fresh := f.1.fresh + vs.length + 1 } : State).seqLearn t0 a b).modGroup (s.tileCtx t0) n fun g =>
                            g.modRun t0 s.ev.id fun _ => { x with got := got, progress := s.fabric, inpath := x.inpath || way }
                          (cs.length < p → exec .collContribution s = .next s2)
                            ∧ (p ≤ cs.length → r.collMode = 0 → r.tlog = false →
                                let value (j : Nat) : Nat := (keyedTree r.collOp 11 ((List.range p).map fun q => ((cs.find? fun y => y.g = q).map fun y => y.vals.getD j 0).getD 0)).1
                                let all := x.pend ++ (b.chunkRange s.ev.num).zipIdx.flatMap fun e => b.writes (b.absolute (elemIndex b.lens e.1)) (value e.2)
                                let whole (w : ByteWrite) : Bool := b.rowDone (s.ev.num :: x.chunks.map Prod.fst) (w.1 / 64 * 64)
                                ∀ ks, (s2.asSeq t0).keyWrites t0 b.h (all.filter whole) = .ok ks →
                                let part := s2.readPart t0 ks
                                (part.2 = true → exec .collContribution s = .next (part.1.collAbort t0 k.acc 5 g.own cMEM_UNCORRECTABLE)) ∧
                                let news : List LateRow := (rowsOf ks).map fun r => { writes := ks.filter fun w => rowOf w.1 = r, grans :=
                                  (if b.h.space = 0 then b.chunkGranules s.ev.num (s.ev.num :: x.chunks.map Prod.fst) else []).filter fun g => rowOf (16 * g) = r }
                                (part.2 = false → ∃ (t : State) (x' : CollRun) (j k2 : Task) (shown : List LateRow), exec .collContribution s = .next t
                                  ∧ (part.1.tile t0).task k.acc = some k2 ∧ (t.tile t0).task k.acc = some j ∧ (∀ y, y ∈ shown ∨ y ∈ j.late ↔ y ∈ k2.late ++ news)
                                  ∧ t.mem = shown.foldl (fun m y => applyWrites m y.writes) s.mem
                                  ∧ (k2.late = [] → ∀ m, Mem.read (t.showAll t0 k.acc).mem m = Mem.read (applyWrites s.mem ks) m)
                                  ∧ x' ∈ (t.group (s.tileCtx t0) n).runs ∧ x'.tile = t0 ∧ x'.acc = s.ev.id ∧ (x'.chunks.map Prod.fst).head? = some s.ev.num
                                  ∧ x'.got = got.filter (fun j => j.chunk ≠ s.ev.num) ∧ x'.pend = all.filter fun w => !whole w))))
      ∧ (s.collRun t0 s.ev.id = none →
          let c := s.ev.w0.toNat / 64
          let n := s.ev.w0.toNat % 64
          let h := s.group c n
          let q : BitVec 32 := s.ev.w1.setWidth 32
          let known : Prop := q ∈ h.aborted ∨ ∃ y, y ∈ h.doomed ∧ y.1 = q
          (h.live = true → ∃ t : State, exec .knell s = .next t ∧ t.tiles = s.tiles ∧ t.mem = s.mem
              ∧ (known → t.group c n = h)
              ∧ (¬ known → (q - h.seq).toNat < 2 ^ 31 → t.group c n = { h with doomed := h.doomed ++ [(q, s.ev.num, s.ev.aux)] })
              ∧ (¬ known → 2 ^ 31 ≤ (q - h.seq).toNat → t.group c n = { h with pendingCause := s.ev.num }))
            ∧ (h.live = false → exec .knell s = .next s)
            ∧ ((s.group c n).live = true → ∃ t : State, exec .collContribution s = .next t ∧ t.tiles = s.tiles ∧ t.mem = s.mem
                ∧ (t.group c n).dropped = (s.group c n).dropped + 1)
            ∧ exec .progressTimeout s = .next s ∧ exec .collCommit s = .next s)

/-- R241, R265, R336, R363: WLOAD and WLOAD.R. A descriptor that breaks its table traps; a well-formed one whose tile lies in its handles is read at issue, in the formats
that its banks have now, and goes to the shadow plane of the own array, or the staging of a rolling array of the cluster. The stream goes on at once, and waits before for
the array, for a frozen tile, and as MARK does; a row of a channel at or above its mark keeps it waiting, or traps when the channel is poisoned (R295). The plane in use
and the accumulators stay. R241 does not say when the data is read: that it is read at issue is the model's own choice (log entry 35), as are the index of dimension 2
(83) and the time of completion (5). R41, R42, R49, R233 to R237, R363: the steps of the matrix engine. A weight load that completes fills the shadow plane; a pass waits
for its weights, or takes the shadow plane at a swap point and gives each of its accumulator rows the value of its row of activations, every other row as before; a final
row leaves the pipeline or drains; a drain writes its converted row, which others see now or later, until the task ends (R91). A fault of an access, or a read with an
uncorrectable error, fails the task. A pass or a drain that finds its bank taken by a stream is tried again (R17). The model's own choices: log entries 5, 57, 71, 83, 92. -/
def Obligations.WeightLoadsAndMatrixSteps : Prop :=
  (∀ (s : State) (a b : Reg) (r : Row), s.recordRows (s.x a) [r] →
      let sparse := r.getLsbD 27
      let mh := (r.extractLsb' 12 12).toNat
      let hb := s.me.handle (r.extractLsb' 0 12).toNat
      let hm := if sparse then s.me.handle mh else some {}
      let k0 := (r.extractLsb' 32 24).toNat
      let n0 := (r.extractLsb' 56 24).toNat
      let fields : Prop := r.toNat < 2 ^ 80 ∧ r.extractLsb' 28 4 = 0 ∧ (sparse = false → mh = 0)
      let starts (i : Instr) (tt : TileNo) (remote : Bool) : Prop :=
        let u := s.tile tt
        (¬ fields → exec i s = s.trap cILLEGAL_USE) ∧ (fields → hb = none ∨ hm = none → exec i s = s.trap cHANDLE_INVALID)
        ∧ ∀ h m, hb = some h → hm = some m → fields →
          let x := s.handleSide h
          let y := s.handleSide m
          let spaces : Prop := x.h.space = 0 ∧ (sparse = true → y.h.space = 0)
          let prec := readPrec x.h.fmt (r.extractLsb' 24 3).toNat
          let formats : Prop := x.h.scaledMx = true ∧ (sparse = true → y.h.fmt = 0) ∧ prec ≠ none ∧ k0 % blkLen x.h.blk = 0
          let fits : Prop := k0 + 128 ≤ x.h.ext 0 ∧ n0 + 128 ≤ x.h.ext 1 ∧ (sparse = true → k0 / 4 + 32 ≤ y.h.ext 0 ∧ n0 + 128 ≤ y.h.ext 1)
          (¬ spaces → exec i s = s.trap cILLEGAL_USE) ∧ (spaces → ¬ formats → exec i s = s.trap cFORMAT_MISMATCH)
            ∧ (spaces → formats → ¬ fits → exec i s = s.trap cHANDLE_RANGE)
            ∧ (∀ c, spaces → formats → fits → remote = true → s.tileFault s.ct tt = some c → exec i s = s.trap c)
            ∧ ∀ p, spaces → prec = some p → formats → fits → (remote = true → s.tileFault s.ct tt = none) →
              let w : WLoad := { plane := s.loadTile s.ct x y k0 n0 128 128 p sparse, roll := u.rolling }
              let loads : Prop :=
                (∀ c, s.sFault s.ct x.base = some c → exec i s = s.trapAddr c (BitVec.ofNat 64 x.base))
                  ∧ (∀ c, sparse = true → s.sFault s.ct x.base = none → s.sFault s.ct y.base = some c → exec i s = s.trapAddr c (BitVec.ofNat 64 y.base))
                  ∧ (s.sFault s.ct x.base = none → (sparse = true → s.sFault s.ct y.base = none) →
                    let frozen : Prop := (tt ≠ s.ct ∧ u.frozen = true) ∨ (keyTile x.base ≠ s.ct ∧ (s.tile (keyTile x.base)).frozen = true)
                      ∨ (sparse = true ∧ keyTile y.base ≠ s.ct ∧ (s.tile (keyTile y.base)).frozen = true)
                    (frozen → exec i s = s.stall rINTERLOCK)
                      ∧ (¬ frozen →
                        let ks := s.rectRows x k0 n0 128 128 p ++ if sparse then s.rectRows y (k0 / 4) n0 32 128 8 else []
                        let free : Prop := ∀ n, n ∈ ks → s.chanGate n = .free
                        (∀ n, ks.find? (fun n => s.chanGate n = .poisoned) = some n → exec i s = s.trapAddr cCHANNEL_POISONED (BitVec.ofNat 64 n))
                          ∧ ((∀ n, n ∈ ks → s.chanGate n ≠ .poisoned) → (∃ n, n ∈ ks ∧ s.chanGate n = .wait) → exec i s = s.stall rFE_WAIT)
                          ∧ (∀ c, free → (s.readTile s.ct x y k0 n0 128 128 p sparse).2 = some c → s.losesRead i)
                          ∧ (free → (s.readTile s.ct x y k0 n0 128 128 p sparse).2 = none → ∃ t : State, exec i s = .next t.advance ∧ t.mem = s.mem ∧ (t.tile tt).wload = some w
                            ∧ (t.tile tt).planeA = u.planeA ∧ (t.tile tt).acc = u.acc ∧ (∀ n, n ≠ tt → t.tile n = s.tile n)
                            ∧ ∃ c, s.clock < c ∧ (c, ({ op := .weightLoadComplete, ev := { tile := tt } } : Act)) ∈ t.timers)))
              (u.rolling = false →
                  (remote = true → exec i s = s.trap cILLEGAL_USE)
                    ∧ (remote = false → u.wload ≠ none ∨ u.released TaskRec.matmul = true → exec i s = s.stall rINTERLOCK)
                    ∧ (remote = false → u.wload = none → u.released TaskRec.matmul = false → (s.cur.marked = false → exec i s = s.stall rMARK) ∧ (s.cur.marked = true → loads)))
                ∧ (u.rolling = true →
                  let takes : Prop := u.roll.state ≠ 3 ∧ u.roll.wDelivered < u.roll.nW
                  let suits : Prop := sparse = u.roll.sparse ∧ occupancy u.roll.pa p u.roll.srows ≤ u.roll.period
                  (¬ takes → exec i s = s.trap cILLEGAL_USE) ∧ (takes → ¬ suits → exec i s = s.trap cFORMAT_MISMATCH)
                    ∧ (takes → suits → u.wload ≠ none ∨ u.shadowFull = true → exec i s = s.stall rINTERLOCK)
                    ∧ (takes → suits → u.wload = none → u.shadowFull = false → (s.cur.marked = false → exec i s = s.stall rMARK) ∧ (s.cur.marked = true → loads)))
      (s.mayIssue onCF [.x a] = true → starts (.wload a) s.ct false)
        ∧ (s.mayIssue onCF [.x a, .x b] = true → starts (.wloadR a b) (tileAt (clusterOf s.ct) ((s.x b).toNat % 8)) true))
    ∧ (∀ (s : State) (k : Task) (m : MatProg) (p : PipeRow),
    let t0 := s.ev.tile
    let u := s.tile t0
    let r := k.record
    let passes (x : State) : Prop := exec .matmulPass s = s.giveWay .matmulPass x
    let drained (x : State) : Prop := exec .accDrain s = s.giveWay .accDrain x
    (∀ w, u.wload = some w → ∃ t : State, exec .weightLoadComplete s = .next t ∧ s.onlyTile t t0
        ∧ t.tile t0 = { u with wload := none, planeS := w.plane, shadowFull := w.isTask || w.roll })
      ∧ (u.working s.ev.id = some k → u.mat = some m → k.cancel = false → u.preemptReq = false → m.finished = false →
          let a := s.side t0 k 0
          let swap := if m.passes = 0 then !r.keepw else pointFirst m.rows m.counters lSw
          let zero := pointFirst m.rows m.counters lZr
          let ar := passRow r m.rows m.counters
          let drains : Prop := zero = true ∧ ∃ y, y ∈ m.pipe ∧ y.drain = true ∧ ar ≤ y.row ∧ y.row < ar + r.mrows
          let w := if swap then u.planeS else u.planeA
          let s0 : State := if swap then s.modTile t0 fun u => { u with planeA := u.planeS, planeS := u.planeA, shadowFull := false } else s
          let s1 : State := if swap then (match nextSwap m.rows m.counters with
            | some n => s0.loadFor t0 k m.rows n
            | none => s0) else s0
          let waits : Prop := (swap = true ∧ u.shadowFull = false) ∨ drains
          let bad : Prop := ∃ g, g ∈ w.bad ∧ g / 256 < r.nlen ∧ g % 256 < r.klen
          let pa := (readPrec a.h.fmt r.paCode).getD 2
          let ak := posAt m.rows m.counters a.iv.l0 fAK
          let am := posAt m.rows m.counters a.iv.l1 fAM
          (waits → ∃ t : State, exec .matmulPass s = .next t ∧ t.mem = s.mem ∧ (t.tile t0).acc = u.acc ∧ (t.tile t0).window = u.window
              ∧ t.waiters = s.waiters ++ [{ op := .matmulPass, ev := s.ev }])
            ∧ (¬ waits → bad → passes (s1.endTask t0 k.acc cBADPARAM u.eclk))
            ∧ (∀ c, ¬ waits → ¬ bad → w.inScales = false → s.boxInScales a ak am r.klen r.mrows = false → (s1.readPass t0 k m).2 = some c →
                passes ((s1.readPass t0 k m).1.endTask t0 k.acc c u.eclk))
            ∧ (¬ waits → ¬ bad → w.inScales = false → s.boxInScales a ak am r.klen r.mrows = false → (s1.readPass t0 k m).2 = none →
                ∃ (t : State) (m' : MatProg), passes t ∧ t.mem = s.mem
                  ∧ (t.tile t0).planeA = w ∧ (t.tile t0).mat = some m' ∧ m'.passes = m.passes + 1 ∧ (m'.finished = true ↔ nextCounters m.rows m.counters = none)
                  ∧ (∀ i, i < r.mrows → (t.tile t0).accAt (ar + i) =
                      (accRowStep w (blkLen a.h.blk) pa r.klen r.nlen (fun j => a.readAt s t0 pa (ak + j, am + i, a.iv.l2))
                        (fun j => (s.scaleByte t0 a (ak + j * blkLen a.h.blk, am + i, a.iv.l2)).toNat) (if zero then 0 else u.accAt (ar + i))).1)
                  ∧ (∀ y, y < ar ∨ ar + r.mrows ≤ y → (t.tile t0).accAt y = u.accAt y)
                  ∧ (t.tile t0).c = u.c ∧ (t.tile t0).v = u.v ∧ (t.tile t0).f = u.f))
      ∧ (u.mat = some m → m.acc = s.ev.id → (m.pipe.find? fun y => y.step = s.ev.num && y.idx = s.ev.aux) = some p →
          (p.drain = false → ∃ (t : State) (m' : MatProg), exec .rowFinal s = .next t ∧ t.mem = s.mem ∧ (t.tile t0).mat = some m' ∧ (t.tile t0).acc = u.acc
              ∧ m'.pipe = m.pipe.filter fun y => !(y.step = s.ev.num && y.idx = s.ev.aux))
            ∧ (p.drain = true → ∃ (t : State) (m' : MatProg), exec .rowFinal s = .next t ∧ t.mem = s.mem ∧ (t.tile t0).mat = some m' ∧ m'.pipe.length = m.pipe.length
              ∧ (∀ y, y ∈ m'.pipe → y.step = s.ev.num → y.idx = s.ev.aux → y.final = true) ∧ t.agenda = ({ op := .accDrain, ev := { tile := t0, id := s.ev.id } } : Act) :: s.agenda))
      ∧ ((∀ y, u.mat = some y → y.acc ≠ s.ev.id) → u.roll.acc = s.ev.id → (u.roll.pipe.find? fun y => y.step = s.ev.num && y.idx = s.ev.aux) = some p →
          ∃ t : State, exec .rowFinal s = .next t ∧ t.mem = s.mem ∧ (t.tile t0).acc = u.acc
            ∧ (t.tile t0).roll.pipe = u.roll.pipe.filter (fun y => !(y.step = s.ev.num && y.idx = s.ev.aux))
            ∧ (p.drain = true → ∀ x, x ∈ u.roll.drSlots → x.step = s.ev.num →
                ∃ x', x' ∈ (t.tile t0).roll.drSlots ∧ x'.step = x.step ∧ Map.find x'.captured s.ev.aux = some p.value))
      ∧ (u.working s.ev.id = some k → u.mat = some m → m.pipe.find? PipeRow.drain = some p → p.final = true → m.drainedAt ≠ some u.eclk →
          let b := s.side t0 k 2
          let dm := (p.dm + p.idx).toNat
          let dn := p.dn.toNat
          let o := s.drainTo r b dn dm r.nlen p.value
          s.boxInScales b dn dm r.nlen 1 = false →
          let wrote := (2 ^ 24 * dm + dn) :: k.written
          let gs := if b.h.space = 0 then b.drainedGranules r.nlen dm dn wrote else []
          (∀ c, b.h.space = 0 → s.sFault t0 b.base = some c → drained (s.endTask t0 k.acc c u.eclk))
          ∧ (∀ e, (b.h.space = 0 → s.sFault t0 b.base = none) → s.keyWrites t0 b.h (o.rows ++ o.scales) = .error e →
              drained (if e.1 < 8 then (s.report cTRANSLATION e.1).endTask t0 k.acc cTRANSLATION u.eclk else s.endTask t0 k.acc cREMOTE_ERROR u.eclk))
          ∧ ∀ ks, (b.h.space = 0 → s.sFault t0 b.base = none) → s.keyWrites t0 b.h (o.rows ++ o.scales) = .ok ks →
            ((s.readPart t0 ks).2 = true → drained ((s.readPart t0 ks).1.endTask t0 k.acc cMEM_UNCORRECTABLE u.eclk)) ∧
            ((s.readPart t0 ks).2 = false → ∃ (t : State) (m' : MatProg) (k' : Task) (shown : List LateRow),
            drained t ∧ (∀ y, y ∈ shown ∨ y ∈ k'.late ↔ y ∈ k.late ++ (rowsOf ks).map fun n => { writes := ks.filter fun w => rowOf w.1 = n, grans := gs.filter fun g => rowOf (16 * g) = n })
              ∧ t.mem = shown.foldl (fun m y => applyWrites m y.writes) s.mem
              ∧ (k.late = [] → ∀ n, Mem.read (t.showAll t0 k.acc).mem n = Mem.read (applyWrites s.mem ks) n) ∧ (t.tile t0).mat = some m' ∧ m'.drainedAt = some u.eclk
              ∧ (m'.pipe = m.pipe.filter fun y => !(y.step = p.step && y.idx = p.idx))
              ∧ (t.tile t0).task k.acc = some k' ∧ k'.prog = k.prog + 1 ∧ k'.flags = k.flags ||| o.flags)))

/-- R242 to R244: WSWAP exchanges the planes, TOPKCLR empties the store, TOPKRD and TOPKRD.N answer entries of it or their number; each waits while the engine works, and WSWAP on a rolling
array is ILLEGAL_USE. -/
def Obligations.SwapAndTopk : Prop :=
  ∀ (s : State) (q : QReg) (d a : Reg),
    (s.mayIssue onC [] = true →
          (s.me.rolling = true → exec .wswap s = s.trap cILLEGAL_USE)
            ∧ (s.me.rolling = false → s.me.wload = none → s.me.released TaskRec.matmul = false →
                exec .wswap s = .next (s.modMe fun u => { u with planeA := u.planeS, planeS := u.planeA }).advance)
            ∧ (s.me.rolling = false → s.me.wload ≠ none ∨ s.me.released TaskRec.matmul = true → exec .wswap s = s.stall rINTERLOCK)
            ∧ (s.me.topBusy = false → ∃ t : State, exec .topkclr s = .next t.advance ∧ s.onlyTile t s.ct ∧ t.me.topk = [] ∧ t.cur = s.cur)
            ∧ (s.me.topBusy = true → exec .topkclr s = s.stall rINTERLOCK))
      ∧ (let es : List TopEntry := Map.get [] s.me.topk ((s.x a).toNat % 128)
         (s.mayIssue onC [.x a, .q q] = true → s.clearOf [.q q] = true →
            (s.me.topBusy = true → exec (.topkrd q a) s = s.stall rINTERLOCK)
              ∧ (s.me.topBusy = false → ∃ w : Row, exec (.topkrd q a) s = .next (s.answers [.q q] [w.setWidth 4096]).advance
                ∧ ∀ j, j < 8 → w.extractLsb' (64 * j) 32 = (es.getD (8 * ((s.x a).toNat / 128 % 4) + j) {}).v
                  ∧ w.extractLsb' (64 * j + 32) 32 = (es.getD (8 * ((s.x a).toNat / 128 % 4) + j) {}).i))
          ∧ (s.mayIssue onC [.x a, .x d] = true → s.clearOf [.x d] = true →
            (s.me.topBusy = true → exec (.topkrdN d a) s = s.stall rINTERLOCK)
              ∧ (s.me.topBusy = false → exec (.topkrdN d a) s = .next (s.answer d (BitVec.ofNat 64 es.length)).advance)))

/-- R260, R262 to R264, R266, R267: the Roll-mode instructions. DEMAND takes the oldest demand, or waits, or answers 0; FEED waits as MARK does, reads its row and sends it to the array of the
demand; DRAIN waits as MARK does and reaches the array, or is answered at once when the step is drained or over; both trap on a wrong demand word, an address that they may not access
and a bank or an element that does not suit; a FEED of a channel's row at or above its mark waits, or traps when the channel is poisoned (R295). CODA asks the group to end; ROLLSTAT answers what its selector names. R263 does not say when FEED reads its row and DRAIN reaches the array: both do at issue, the model's own choice (log entry 35). -/
def Obligations.RollInstructions : Prop :=
  ∀ (s : State) (d a b : Reg) (sel : BitVec 3),
    (s.mayIssue onCF [.x d] = true → s.clearOf [.x d] = true →
        (∀ w ws y, s.me.demandQ = w :: ws → exec (.demand d y) s = .next ((s.modMe fun u => { u with demandQ := ws }).answer d w).advance)
          ∧ (s.me.demandQ = [] → exec (.demand d true) s = .next (s.answer d 0).advance ∧ exec (.demand d false) s = s.stall rDEMAND_WAIT))
      ∧ (s.mayIssue onCF [.x a, .x b, .x d] = true → s.clearOf [.x d] = true →
          let w := s.x a
          let adr := (s.x b).toNat % 2 ^ 32
          let tt : TileNo := w.setWidth 8
          let r := (s.tile tt).roll
          let x := s.bankSide adr
          let f := s.fmtAt adr
          let step := w.toNat / 2 ^ 40 % 2 ^ 16
          let row := w.toNat / 2 ^ 24 % 2 ^ 8
          let srows := w.toNat / 2 ^ 32 % 2 ^ 8
          let pitch := (s.x b).toNat / 2 ^ 32 % 2 ^ 24
          let near : Prop := clusterOf tt = clusterOf s.ct ∧ clusterOf (keyTile adr) = clusterOf s.ct
          (∀ c, s.sFault s.ct adr = some c → exec (.feed d a b) s = s.trapAddr c (BitVec.ofNat 64 adr) ∧ exec (.drain d a b) s = s.trapAddr c (BitVec.ofNat 64 adr))
            ∧ (s.sFault s.ct adr = none →
              (¬ (w.toNat / 2 ^ 62 = 0 ∧ row < srows ∧ near) → exec (.feed d a b) s = s.trap cILLEGAL_USE)
              ∧ (w.toNat / 2 ^ 62 = 0 → row < srows → near →
                (s.elemNo adr = none → exec (.feed d a b) s = s.trap cFORMAT_MISMATCH)
                ∧ ∀ n, s.elemNo adr = some n →
                  let suits : Prop := (f.extractLsb' 0 5).toNat = r.afmt ∧ f.getLsbD 23 = true ∧ (f.extractLsb' 21 2).toNat = r.ablk ∧ n % r.la = 0 ∧ n + r.klen ≤ s.elemCap adr
                  let ks := (List.range (x.extraRows n r.klen + 1)).map (fun i => adr / 64 * 64 + 64 * i)
                    ++ ((List.range (ceilDiv r.klen r.la)).map fun q => s.scaleAt x.h x.base (n + q * r.la) 0 0 / 64 * 64).eraseDups
                  (¬ suits → exec (.feed d a b) s = s.trap cFORMAT_MISMATCH) ∧ (suits → s.cur.marked = false → exec (.feed d a b) s = s.stall rMARK)
                  ∧ (∀ n, suits → s.cur.marked = true → ks.find? (fun n => s.chanGate n = .poisoned) = some n →
                      exec (.feed d a b) s = s.trapAddr cCHANNEL_POISONED (BitVec.ofNat 64 n))
                  ∧ (suits → s.cur.marked = true → (∀ k, k ∈ ks → s.chanGate k ≠ .poisoned) → (∃ k, k ∈ ks ∧ s.chanGate k = .wait) → exec (.feed d a b) s = s.stall rFE_WAIT)
                  ∧ (suits → s.cur.marked = true → (∀ k, k ∈ ks → s.chanGate k = .free) → (∃ k, k ∈ ks ∧ Map.find s.ecc (k / 64 * 64) = some true) → s.losesRead (.feed d a b))
                  ∧ (suits → s.cur.marked = true → (∀ k, k ∈ ks → s.chanGate k = .free) → (∀ k, k ∈ ks → Map.find s.ecc (k / 64 * 64) = none) → ∃ (t : State) (f : FeedOp), exec (.feed d a b) s = .next t ∧ t.mem = s.mem
                    ∧ (t.tile tt).roll.feeds = r.feeds ++ [f] ∧ f.id = s.nextId ∧ f.step = step ∧ f.row = row ∧ f.epoch = w.extractLsb' 16 8 ∧ f.tile = s.ct ∧ f.st = s.cs
                    ∧ (∀ j, j < r.klen → Map.get 0 f.elems j = BitVec.ofInt 16 (x.readAt s tt r.pa (n + j, 0, 0)))
                    ∧ t.cur.pending = s.cur.pending ++ pendable [.x d] ∧ t.cur.pc = s.advance.cur.pc ∧ t.cur.x = s.cur.x
                    ∧ (s.clock + (if keyTile adr = s.ct then 4 else 8) + x.extraRows n r.klen, ({ op := .feedStage, ev := { tile := tt, id := s.nextId } } : Act)) ∈ t.timers)))
            ∧ (s.sFault s.ct adr = none →
              (¬ (w.toNat / 2 ^ 62 = 2 ∧ near) → exec (.drain d a b) s = s.trap cILLEGAL_USE)
              ∧ (w.toNat / 2 ^ 62 = 2 → near →
                (s.elemNo adr = none → exec (.drain d a b) s = s.trap cFORMAT_MISMATCH)
                ∧ ∀ n, s.elemNo adr = some n →
                  let bl := blkLen x.h.blk
                  let suits : Prop := x.h.fmt ≠ 0 ∧ elemOf x.h.fmt ≠ .reserved ∧ x.h.layout = false ∧ (x.h.scaled = true → n % bl = 0 ∧ pitch % bl = 0 ∧ r.nlen % bl = 0)
                    ∧ n + (srows - 1) * pitch + r.nlen ≤ s.elemCap adr
                  let past := r.isOver (w.extractLsb' 16 8) step
                  (¬ suits → exec (.drain d a b) s = s.trap cFORMAT_MISMATCH) ∧ (suits → s.cur.marked = false → exec (.drain d a b) s = s.stall rMARK)
                  ∧ (suits → s.cur.marked = true → ∃ t : State, exec (.drain d a b) s = .next t ∧ t.mem = s.mem ∧ t.cur.pc = s.advance.cur.pc ∧ t.cur.x = s.cur.x
                    ∧ t.cur.pending = s.cur.pending ++ pendable [.x d]
                    ∧ (past = false → r.drained.contains step = false → ∃ o : DrainOp, (t.tile tt).roll.drains = r.drains ++ [o] ∧ o.id = s.nextId ∧ o.step = step
                        ∧ o.addr = adr ∧ o.pitch = pitch ∧ (s.clock + 1, ({ op := .rollDrainWrite, ev := { tile := tt, id := s.nextId } } : Act)) ∈ t.timers)
                    ∧ ∀ v : VRow, d ≠ 0 → (past = true ∧ v = 2) ∨ (past = false ∧ r.drained.contains step = true ∧ v = 1) →
                        ∃ y, y ∈ t.cur.awaits ∧ y.id = s.nextId ∧ y.dests = [.x d] ∧ y.ready = true ∧ y.vals = [v]))))
      ∧ (let tt : TileNo := (s.x a).setWidth 8
         let r := (s.tile tt).roll
         (s.mayIssue onCF [.x a] = true →
            (∀ c, s.tileFault s.ct tt = some c → exec (.coda a) s = s.trap c)
              ∧ (s.tileFault s.ct tt = none →
                (r.state = 2 → (s.bus r.bus).formed = true → ∃ t : State, exec (.coda a) s = .next t.advance ∧ t.tiles = s.tiles ∧ t.mem = s.mem
                    ∧ t.bus r.bus = { s.bus r.bus with coda := true } ∧ ∀ j, j ≠ r.bus → t.bus j = s.bus j)
                  ∧ (r.state ≠ 2 ∨ (s.bus r.bus).formed = false → exec (.coda a) s = .next s.advance)))
          ∧ (s.mayIssue onCF [.x a, .x d] = true → s.clearOf [.x d] = true →
            (4 < sel.toNat → exec (.rollstat d a sel) s = s.trap cILLEGAL_ENCODING)
              ∧ (sel.toNat ≤ 4 → (∀ c, s.tileFault s.ct tt = some c → exec (.rollstat d a sel) s = s.trap c)
                ∧ (s.tileFault s.ct tt = none → exec (.rollstat d a sel) s = .next (s.answer d (BitVec.ofNat 64 (match sel.toNat with
                    | 0 => r.state.toNat + r.epoch.toNat * 2 ^ 8 + r.member * 2 ^ 16
                    | 1 => r.beats
                    | 2 => r.step
                    | 3 => r.miss
                    | _ => r.rests))).advance))))

/-- R247, R249 to R259, R263, R264, R267: the steps of Roll mode. A group forms when its members are complete, and where they differ it fails and another may form; its decision point chooses the kind of the next beat; a beat computes its
stripe on every member, or rests, or ends the roll; the members of a STARVED group, and those left of a group that has lost one, fail, and no further beat follows; demands reach their queues in order; a staged row fills its slot; a drain writes its row, or fails the roll; a group that pre-emption stops forms again later; a roll that has left
has its final state and raises its last words. A drain that finds its bank taken by a stream is tried again (R17). The model's own choices: log entries 5, 49, 57. -/
def Obligations.RollSteps : Prop :=
  ∀ (s : State),
    let n := s.ev.id
    let bus := s.bus n
    let t0 := s.ev.tile
    let u := s.tile t0
    (∀ l, bus.formed = false → findFrom (fun l => s.complete (s.forming n l)) 0 s.nextLaunch = some l →
        let ts := s.forming n l
        let r0 := (s.tile (ts.headD 0)).roll
        let same := ∀ x, x ∈ ts → let r := (s.tile x).roll
          r.p0.extractLsb' 0 32 = r0.p0.extractLsb' 0 32 ∧ r.plen = r0.plen ∧ r.p1.extractLsb' 0 20 = r0.p1.extractLsb' 0 20
        let distinct := (ts.map fun x => (s.tile x).roll.member).Nodup
        (same → distinct → ∃ t : State, exec .groupForm s = .next t ∧ t.mem = s.mem ∧ t.bus n = { launch := l, members := ts, formed := true, beat := r0.beats, coda := ts.any fun x => (s.tile x).roll.coda : Bus }
            ∧ (∀ x, x ∈ ts → (t.tile x).roll.state = 2) ∧ ∃ x, (s.clock + 8, ({ op := .beat, ev := { tile := x, id := n, num := r0.beats } } : Act)) ∈ t.timers)
          ∧ (¬ same ∨ ¬ distinct → ∃ t : State, exec .groupForm s = .next t ∧ t.mem = s.mem ∧ (t.bus n).formed = false ∧ t.agenda = s.agenda ++ [{ op := .groupForm, ev := { id := n } }]
            ∧ ∀ x k, x ∈ ts → (s.tile x).task (s.tile x).roll.acc = some k → k.ended = none → ∃ k', (t.tile x).task (s.tile x).roll.acc = some k' ∧ k'.ended = some cBADPARAM))
      ∧ (bus.formed = true → bus.beat = s.ev.num → s.rollers bus ≠ [] → (s.rollers bus).Nodup →
          let ms := s.rollers bus
          let r := (s.tile (ms.headD 0)).roll
          let ready := ∀ x, x ∈ ms → (s.tile x).rollReady = true
          let saved := ∀ x, x ∈ ms → (s.tile x).preemptReq = true
          let fails (i : Instr) (c : BitVec 16) (f : Bus → Bus) : Prop := ∃ t : State, exec i s = .next t ∧ t.mem = s.mem ∧ t.bus n = f bus ∧ t.timers = s.timers
            ∧ ∀ x, x ∈ ms → let z := s.tile x
              (t.tile x).roll.stopping = some (z.roll.stopping.getD c)
                ∧ ∀ k, z.rollTask = some k → k.cancel = false → z.roll.pipe = [] →
                  (t.tile x).task z.roll.acc = some { k with ended := some (z.roll.stopping.getD c), endAt := z.eclk }
          let decides (k : BeatKind) : Prop := ∃ t : State, exec .decisionPoint s = .next t ∧ t.mem = s.mem ∧ t.bus n = { bus with kind := k }
          (s.late = false → exec .decisionPoint s = .next (s.postLate { op := .decisionPoint, ev := { s.ev with w0 := if bus.coda then 1 else 0 } }))
            ∧ (s.late = true → r.step ≠ r.nsteps →
              (s.ev.w0 = 1 → decides .coda) ∧ (s.ev.w0 ≠ 1 → saved → decides .stop)
              ∧ (s.ev.w0 ≠ 1 → ¬ saved → s.ev.num < r.lead → decides .rest)
              ∧ (s.ev.w0 ≠ 1 → ¬ saved → r.lead ≤ s.ev.num → ready → bus.lost = false → decides .compute)
              ∧ (s.ev.w0 ≠ 1 → ¬ saved → r.lead ≤ s.ev.num → ¬ ready → bus.lost = false → r.rests < r.restlim → decides .rest)
              ∧ (s.ev.w0 ≠ 1 → ¬ saved → r.lead ≤ s.ev.num → ¬ ready → bus.lost = false → r.restlim ≤ r.rests → fails .decisionPoint cSTARVED fun b => { b with kind := .starved })
              ∧ (s.ev.w0 ≠ 1 → ¬ saved → r.lead ≤ s.ev.num → bus.lost = true → decides .rest))
            ∧ (bus.lost = true → fails .beat cGROUP_LOST id)
            ∧ (bus.lost = false → bus.kind = .starved → exec .beat s = .next s)
            ∧ (bus.lost = false → bus.kind = .stop → ∃ t : State, exec .beat s = .next t ∧ t.mem = s.mem ∧ (t.bus n).formed = false ∧ (t.bus n).members = []
              ∧ t.agenda = s.agenda ++ [{ op := .groupForm, ev := { id := n } }] ∧ ∀ x, x ∈ ms → (t.tile x).roll = { (s.tile x).roll with state := 1, coda := bus.coda })
            ∧ (bus.lost = false → bus.kind ≠ .starved → bus.kind ≠ .stop →
              (r.step = r.nsteps ∨ bus.kind = .coda → ∃ t : State, exec .beat s = .next t ∧ t.mem = s.mem ∧ ∀ x, x ∈ ms → (t.tile x).roll.state = 3)
              ∧ (r.step ≠ r.nsteps → bus.kind ≠ .coda →
                let computes := r.lead ≤ bus.beat ∧ bus.kind = .compute
                ∃ t : State, exec .beat s = .next t ∧ t.mem = s.mem ∧ (t.bus n).beat = bus.beat + 1
                  ∧ (∃ x, (s.clock + r.period, ({ op := .beat, ev := { tile := x, id := n, num := bus.beat + 1 } } : Act)) ∈ t.timers)
                  ∧ ∀ x, x ∈ ms →
                    let z := s.tile x
                    let z' := t.tile x
                    let e := z.roll.entry z.roll.step
                    let w := if z.roll.needsW z.roll.step then z.planeS else z.planeA
                    let o : OpSlot := z.roll.slots.getD (z.roll.step % 2) {}
                    let row0 := (if z.roll.p0.getLsbD 60 then 128 else 0) + (e.extractLsb' 0 7).toNat
                    let sound : Prop := (∀ g, g ∈ w.bad → ¬(g / 256 < z.roll.nlen ∧ g % 256 < z.roll.klen)) ∧ ∀ i, Map.find z.ecc (eccAcc i) = none
                    z'.roll.beats = z.roll.beats + 1 ∧ z'.c = z.c ∧ z'.v = z.v ∧ z'.f = z.f
                      ∧ (¬ computes → z'.roll.step = z.roll.step ∧ z'.acc = z.acc ∧ z'.planeA = z.planeA)
                      ∧ (¬ computes → r.lead ≤ bus.beat → z'.roll.rests = z.roll.rests + 1 ∧ z'.roll.miss = Nat.min (z.roll.miss + 1) (2 ^ 32 - 1))
                      ∧ (computes → (∃ g, g ∈ w.bad ∧ g / 256 < z.roll.nlen ∧ g % 256 < z.roll.klen) → z'.acc = z.acc ∧ (z.roll.bus = n → (t.bus n).lost = true)
                        ∧ ∀ k, z.task z.roll.acc = some k → k.ended = none →
                          z'.task z.roll.acc = some { k with ended := some (z.roll.stopping.getD cBADPARAM), endAt := z.eclk })
                      ∧ (computes → sound → z'.roll.step = z.roll.step + 1 ∧ z'.roll.rests = 0 ∧ z'.planeA = w
                        ∧ (∀ i, i < z.roll.srows → z'.accAt (row0 + i) =
                            (accRowStep w z.roll.la z.roll.pa z.roll.klen z.roll.nlen (fun j => (Map.get 0 o.elems (256 * i + j)).toInt) (fun q => (Map.get 0 o.scales (256 * i + q)).toNat)
                              (if e.getLsbD 7 then 0 else z.accAt (row0 + i))).1)
                        ∧ ∀ y, y < row0 ∨ row0 + z.roll.srows ≤ y → z'.accAt y = z.accAt y))))
      ∧ (∀ d ds, u.roll.demands = d :: ds → (s.launch d.launch).status = 0 → d.due ≤ u.eclk →
          let v := s.tile d.tile
          let takes : Prop := v.frozen = false ∧ (∃ x, v.unit = some x ∧ x.launch = d.launch) ∧ v.qTakes 2 1 = true
          (takes → ∃ (t : State) (ws : List Word), exec .demandAppend s = .next t ∧ t.mem = s.mem ∧ (t.tile d.tile).demandQ = v.demandQ ++ d.word :: ws)
            ∧ (¬ takes → ∃ t : State, exec .demandAppend s = .next t ∧ t.mem = s.mem ∧ (t.tile d.tile).demandQ = v.demandQ ∧ (t.tile t0).roll.demands.head? = some d))
      ∧ (∀ f, (u.roll.feeds.find? fun f => f.id = s.ev.id) = some f →
          let r := u.roll
          let o : OpSlot := r.slots.getD (f.step % 2) {}
          let old : Prop := f.step < r.step ∨ (o.step = f.step ∧ (o.rows.contains f.row = true ∨ r.present f.step = true))
          let ahead : Prop := (2 ≤ f.step ∧ r.step + 1 < f.step) ∨ u.eclk < o.freeAt
          let ends (v : VRow) (p : Roll → Prop) : Prop := ∃ t : State, exec .feedStage s = .next t ∧ t.mem = s.mem ∧ p (t.tile t0).roll
            ∧ (t.tile t0).roll.feeds = r.feeds.filter (fun g => g.id ≠ f.id)
            ∧ ∀ y, y ∈ (s.strmOf f.tile f.st).awaits → y.id = f.id → ∃ g, g ∈ (t.strmOf f.tile f.st).awaits ∧ g.id = y.id ∧ g.dests = y.dests ∧ g.ready = true ∧ g.vals = [v]
          (r.isOver f.epoch f.step = true → ends 2 fun q => q.slots = r.slots)
            ∧ (r.isOver f.epoch f.step = false → u.rollTask ≠ none → old → ends 1 fun q => q.slots = r.slots)
            ∧ (r.isOver f.epoch f.step = false → u.rollTask = none ∨ (¬ old ∧ ahead) → ∃ t : State, exec .feedStage s = .next t ∧ t.tiles = s.tiles ∧ t.mem = s.mem
              ∧ t.waiters = s.waiters ++ [{ op := .feedStage, ev := s.ev }])
            ∧ (r.isOver f.epoch f.step = false → u.rollTask ≠ none → ¬ old → ¬ ahead → r.slots.length = 2 → ends 0 fun q => ∃ o' : OpSlot, q.slots[f.step % 2]? = some o' ∧ o'.step = f.step
              ∧ o'.rows = insertNat f.row (if o.step = f.step then o.rows else [])))
      ∧ (∀ d x v, (u.roll.drains.find? fun d => d.id = s.ev.id) = some d → (u.roll.drSlots.find? fun x => x.step = d.step && x.doneAt.isNone) = some x → d.lastAt ≠ some u.eclk →
          (∀ e, e ∈ u.roll.drains → e.step = d.step → d.id ≤ e.id) → Map.find x.captured x.written = some v →
          let b := s.bankSide d.addr
          let o := s.drainTo { rmv := u.roll.rmv, rm := u.roll.rm } b ((s.elemNo d.addr).getD 0 + x.written * d.pitch) 0 u.roll.nlen v
          let drained (x : State) : Prop := exec .rollDrainWrite s = s.giveWay .rollDrainWrite x
          let part := s.readPart t0 (o.rows ++ o.scales)
          (∀ c, s.sFault d.tile d.addr = some c → drained ((s.endDrains t0 (fun e => e.step = d.step) 2).rollBreak t0 c))
          ∧ (s.sFault d.tile d.addr = none → part.2 = true → drained ((part.1.endDrains t0 (fun e => e.step = d.step) 2).rollBreak t0 cMEM_UNCORRECTABLE))
          ∧ (s.sFault d.tile d.addr = none → part.2 = false →
          ∃ t : State, drained t ∧ t.mem = applyWrites s.mem (o.rows ++ o.scales)
            ∧ (x.written + 1 = u.roll.srows → (t.tile t0).roll.drained = d.step :: u.roll.drained
              ∧ ∀ y, y ∈ (s.strmOf d.tile d.st).awaits → y.id = d.id → ∃ g, g ∈ (t.strmOf d.tile d.st).awaits ∧ g.id = y.id ∧ g.ready = true ∧ g.vals = [0])))
      ∧ (u.roll.uid = s.ev.id → ∃ t : State, exec .rollStop s = .next t ∧ t.mem = s.mem ∧ (t.tile t0).roll.drains = [] ∧ (t.tile t0).roll.pipe = [] ∧ (t.tile t0).roll.drSlots = []
          ∧ (∃ ds : List Demand, (t.tile t0).roll.demands = u.roll.demands ++ ds ∧ (∀ d, d ∈ ds → d.word = u.roll.word t0 3 0 0 ∧ d.launch = u.roll.launch)
              ∧ ds.map Demand.tile = (ranksOf (u.roll.opranks ||| u.roll.wranks ||| u.roll.drranks)).map (tileAt (clusterOf t0)))
          ∧ ((t.tile t0).roll.state = if s.ev.num = 4 then 4 else if s.ev.num = 6 then 7 else if s.ev.aux = 0x25 then 5 else 6)
          ∧ ((s.bus u.roll.bus).formed = true → (s.bus u.roll.bus).members.contains t0 = true →
              (t.bus u.roll.bus).members = (s.bus u.roll.bus).members.filter (fun x => x ≠ t0)
                ∧ (t.bus u.roll.bus).lost = ((s.bus u.roll.bus).lost || s.ev.num != 4)))

/-- R24, R27, R196, R197, R339 to R345, R349 to R351: launches and the dispatcher. LAUNCH and LAUNCH.W add a child launch within their quota, or answer why
not; TAIL_WRITE takes a queue's TAIL; a queue's record is consumed into a launch, once the pool has room; admission journals, then orders it, or rejects
it; a completion word is written through the gate, and held while the gate is closed; its vector is raised, or stays pending while the host masks it. The model's own choices:
that the consumption of a ring that does not translate is tried again (log entry 43), the kinds of journal record and the checkpoint at the 4,096th (73), the vector table (90), and
the time of a step (5). -/
def Obligations.Launches : Prop :=
  ∀ (s : State) (d a : Reg) (r0 r1 : Row),
    let q := s.ev.id
    let h := s.hostQ q
    let n := s.nextLaunch
    let quota := (r0.extractLsb' 244 12).toNat
    let made (t : State) : Prop :=
      (t.launch n).prog = (r0.extractLsb' 456 56).toNat ∧ (t.launch n).args = (r0.extractLsb' 400 56).toNat ∧ (t.launch n).plane = (r0.extractLsb' 344 56).toNat
        ∧ (t.launch n).nunits = (r0.extractLsb' 228 16).toNat ∧ (t.launch n).cls = (r0.extractLsb' 226 2).toNat ∧ (t.launch n).quota = quota
    (s.mayIssue onC [.x a, .x d] = true → s.clearOf [.x d] = true →
      let own := s.me.launchNo
      let p := s.launch own
      (p.cls = 2 → exec (.launchW d a) s = s.trap cILLEGAL_USE)
        ∧ (s.cur.fenced s.ct 4 = false → exec (.launch d a) s = s.stall rFENCE ∧ (p.cls ≠ 2 → exec (.launchW d a) s = s.stall rFENCE))
        ∧ (s.cur.fenced s.ct 4 = true → s.recordRows (s.x a) [r0, r1] →
          let bad : Prop := recBad r0 r1 = true ∨ r0.getLsbD 220 = true ∨ r0.getLsbD 219 = true
            ∨ ∃ k, k ∈ recDeps r0 r1 ∧ ¬(Map.has s.launches k = true ∧ (s.launch k).parent = some own)
          let both (f : Instr → Prop) : Prop := f (.launch d a) ∧ (p.cls ≠ 2 → f (.launchW d a))
          (¬ bad → 1 + quota ≤ p.share → both fun i => ∃ t : State, exec i s = .next (t.answer d (BitVec.ofNat 64 n)).advance ∧ t.tiles = s.tiles ∧ t.mem = s.mem ∧ made t
              ∧ t.nextLaunch = n + 1 ∧ (own ≠ n → (t.launch n).parent = some own ∧ (t.launch n).part = p.part ∧ (t.launch n).ctx = p.ctx
                  ∧ (t.launch n).unitsLeft = (t.launch n).nunits ∧ (t.launch own).share = p.share - (1 + quota) ∧ (t.launch own).childrenLeft = p.childrenLeft + 1)
              ∧ ∃ c, (c, ({ op := .launchAdmit, ev := { id := n } } : Act)) ∈ t.timers)
            ∧ (¬ bad → p.share < 1 + quota → exec (.launch d a) s = .next (s.answer d (BitVec.ofNat 64 (2 ^ 63 + 1))).advance
                ∧ (p.cls ≠ 2 → ∃ t : State, exec (.launchW d a) s = .next t ∧ t.mem = s.mem ∧ t.launches = s.launches ∧ t.cur.pc = s.cur.pc ∧ t.cur.stall = rLAUNCH_QUOTA))
            ∧ (bad → both fun i => exec i s = .next (s.answer d (BitVec.ofNat 64 (2 ^ 63 + 2))).advance)))
      ∧ (∀ k, k < 64 → s.ide = true → q = 0x80000 + 64 * k → ∃ t : State, exec .tailWrite s = .next t ∧ t.tiles = s.tiles ∧ t.mem = s.mem
          ∧ t.hostQ k = { s.hostQ k with tail := BitVec.ofNat 32 s.ev.num } ∧ t.kickmap.getLsbD k = true
          ∧ (∃ c, (c, ({ op := .queueConsume, ev := { id := k } } : Act)) ∈ t.timers) ∧ ∀ j, j ≠ k → t.hostQ j = s.hostQ j)
      ∧ ((s.ide = false ∨ ∀ k, k < 64 → q ≠ 0x80000 + 64 * k) → exec .tailWrite s = .next s)
      ∧ ((h.enable = false ∨ s.serving = false ∨ s.recovery = true) → exec .queueConsume s = .next s)
      ∧ (h.enable = true → s.serving = true → s.recovery = false →
          let adr := h.base + 128 * (h.head.toNat % 2 ^ h.log2n)
          let s1 := s.useRanges h.ctx [(adr, 128)]
          (2 ^ h.log2n < h.behind → ∃ t : State, exec .queueConsume s = .next t ∧ t.tiles = s.tiles ∧ t.mem = s.mem ∧ t.hostQ q = { h with enable := false }
              ∧ t.reports = s.reports ++ [{ code := cQUEUE_OVERRUN, info := q }])
            ∧ (h.behind = 0 → exec .queueConsume s = .next s)
            ∧ (h.behind ≠ 0 → h.behind ≤ 2 ^ h.log2n → (s1.hubRow h.ctx adr = none ∨ s1.hubRow h.ctx (adr + 64) = none) → ∃ t : State, exec .queueConsume s = .next t
                ∧ t.hostQs = s.hostQs ∧ t.launches = s.launches ∧ ∃ c, (c, ({ op := .queueConsume, ev := { id := q } } : Act)) ∈ t.timers)
            ∧ (h.behind ≠ 0 → h.behind ≤ 2 ^ h.log2n → s1.hubRow h.ctx adr = some r0 → s1.hubRow h.ctx (adr + 64) = some r1 →
                let bad := recBad r0 r1 = true ∨ h.hostDeps (recDeps r0 r1) = none
                (¬ bad → 1 + quota ≤ s.poolFree → (Map.get {} (s1.openLevels q).graphs (((s1.openLevels q).hostQ q).graph.getD 0) : Level).status = 0 → ∃ t : State,
                    exec .queueConsume s = .next t ∧ t.tiles = s.tiles ∧ t.mem = s.mem ∧ made t ∧ (t.launch n).status = 0 ∧ (t.launch n).admitted = false
                      ∧ (t.launch n).host = some (q, h.head.toNat) ∧ t.nextLaunch = n + 1 ∧ (t.hostQ q).head = h.head + 1 ∧ t.poolFree = s.poolFree - (1 + quota)
                      ∧ (s.journal.length < 4095 → t.journal = s.journal ++ [{ kind := 0, id := n, val := (h.head + 1).toNat }])
                      ∧ ({ op := .launchAdmit, ev := { id := n } } : Act) ∈ t.agenda)
                  ∧ (¬ bad → s.poolFree < 1 + quota → ∃ t : State, exec .queueConsume s = .next t ∧ t.hostQs = s.hostQs ∧ t.launches = s.launches
                    ∧ t.waiters = s.waiters ++ [{ op := .queueConsume, ev := s.ev }])
                  ∧ (bad → ∃ t : State, exec .queueConsume s = .next t ∧ (t.launch n).status = 4 ∧ (t.hostQ q).head = h.head + 1)))
      ∧ (s.serving = true → Map.has s.launches q = true → (s.launch q).status = 0 → (s.launch q).admitted = false → (s.launch q).cancelled = false →
          let l := s.launch q
          let s1 := s.useRanges l.ctx (s.admitRanges l)
          (s1.admits l = true → ∃ t : State, exec .launchAdmit s = .next t ∧ t.tiles = s.tiles ∧ t.mem = s.mem ∧ (t.launch q).admitted = true
              ∧ (t.launch q).order = s.admitCtr ∧ t.admitCtr = s.admitCtr + 1 ∧ (s.journal.length < 4095 → t.journal = s.journal ++ [{ kind := 1, id := q }])
              ∧ ∃ c, (c, ({ op := .dispatchRound, ev := { num := l.part } } : Act)) ∈ t.timers)
            ∧ (s1.admits l = false → l.childrenLeft = 0 → ∃ t : State, exec .launchAdmit s = .next t ∧ (t.launch q).status = 4))
      ∧ (s.Inv →
          let l := s.launch q
          let v := (l.host.map Prod.fst).getD 0
          let raises (t : State) : Prop := (l.irq = false → t.irqs = s.irqs) ∧ (l.irq = true → (s.msixWord (2 * v + 1)).getLsbD 32 = false → t.irqs = s.irqs ++ [v])
            ∧ (l.irq = true → (s.msixWord (2 * v + 1)).getLsbD 32 = true → t.irqs = s.irqs ∧ v ∈ t.msixPend)
          let word := l.status.toNat * 2 ^ 40 + (l.host.map Prod.fst).getD 0 * 2 ^ 32 + (l.host.map Prod.snd).getD 0
          (s.gate = false → ∃ t : State, exec .completionWord s = .next t ∧ t.mem = s.mem ∧ t.irqs = s.irqs ∧ t.heldWords = s.heldWords ++ [q])
            ∧ (s.gate = true → ∀ p, l.doneAddr ≠ 0 → s.hubTranslate hubDisp l.ctx (BitVec.ofNat 64 l.doneAddr) false true = .ok p → ∃ t : State, exec .completionWord s = .next t
              ∧ Mem.readN t.mem p.key 8 = word % 2 ^ 64 ∧ (∀ k, k < p.key ∨ p.key + 8 ≤ k → Mem.read t.mem k = Mem.read s.mem k) ∧ raises t)
            ∧ (s.gate = true → ∀ e, l.doneAddr ≠ 0 → s.hubTranslate hubDisp l.ctx (BitVec.ofNat 64 l.doneAddr) false true = .error e →
              ∃ t : State, exec .completionWord s = .next t ∧ t.mem = s.mem ∧ raises t)
            ∧ (s.gate = true → l.doneAddr = 0 → ∃ t : State, exec .completionWord s = .next t ∧ t.mem = s.mem ∧ raises t))

/-- R28, R331 to R334, R342, R346, R347, R350 to R352: units and their planes, and the scheduler cores. A round gives the chosen launch its tiles: a WEAK unit the lowest free one or its listed one, a
PARALLEL or CONCURRENT launch all of its units or none, saved units the tiles they left; a launch that finds no tile reserves its place and the victims of lower priority are asked,
the lowest priority first, of one priority the youngest; difference
records fill the inactive plane, which flips once the end record's checksum and the checks agree, and is restored when they do not; a placed unit starts
with its entry lanes and registers, once its image translates; cores halt, take over, are reloaded, and start at the end of the bring-up. The model's own choices: CORE_RELOAD
with number 2 as the start of the cores (log entry 17), an image that does not translate at placement (43), what the take-over replays, and the reload that waits for it (73). -/
def Obligations.UnitsAndCores : Prop :=
  ∀ (s : State),
    let t0 := s.ev.tile
    let u := s.tile t0
    let n := s.ev.id
    let l := s.launch n
    (∀ (p m i : Nat) (s' : State) (tt : TileNo), p = s.ev.num → s.serving = true → s.failDeps p = s → (s.part p).reservation = none → s.choose p = (s', some m) → (s.launch m).cls = 0 →
        (s.launch m).place = 0 → s.unplaced m = ([], [i]) → (s.freeTiles p).head? = some tt → ∃ t : State, exec .dispatchRound s = .next t ∧ t.mem = s.mem
          ∧ (t.tile tt).placing = some (m, i) ∧ (t.launch m).waiting = [] ∧ (t.tile tt).unit = none ∧ ∀ k, k ≠ tt → t.tile k = s.tile k)
      ∧ (∀ (m : Nat) (s' : State), s.serving = true → s.failDeps s.ev.num = s → (s.part s.ev.num).reservation = none → s.choose s.ev.num = (s', some m) →
          let p := s.ev.num
          let a := s.launch m
          let round (t : State) : Prop := exec .dispatchRound s = .next t ∧ t.mem = s.mem
          let reserves (t : State) : Prop := round t ∧ (t.part p).reservation = some m ∧ (t.launch m).waiting = a.waiting ∧ ∀ k, (t.tile k).placing = (s.tile k).placing
          (∀ ws : List Nat, a.cls ≠ 0 → s.unplaced m = ([], ws) → ws ≠ [] →
              let ts := if a.place = 1 then ws.filterMap fun i => a.listTiles[i]? else (s.freeTiles p).take ws.length
              let fits : Prop := ts.length = ws.length ∧ ∀ k, k ∈ ts → s.isFree p k = true
              (fits → ts.Nodup → ∃ t, round t ∧ (t.launch m).waiting = [] ∧ (∀ (j i : Nat) (k : TileNo), ws[j]? = some i → ts[j]? = some k → (t.tile k).placing = some (m, i))
                  ∧ ∀ k, k ∉ ts → t.tile k = s.tile k)
                ∧ (¬ fits → ∃ t, reserves t))
            ∧ (∀ xs : List Saved, s.unplaced m = (xs, []) → xs ≠ [] → (xs.map Saved.tileNo).Nodup → (∀ x, x ∈ xs → s.isFree p x.tileNo = true) →
                ∃ t, round t ∧ (∀ x, x ∈ xs → (t.tile x.tileNo).placing = some (x.launch, x.idx)) ∧ ∀ k, (∀ x, x ∈ xs → x.tileNo ≠ k) → t.tile k = s.tile k)
            ∧ (∀ (i : Nat) (k : TileNo), a.cls = 0 → a.place = 1 → s.unplaced m = ([], [i]) → a.listTiles[i]? = some k →
                (s.isFree p k = true → ∃ t, round t ∧ (t.tile k).placing = some (m, i) ∧ ∀ j, j ≠ k → t.tile j = s.tile j) ∧ (s.isFree p k = false → ∃ t, reserves t))
            ∧ (∀ i, a.cls = 0 → a.place = 0 → s.unplaced m = ([], [i]) → s.freeTiles p = [] → (∀ q, q ∈ s.tiles → q.2.preemptAsk = false ∧ q.2.preemptReq = false) →
                let victim (y : Nat × Launch) : Prop := y.2.part = p ∧ y.2.pri < a.pri ∧ y.2.cls ≠ 2 ∧ s.resident y.1 ≠ []
                ((∀ y, y ∈ s.launches → ¬ victim y) → ∃ t, reserves t ∧ t.tiles = s.tiles)
                  ∧ ∀ y k, y ∈ s.launches → victim y → (s.resident y.1).head? = some k →
                    (∀ z, z ∈ s.launches → victim z → z = y ∨ y.2.pri < z.2.pri ∨ (y.2.pri = z.2.pri ∧ z.2.order < y.2.order)) →
                    let vt := if y.2.cls = 0 then [k] else s.gangTiles k
                    vt ≠ [] → ∃ t, reserves t ∧ (∀ j, j ∈ vt → (t.tile j).preemptAsk = true) ∧ ∀ j, j ∉ vt → t.tile j = s.tile j))
      ∧ (0x100 ≤ n → n ≤ 0x120 → ∃ t : State, exec .planeDiff s = .next t ∧ s.onlyTile t t0 ∧ (t.tile t0).planeReg2 n = s.ev.w0 ∧ (t.tile t0).plane = u.plane)
      ∧ ((n < 0x100 ∨ 0x120 < n) → exec .planeDiff s = .next s)
      ∧ (∃ t : State, exec .planeEnd s = .next t ∧ t.mem = s.mem ∧ t.tile t0 = { u with planeEnd := some (n, s.ev.w0.setWidth 32) }
          ∧ (u.unit = none → t.agenda = s.agenda ++ [{ op := .planeFlip, ev := { tile := t0 } }]) ∧ (u.unit ≠ none → t.agenda = s.agenda))
      ∧ ((u.planeEnd = none ∨ u.unit ≠ none) → exec .planeFlip s = .next s)
      ∧ (∀ m crc, u.planeEnd = some (m, crc) → u.unit = none →
          (planeCrc u.planeReg2 = crc → planeBad u.planeReg2 = false → ∃ t : State, exec .planeFlip s = .next t ∧ t.mem = s.mem ∧ (t.tile t0).plane = u.plane2
              ∧ (t.tile t0).planeEnd = none)
            ∧ (planeCrc u.planeReg2 ≠ crc → ∃ t : State, exec .planeFlip s = .next t ∧ t.mem = s.mem ∧ (t.tile t0).plane = u.plane ∧ (t.tile t0).plane2 = u.plane
              ∧ (t.tile t0).planeEnd = none ∧ t.reports = s.reports ++ [{ code := cCFG_MISMATCH, info := t0.toNat }])
            ∧ (planeCrc u.planeReg2 = crc → planeBad u.planeReg2 = true → ∃ t : State, exec .planeFlip s = .next t ∧ (t.tile t0).plane = u.plane
              ∧ ({ code := cCFG_INVALID, info := t0.toNat } : Report) ∈ t.reports
              ∧ ((∃ i, u.placing = some (m, i)) → (s.launch m).status = 0 → (s.launch m).cancelled = false → (s.launch m).placed = 0 → (s.launch m).childrenLeft = 0 →
                  (t.launch m).status = 4)))
      ∧ (u.placing = some (n, s.ev.num) → u.flipped = true → u.unit = none → l.status = 0 → l.cancelled = false → s.late = false → s.mapped l.ctx (s.imageRanges l) = false →
          ∃ t : State, exec .unitPlace s = .next t ∧ t.mem = s.mem ∧ t.tiles = s.tiles ∧ { op := .unitPlace, ev := s.ev } ∈ t.waiters)
      ∧ (u.placing = some (n, s.ev.num) → u.flipped = true → u.unit = none → l.status = 0 → l.cancelled = false → s.late = false → s.mapped l.ctx (s.imageRanges l) = true →
          ∀ m, (s.useRanges l.ctx (s.imageRanges l)).image l = some m →
          ∃ t : State, exec .unitPlace s = .next t ∧ (t.tile t0).unit = some { launch := n, idx := s.ev.num } ∧ (t.tile t0).ttick = 0 ∧ (t.tile t0).zeroed = true
            ∧ (t.tile t0).placing = none ∧ (t.launch n).placed = l.placed + 1
            ∧ ∀ st, let z := (t.tile t0).strm st
              let e := m.entries.getD (streamNo st) 0xFFFF
              (e = 0xFFFF → z.mode = .noEntry)
                ∧ (e ≠ 0xFFFF → z.mode = .running ∧ z.pc = BitVec.ofNat 16 e ∧ z.xr 1 = BitVec.ofNat 64 s.ev.num ∧ z.xr 2 = BitVec.ofNat 64 l.nunits ∧ z.xr 3 = BitVec.ofNat 64 l.args
                  ∧ z.xr 4 = BitVec.ofNat 64 (t0.toNat * 2 ^ 23) ∧ z.xr 5 = BitVec.ofNat 64 n ∧ ∀ k : Reg, 5 < k.toNat → z.xr k = 0))
      ∧ (∀ i, i ∈ [Instr.heartbeatMiss, .coreHalt] → (i = .coreHalt → (s.ev.num % 2 = 1 ↔ s.active = true)) → (if s.active then s.halted1 else s.halted0) = false → ∃ t : State,
          exec i s = .next t ∧ t.mem = s.mem ∧ t.tiles = s.tiles ∧ t.gate = false ∧ (if s.active then t.halted1 else t.halted0) = true
            ∧ (s.standby = true → ∃ c, (c, ({ op := .schedTakeover } : Act)) ∈ t.timers))
      ∧ (¬(s.ev.num % 2 = 1 ↔ s.active = true) → ∃ t : State, exec .coreHalt s = .next t ∧ t.mem = s.mem ∧ t.tiles = s.tiles ∧ t.gate = s.gate ∧ t.standby = false
          ∧ (if s.active then t.halted0 else t.halted1) = true)
      ∧ (s.standby = true → s.gate = false → ∃ t : State, exec .schedTakeover s = .next t ∧ t.gate = true ∧ t.standby = false ∧ t.heldWords = [] ∧ t.tiles = s.tiles
          ∧ (s.heldWords = [] → ∀ j, j ∈ t.journal → j.done = true)
          ∧ (t.active = if (if s.active then s.halted1 else s.halted0) then !s.active else s.active)
          ∧ (t.takeovers = if s.takeovers = BitVec.allOnes 16 then s.takeovers else s.takeovers + 1)
          ∧ ({ code := cSCHED_TAKEOVER, info := 0 } : Report) ∈ t.reports)
      ∧ (s.ev.num = 2 → ∃ t : State, exec .coreReload s = .next t ∧ t.mem = s.mem ∧ t.tiles = s.tiles ∧ (t.gate = true ↔ s.halted0 = false ∨ s.halted1 = false)
          ∧ (t.standby = true ↔ s.halted0 = false ∧ s.halted1 = false) ∧ (t.active = true ↔ s.halted0 = true ∧ s.halted1 = false))
      ∧ (s.ev.num ≠ 2 → (if s.ev.num % 2 = 1 then s.halted1 else s.halted0) = false → exec .coreReload s = .next s)
      ∧ (s.ev.num ≠ 2 → (if s.ev.num % 2 = 1 then s.halted1 else s.halted0) = true → s.standby = true → s.gate = false → exec .coreReload s = .next (s.retry .coreReload))
      ∧ (s.ev.num ≠ 2 → (if s.ev.num % 2 = 1 then s.halted1 else s.halted0) = true → s.standby = false ∨ s.gate = true → ∃ t : State, exec .coreReload s = .next t ∧ t.mem = s.mem ∧ t.tiles = s.tiles ∧ t.standby = true ∧ t.gate = s.gate
          ∧ (if s.ev.num % 2 = 1 then t.halted1 else t.halted0) = false)

/-- R360, R366 to R369: pre-emption and resumption. A request is void when the unit is over and is deferred while a trap is handled; taken, every stream of the unit
stops; once the gang is quiet the rows that its tasks have written are seen, each member is saved and its tile is free; a saved unit resumes on its tile with its state and its
scratchpad, once its image translates. That the gang is saved in one clock (log entry 48), what is saved and what stays with the tile (49), and the wait for an image that does
not translate (43) are the model's own choices. -/
def Obligations.PreemptionAndResumption : Prop :=
  ∀ (s : State),
    let t0 := s.ev.tile
    let u := s.tile t0
    let n := s.ev.id
    let held := u.c.priv ≠ 0 ∨ u.handling ≠ none ∨ ∃ st, (u.strm st).mode = .held
    ((u.unit = none ∨ u.unitOver = true) → ∃ t : State, exec .preemptTake s = .next t ∧ t.mem = s.mem ∧ t.tile t0 = { u with preemptAsk := false, preemptFor := none }
        ∧ ∀ k, k ≠ t0 → t.tile k = s.tile k)
      ∧ (u.unit ≠ none → u.unitOver = false → u.preemptReq = false →
          ((u.preemptAsk = false ∨ held) → exec .preemptTake s = .next s)
            ∧ (u.preemptAsk = true → ¬ held → ∃ t : State, exec .preemptTake s = .next t ∧ s.onlyTile t t0 ∧ (t.tile t0).preemptReq = true
              ∧ ∀ st, ((t.tile t0).strm st).x = (u.strm st).x ∧ ((t.tile t0).strm st).q = (u.strm st).q ∧ ((t.tile t0).strm st).flights = (u.strm st).flights
                  ∧ ((t.tile t0).strm st).flags = (u.strm st).flags ∧ ((t.tile t0).strm st).frame = (u.strm st).frame))
      ∧ (∀ r, u.unit = some r → u.unitOver = false → u.preemptReq = true →
          ((s.gangTiles t0).all s.quiet = false → exec .preemptTake s = .next s)
            ∧ ((s.gangTiles t0).all s.quiet = true → let s1 := (s.gangTiles t0).foldl State.showTile s
              ∃ t : State, exec .preemptTake s = .next t ∧ t.mem = s1.mem ∧ ((∀ k, k ∈ s.gangTiles t0 → ∀ j, j ∈ (s.tile k).window → j.late = []) → t.mem = s.mem) ∧ (∀ k, k ∈ s.gangTiles t0 → (t.tile k).unit = none)
              ∧ ((s.launch r.launch).cls = 0 → (∀ st, (t0, st) ∉ t.slots) ∧ ∃ x : Saved, t.saved = s.saved ++ [x] ∧ x.launch = r.launch ∧ x.idx = r.idx ∧ x.tileNo = t0
                  ∧ x.cells = s1.mem.filter (fun c => inFoot t0 (s1.footprint t0) c.1)
                  ∧ x.tile.acc = u.acc ∧ x.tile.spill = u.spill ∧ x.tile.ttick = u.ttick ∧ x.tile.window = (s1.tile t0).window ∧ x.tile.handles = u.handles ∧ x.tile.bars = u.bars
                  ∧ x.tile.cbs = u.cbs ∧ x.tile.chans = u.chans ∧ x.tile.deque = u.deque ∧ x.tile.condQ = u.condQ
                  ∧ ∀ st, (x.tile.strm st).x = (u.strm st).x ∧ (x.tile.strm st).q = (u.strm st).q ∧ (x.tile.strm st).flights = (u.strm st).flights
                      ∧ (x.tile.strm st).flags = (u.strm st).flags ∧ (x.tile.strm st).frame = (u.strm st).frame ∧ (x.tile.strm st).heldTask = (u.strm st).heldTask)))
      ∧ (∀ x m, (s.saved.find? fun x => x.launch = n && x.idx = s.ev.num && x.tileNo = t0) = some x → u.placing = some (n, s.ev.num) → u.flipped = true → u.unit = none →
          (s.launch n).status = 0 → (s.launch n).cancelled = false → s.late = false → s.mapped (s.launch n).ctx (s.codeRanges (s.launch n)) = true →
          (s.useRanges (s.launch n).ctx (s.codeRanges (s.launch n))).image (s.launch n) = some m → u.parked = [] → (∀ k, k ∈ x.tile.window → k.late = []) →
          ∃ t : State, exec .unitResume s = .next t ∧ t.saved = s.saved.erase x
            ∧ t.mem = x.cells.foldl (fun m (c : Host.Cell) => Mem.write m c.1 c.2) (Mem.clear s.mem (tileKey t0 0) 0x600000)
            ∧ (t.tile t0).unit = x.tile.unit ∧ (t.tile t0).ttick = x.tile.ttick ∧ (t.tile t0).acc = x.tile.acc ∧ (t.tile t0).spill = x.tile.spill
            ∧ ((∀ k, k ∈ x.tile.window → k.record.channel = true → ∀ j, j < k.prog → k.written.contains j = true) → (t.tile t0).window = x.tile.window)
            ∧ (t.tile t0).window.map Task.uid = x.tile.window.map Task.uid ∧ (t.tile t0).handles = x.tile.handles ∧ (t.tile t0).tvec = BitVec.ofNat 16 m.tvec ∧ (t.tile t0).plane = u.plane
            ∧ (∀ st, ((t.tile t0).strm st).pc = (x.tile.strm st).pc ∧ ((t.tile t0).strm st).x = (x.tile.strm st).x ∧ ((t.tile t0).strm st).q = (x.tile.strm st).q
                ∧ ((t.tile t0).strm st).flights = (x.tile.strm st).flights ∧ ((t.tile t0).strm st).frame = (x.tile.strm st).frame)
            ∧ ∀ k, k ≠ t0 → t.tile k = s.tile k)
      ∧ (∀ x, (s.saved.find? fun x => x.launch = n && x.idx = s.ev.num && x.tileNo = t0) = some x → u.placing = some (n, s.ev.num) → u.flipped = true → u.unit = none →
          (s.launch n).status = 0 → (s.launch n).cancelled = false → s.late = false → s.mapped (s.launch n).ctx (s.codeRanges (s.launch n)) = false →
          ∃ t : State, exec .unitResume s = .next t ∧ t.mem = s.mem ∧ t.tiles = s.tiles ∧ t.saved = s.saved ∧ { op := .unitResume, ev := s.ev } ∈ t.waiters)

/-- R335 to R338, R343, R364, R374, R399, R402: the mailbox. A command without its partition's credential is Invalid Input, one in recovery mode or of an
unused opcode Unsupported, and the host's have no effect while IDE is not established; each other one completes with its result: queues, jobs, invalidation,
the suspension list, reads through the state port and its controls. The model's own choices: the lengths that STATE_READ takes, QUEUE_SET's result 1 and the mark of a machine
command (log entry 50), the hub's sources 256 to 258 (66), jobs numbered within a partition (47), how objects are numbered and the time of a step (5), and the layout of
the Background Command Status register (90). -/
def Obligations.Mailbox : Prop :=
  ∀ (s : State) (p : Option Nat),
    let out (r : Nat) (ws : List Word) : MboxOut := { result := BitVec.ofNat 64 r, words := ws }
    let cmds : List Instr := [.queueSet, .queueGet, .jobEnd, .jobCancel, .tlbInval, .suspendList, .resume, .fail, .stateRead, .freeze, .thaw, .setHaltOnBreak,
      .clearHaltOnBreak, .stateWake]
    (∀ i, i ∈ cmds →
        (s.recovery = false → (∀ o, ¬ s.mailFor o) → s.ide = true → exec i s = .next { s with mbox := { invalid := true } })
          ∧ (s.recovery = false → s.ev.num ≠ 1 → s.ide = false → exec i s = .next s)
          ∧ (s.recovery = true → exec i s = .next { s with mbox := { unsupported := true } }))
      ∧ exec .mailboxUnsupported s = .next (if s.recovery = true ∨ s.ev.num = 1 ∨ s.ide = true then { s with mbox := { unsupported := true } } else s)
      ∧ (s.mailFor p →
          (let q := bits s.ev.w0 5 0
            let h := s.hostQ q
            let d := s.ev.wide
            let part := bits d 55 53
            let no := (∃ o, p = some o ∧ ((Map.has s.hostQs q = true ∧ h.part ≠ o) ∨ part ≠ o)) ∨ s.ctxPart (bits d 52 47) ≠ some part
            let moved := h.behind ≠ 0 ∧ (h.base ≠ bits d 119 71 * 2 ^ 7 ∨ h.log2n ≠ bits d 63 60)
            (no → exec .queueSet s = .next { s with mbox := out 1 [] }) ∧ (¬ no → moved → exec .queueSet s = .next { s with mbox := out 2 [] })
              ∧ (¬ no → ¬ moved → ∃ t : State, exec .queueSet s = .next t ∧ t.mbox = out 0 [] ∧ t.mem = s.mem ∧ t.tiles = s.tiles ∧ (∀ k, k ≠ q → t.hostQ k = s.hostQ k)
                  ∧ t.hostQ q = { h with base := bits d 119 71 * 2 ^ 7, log2n := bits d 63 60, pri := bits d 58 56, part := part, ctx := bits d 52 47, job := bits d 46 31
                                           , enable := bitAt d 0 })
              ∧ ((∀ o, p = some o → Map.has s.hostQs q = true → h.part = o) → ∃ a b : Word,
                  exec .queueGet s = .next { s with mbox := out 0 [a, b, h.tail.setWidth 64, h.head.setWidth 64, if s.kickmap.getLsbD q then 1 else 0] }
                  ∧ (h.log2n < 16 → h.pri < 8 → h.part < 8 → h.ctx < 64 → h.job < 2 ^ 16 → h.base < 2 ^ 56 → b.toNat = h.base ∧ bits a 63 60 = h.log2n ∧ bits a 58 56 = h.pri
                      ∧ bits a 55 53 = h.part ∧ bits a 52 47 = h.ctx ∧ bits a 46 31 = h.job ∧ bitAt a 0 = h.enable)))
            ∧ (let j := s.jobOf p (bits s.ev.w0 15 0)
               (j = none → exec .jobEnd s = .next { s with mbox := { invalid := true } } ∧ exec .jobCancel s = .next { s with mbox := { invalid := true } })
                ∧ ∀ k, j = some k →
                  (∀ l : Level, Map.find s.jobs k = some l → l.isOpen = true → l.status = 0 → ∃ t : State, exec .jobEnd s = .next t ∧ t.mbox = out 0 [] ∧ t.mem = s.mem
                      ∧ t.tiles = s.tiles ∧ (Map.get {} t.jobs k : Level).isOpen = false ∧ (Map.get {} t.jobs k : Level).members = l.members - 1)
                    ∧ (Map.has s.jobs k = true → exec .jobCancel s = .next { s.postLate { op := .cancelStop, ev := { num := 1, aux := 4, id := k } } with mbox := out 0 [] }))
            ∧ (∀ o, s.ctxPart (bits s.ev.w0 5 0) = some o → (p = none ∨ p = some o) → s.mboxBusy = false → ∃ (t : State) (i : Inval), exec .tlbInval s = .next t ∧ t.tiles = s.tiles
                ∧ t.mem = s.mem ∧ t.mbox = { background := true } ∧ t.mboxBusy = true ∧ t.bgStatus = bgWord 0 ∧ i.total = i.waiting.length ∧ Map.find t.invals s.nextId = some i ∧ i.ctx = bits s.ev.w0 5 0
                ∧ i.whole = bitAt s.ev.w0 8
                ∧ (∀ k, k < 256 → s.partOf (BitVec.ofNat 8 k) = some o → k ∈ i.waiting) ∧ 256 ∈ i.waiting ∧ 257 ∈ i.waiting ∧ 258 ∈ i.waiting
                ∧ ∀ k, k ∈ i.waiting → ∃ c, (c, ({ op := .invalSourceAck, ev := { id := s.nextId, num := k } } : Act)) ∈ t.timers)
            ∧ (∀ o, p = some o → let got := (s.part o).suspends.take (min s.ev.w0.toNat 63)
               exec .suspendList s = .next { s with mbox := out 0 (BitVec.ofNat 64 got.length :: got.flatMap Suspend.words) })
            ∧ (let tt : TileNo := s.ev.w0.setWidth 8
               let x := ((List.range 8).flatMap fun i => (s.part i).suspends).find? fun x => x.tile = tt && x.seq = (s.mailWord 0).setWidth 32 && (s.partOf tt).isSome
               s.mayTile p tt = true →
               (x = none → exec .resume s = .next { s with mbox := out 1 [] } ∧ exec .fail s = .next { s with mbox := out 1 [] })
                ∧ ∀ e k, x = some e → ((s.tile tt).window.find? fun k => k.uid = e.uid) = some k → (s.tile tt).task k.acc = some k →
                  (∃ t : State, exec .resume s = .next t ∧ t.mbox = out 0 [] ∧ t.mem = s.mem ∧ (t.tile tt).task k.acc = some { k with suspended := false }
                      ∧ ({ op := .copyRow, ev := { tile := tt, id := k.acc } } : Act) ∈ t.agenda ∧ ∀ q, (t.part q).suspends = (s.part q).suspends.erase e)
                    ∧ ∃ t : State, exec .fail s = .next t ∧ t.mbox = out 0 [] ∧ t.mem = s.mem ∧ (∀ q, (t.part q).suspends = (s.part q).suspends.erase e)
                        ∧ (k.ended = none → (t.tile tt).task k.acc = some { k with ended := some cTRANSLATION, endAt := 0 }))
            ∧ (let tt : TileNo := s.ev.w0.setWidth 8
               let hub := bitAt s.ev.w0 8
               let cls := bits s.ev.w0 15 12
               let i := bits s.ev.w0 47 16
               let off := (s.mailWord 0).toNat
               let len := (s.mailWord 1).toNat
               let none_ : Prop := exec .stateRead s = .next { s with mbox := out 1 [] }
               let read (ws : List Word) : Prop := (8 ≤ len → len ≤ 2000 → len % 8 = 0 → ∃ r, exec .stateRead s = .next { s with mbox := out 0 r } ∧ r.length = len / 8
                    ∧ (off % 8 = 0 → ∀ j, j < len / 8 → r.getD j 0 = ws.getD (off / 8 + j) 0))
                  ∧ ((len < 8 ∨ 2000 < len ∨ len % 8 ≠ 0) → none_)
               (hub = false → s.mayTile p tt = false → exec .stateRead s = .next { s with mbox := { invalid := true } })
                ∧ (hub = false → s.mayTile p tt = true →
                    (s.tileObject p tt cls i = none → none_) ∧ ∀ ws, s.tileObject p tt cls i = some ws → read ws)
                ∧ (hub = true → (cls ≠ 8 ∨ s.hubObject i = none) → none_)
                ∧ (hub = true → cls = 8 → ∀ own ws, s.hubObject i = some (own, ws) → ((∀ a b, p = some a → own = some b → a = b) → read ws)
                    ∧ ((∃ a b, p = some a ∧ own = some b ∧ a ≠ b) → exec .stateRead s = .next { s with mbox := { invalid := true } }))
                ∧ s.tileObject p tt 7 0 = some ((List.range 33).map fun j => (s.tile tt).planeReg (0x100 + j))
                ∧ (∀ n, n < 128 → s.tileObject p tt 4 n = some [(Map.get {} (s.tile tt).bars n : Barrier).word])
                ∧ ∃ d : Word, s.hubObject 0 = some (none, [d]) ∧ d.extractLsb' 48 16 = s.takeovers ∧ d.getLsbD 47 = s.gate ∧ d.getLsbD 46 = s.active
                    ∧ d.getLsbD 45 = s.standby ∧ (d.extractLsb' 32 13).toNat = s.poolFree % 2 ^ 13 ∧ (d.extractLsb' 0 32).toNat = (s.heldWords.filter fun n => (s.launch n).doneAddr ≠ 0).length % 2 ^ 32)
            ∧ (let may := ∀ k, k < 256 → s.ev.wide.getLsbD k = true → s.mayTile p (BitVec.ofNat 8 k) = true
               let on (k : TileNo) : Bool := s.ev.wide.getLsbD k.toNat
               (¬ may → ∀ i, i ∈ [Instr.freeze, .thaw, .setHaltOnBreak, .clearHaltOnBreak, .stateWake] → exec i s = .next { s with mbox := out 1 [] })
                ∧ (may → (∃ t : State, exec .freeze s = .next t ∧ t.mbox = out 0 [] ∧ t.mem = s.mem ∧ (∀ k, on k = true → (t.tile k).freezeReq = true))
                  ∧ (s.thermal = true → exec .thaw s = .next { s with mbox := out 0 [] })
                  ∧ (s.thermal = false → ∃ t : State, exec .thaw s = .next t ∧ t.mbox = out 0 [] ∧ t.mem = s.mem
                      ∧ (∀ k, t.tile k = if on k then { s.tile k with frozen := false, freezeReq := false, held := [] } else s.tile k)
                      ∧ ∀ k a, on k = true → a ∈ (s.tile k).held → a ∈ t.agenda)
                  ∧ (∃ t : State, exec .setHaltOnBreak s = .next t ∧ t.mbox = out 0 [] ∧ t.mem = s.mem
                      ∧ ∀ k, t.tile k = if on k then { s.tile k with haltBrk := true } else s.tile k)
                  ∧ (∃ t : State, exec .clearHaltOnBreak s = .next t ∧ t.mbox = out 0 [] ∧ t.mem = s.mem
                      ∧ ∀ k, t.tile k = if on k then { s.tile k with haltBrk := false } else s.tile k)
                  ∧ ∃ t : State, exec .stateWake s = .next t ∧ t.mbox = out 0 [] ∧ t.mem = s.mem ∧ t.tiles = s.tiles
                      ∧ ∀ k, on k = true → ∃ c, (c, ({ op := .wake, ev := { tile := k } } : Act)) ∈ t.timers)))

/-- R353, R382, R391 to R395, R399: resets, firmware, attestation and keys, over SHA-256 and ECDSA P-256 as the model computes them (log entry 8). A cold reset reads the fuses and keeps only what lies outside the package; a warm reset keeps
the fuses, the tile map and the fences; the first slot whose images are all accepted is measured and used, and with none the package is in recovery mode. DSTAT
has its Reset column (R353). In recovery mode only a firmware update has an effect. The model's own choices: that the cores then begin to serve (log entry 17), that an update
writes slot A (51), what unwritten memory reads as (2), what of a slot that is not used is measured (91), and the byte order of what is hashed and signed (8). -/
def Obligations.BringUp : Prop :=
  ∀ (s : State),
    let b := s.ev.boot
    let up (t : State) (b : BootEnv) : Prop :=
      (∀ st k, ((t.tile k).strm st).mode = .noEntry ∧ (t.tile k).unit = none) ∧ t.launches = [] ∧ (∀ p, (t.part p).formed = false)
        ∧ (∀ k, Mem.read t.mem k = if 2 ^ 60 ≤ k then Mem.read s.mem k else memDefault)
        ∧ t.recovery = !(slotOk b.slotA b || slotOk b.slotB b) ∧ t.slotUsed = (!slotOk b.slotA b && slotOk b.slotB b)
        ∧ (slotOk b.slotA b = true → let ms := b.slotA.filterMap decodeImage
            t.measure = ((ms.filter fun m => m.target = 0) ++ ms.filter fun m => m.target ≠ 0).foldl extend [])
        ∧ (slotOk b.slotA b = false → slotOk b.slotB b = true → let ms := b.slotB.filterMap decodeImage
            t.measure = ((ms.filter fun m => m.target = 0) ++ ms.filter fun m => m.target ≠ 0).foldl extend (measureSlot [] b.slotA b))
        ∧ t.dstat = BitVec.ofNat 64 (4096 * 2 ^ 32) ∧ t.ide = (!t.recovery && b.ideOk)
        ∧ (t.recovery = false → t.halted0 = !b.coresOk.getLsbD 0 ∧ t.halted1 = !b.coresOk.getLsbD 1 ∧ t.agenda = [{ op := .coreReload, ev := { num := 2 } }])
        ∧ ∀ p, p ∈ b.downPorts → t.recovery = true ∨ ({ code := cLINK_DOWN, info := p } : Report) ∈ t.reports
    (s.Inv → b.fuseOk = true → ∃ t : State, exec .coldReset s = .next t ∧ up t b ∧ t.fuses = b ∧ t.identity = Config.deriveIdentity b.secret ∧ t.inReset = false
        ∧ ∀ k, t.isFenced k = true ↔ k ∈ b.fuseTiles ∨ k ∈ b.testFailTiles)
      ∧ (b.fuseOk = false → ∃ t : State, exec .coldReset s = .next t ∧ t.inReset = true ∧ ({ code := cFUSE, info := 0 } : Report) ∈ t.reports)
      ∧ (s.Inv → s.inReset = false → ∃ (t : State) (c : BootEnv), exec .warmReset s = .next t ∧ up t c ∧ c.slotA = b.slotA ∧ c.slotB = b.slotB ∧ t.fenced = s.fenced
          ∧ t.fuses.keyHashes = s.fuses.keyHashes ∧ t.fuses.revoked = s.fuses.revoked ∧ t.fuses.minSvn = s.fuses.minSvn ∧ ∀ k, k ∈ s.pchFenced → k ∈ t.pchFenced)
      ∧ (s.recovery = false → exec .firmwareUpdate s = .next { s with fuses := { s.fuses with slotA := s.ev.images } })
      ∧ (s.Inv → s.recovery = true → s.inReset = false → ∃ (t : State) (c : BootEnv), exec .firmwareUpdate s = .next t ∧ up t c ∧ c.slotA = s.ev.images ∧ t.fenced = s.fenced)
      ∧ (∀ (l : List (List Byte)) (e : BootEnv), slotOk l e = true ↔ (∀ i, i ∈ l → ∃ m, decodeImage i = some m ∧ m.target.toNat < 4 ∧ imageAccepted m e = true)
          ∧ ∀ n, n < 4 → ∃ i m, i ∈ l ∧ decodeImage i = some m ∧ m.target.toNat = n)
      ∧ (∀ (l : List Byte) (m : Image), decodeImage l = some m ↔ 192 ≤ l.length ∧ m.signed = l.take 64 ∧ m.body = l.drop 192 ∧ ∀ h : BitVec 1536,
          (∀ i, i < 192 → h.extractLsb' (8 * i) 8 = l.getD i 0) → m.pubkey = h.extractLsb' 1024 512 ∧ m.sig = h.extractLsb' 512 512 ∧ m.digest = h.extractLsb' 256 256
            ∧ m.reserved = h.extractLsb' 136 120 ∧ m.keyidx = h.extractLsb' 128 8 ∧ m.length = h.extractLsb' 96 32 ∧ m.target = h.extractLsb' 64 32
            ∧ m.svn = h.extractLsb' 32 32 ∧ m.magic = h.extractLsb' 0 32)
      ∧ (∀ (r : Map (BitVec 256)) (i : Image), Map.get 0 (extend r i) i.target.toNat
            = sha256 (leBytes 32 (Map.get 0 r i.target.toNat).toNat ++ leBytes 32 i.digest.toNat ++ leBytes 4 i.svn.toNat)
          ∧ ∀ n, n ≠ i.target.toNat → Map.get 0 (extend r i) n = Map.get 0 r n)
      ∧ (∀ m b, imageAccepted m b = true ↔ m.magic = 0x5A543838 ∧ m.reserved = 0 ∧ m.keyidx.toNat < 4
          ∧ b.keyHashes[m.keyidx.toNat]? = some (sha256 (leBytes 64 m.pubkey.toNat)) ∧ b.revoked.getLsbD m.keyidx.toNat = false ∧ b.minSvn.toNat ≤ m.svn.toNat
          ∧ m.body.length = m.length.toNat ∧ sha256 m.body = m.digest ∧ ecdsaVerify m.pubkey m.signed m.sig = true)
      ∧ (∀ i, i ∈ [Instr.getMeasurements, .keyExchange, .powerLimitSet, .clockChange, .partitionForm] → s.recovery = true → exec i s = .next s)
      ∧ (s.recovery = false → s.ev.num ≠ 1 → exec .getMeasurements s = .next { s with
          spdmOut := ((List.range 4).map fun i => (Map.get 0 s.measure i).setWidth 512) ++ [if s.slotUsed then 1 else 0, ecdsaSign s.identity (Config.freeNonce s.fresh) s.evidence]
          fresh := s.fresh + 1 })
      ∧ (s.recovery = false → s.ev.num = 1 → ∃ t : State, exec .getMeasurements s = .next t ∧ t.tiles = s.tiles ∧ t.mem = s.mem
          ∧ t.spdmOut.head? = some (BitVec.ofNat 512 s.fuses.certs.length)
          ∧ ∀ i, i < s.fuses.certs.length → ((t.spdmOut.drop 1).getD (i / 64) 0).extractLsb' (8 * (i % 64)) 8 = s.fuses.certs.getD i 0)
      ∧ (s.recovery = false → ∃ r : BitVec 512, exec .keyExchange s = .next { s with
          session := true, spdmOut := [r, ecdsaSign s.identity (Config.freeNonce s.fresh) (leBytes 64 s.ev.wide.toNat ++ leBytes 64 r.toNat)], fresh := s.fresh + 1 })
      ∧ (s.session = true → s.ev.id < 32 → ∃ t : State, exec .keyInstall s = .next t ∧ t.mem = s.mem ∧ t.tiles = s.tiles
          ∧ (let k : KeySlot := Map.get {} s.keys s.ev.id
             Map.get {} t.keys s.ev.id = ({ current := some (s.ev.wide.setWidth 256), previous := k.current, epoch := !k.epoch, counter := 0 } : KeySlot))
          ∧ ∀ n, n ≠ s.ev.id → (Map.get {} t.keys n : KeySlot) = Map.get {} s.keys n)
      ∧ (s.session = false → exec .keyInstall s = .next s)

/-- R327, R328, R403, R404: partitions, power, clock and temperature. PARTITION_FORM takes free clusters, channel groups and contexts, drops their tags and zeroes their
scratchpads before use; PARTITION_DISSOLVE gives them back; the clock changes at a beat boundary; a thermal trip freezes every tile and loses the resident units in the clock after.
The model's own choices: what a partition change clears (log entry 42), the cold reset with the fuses and the environment as they were (51), and its time (5). -/
def Obligations.PartitionsAndPower : Prop :=
  ∀ (s : State),
    let p := s.ev.id
    let cl : BitVec 32 := s.ev.w0.setWidth 32
    let gr := BitVec.ofNat 32 (bits s.ev.w0 63 32)
    let free := p < 8 ∧ (s.part p).formed = false ∧ s.idleClusters cl = true ∧ (∀ g, g < 32 → gr.getLsbD g = true → s.groupPch g ≠ 0)
      ∧ ∀ o, o < 8 → (s.part o).formed = true → (s.part o).clusters &&& cl = 0 ∧ (s.part o).groups &&& gr = 0 ∧ (s.part o).ctxs &&& s.ev.w1 = 0
    (free → s.recovery = false → ∃ t : State, exec .partitionForm s = .next t ∧ t.mem = s.mem ∧ (t.part p).formed = true ∧ (t.part p).clusters = cl ∧ (t.part p).groups = gr
        ∧ (t.part p).ctxs = s.ev.w1 ∧ (t.part p).cred = s.ev.wide.setWidth 64 ∧ (∀ o, o ≠ p → t.part o = s.part o)
        ∧ (∀ n, n < 2 ^ 20 → cl.getLsbD (n / 2 ^ 15) = true → (t.tag n).live = false)
        ∧ ∀ k, Map.has s.tiles k.toNat = true → cl.getLsbD (clusterOf k) = true → (t.tile k).zeroed = false)
      ∧ (¬ free → exec .partitionForm s = .next s)
      ∧ (((s.part p).formed = false ∨ s.idleClusters (s.part p).clusters = false) → exec .partitionDissolve s = .next s)
      ∧ ((s.part p).formed = true → s.idleClusters (s.part p).clusters = true → ∃ t : State, exec .partitionDissolve s = .next t ∧ t.mem = s.mem ∧ t.tiles = s.tiles
          ∧ (t.part p).formed = false ∧ (t.part p).clusters = 0 ∧ (∀ o, o ≠ p → t.part o = s.part o) ∧ ∀ q h, Map.find t.hostQs q = some h → h.part ≠ p)
      ∧ (s.recovery = false → exec .powerLimitSet s = .next { s with powerLimit := s.ev.num })
      ∧ (let ok := 600 ≤ s.ev.num ∧ s.ev.num ≤ 1100 ∧ s.ev.num % 100 = 0
         (¬ ok → exec .clockChange s = .next s)
          ∧ (ok → s.recovery = false → s.atBoundary = true → ∃ t : State, exec .clockChange s = .next t ∧ t.mhz = s.ev.num ∧ t.mem = s.mem ∧ t.tiles = s.tiles)
          ∧ (ok → s.recovery = false → s.atBoundary = false → exec .clockChange s = .next { s with waiters := s.waiters ++ [{ op := .clockChange, ev := s.ev }] }))
      ∧ (s.ev.num ≠ 1 → ∃ t : State, exec .thermalTrip s = .next t ∧ t.mem = s.mem ∧ t.launches = s.launches ∧ t.thermal = true
          ∧ t.reports = s.reports ++ [{ code := cTHERMAL_TRIP, info := 0 }] ∧ (∀ k, t.tile k = { s.tile k with freezeReq := true })
          ∧ (s.clock + 1, ({ op := .thermalTrip, ev := { num := 1 } } : Act)) ∈ t.timers)
      ∧ (s.ev.num = 1 → ∃ t : State, exec .thermalTrip s = .next t ∧ t.mem = s.mem ∧ (∀ k, (t.tile k).unit = none) ∧ (∃ c, (c, ({ op := .coldReset, ev := { boot := s.fuses } } : Act)) ∈ t.timers)
          ∧ ∀ n, Map.has s.launches n = true → (s.launch n).status = 0 → s.resident n ≠ [] → (t.launch n).status = 2)

/-- R384 to R390: observation. A PC sample records TTICK, the PCs and the reasons of a tile with a unit; the hub writes the oldest record at WR, or counts it
as lost when the ring is full or does not translate; PEALRD frees space, PEALCTL sets the sources, CSEL selects a counter's event and clears it, all of them
only over an established IDE link (R399). R370, R377, R379, R386, R394, R399, R401: firmware's register writes, none in recovery mode, and the host's to the vector table. A record of a
tile comes to its staging queue last in its clock (R330). The model's own choices: the layout of a routing entry (log entry 41), the context of a ring (26) and its translation through
the dispatcher's TLB (66), the layout of the vector table (90). -/
def Obligations.Observation : Prop :=
  ∀ (s : State),
    let t0 := s.ev.tile
    let u := s.tile t0
    let p := s.ev.num
    let q := s.part p
    let n := s.ev.id
    let w := s.ev.w0
    (∀ o, s.partOf t0 = some o → (s.part o).pealPeriod ≠ 0 → u.unit ≠ none → (s.part o).pealSrc.getLsbD 1 = true → u.qTakes 5 2 = true →
        ∃ (t : State) (r : Nat), exec .pcSample s = .next t ∧ t.mem = s.mem ∧ (∀ k, k ≠ t0 → t.tile k = s.tile k)
          ∧ (let x := pealRec s.fabric 1 0 t0.toNat u.launchNo r
             (s.late = true → t.tile t0 = { u with queueAdded := true, pealQ := stagePeal s.clock x u.pealQ })
               ∧ (s.late = false → t.tile t0 = u ∧ t.queueQ = s.queueQ ++ [{ op := .pealRecord, ev := { tile := t0, num := o, aux := 2, wide := x.setWidth 512 } }]))
          ∧ r % 2 ^ 64 = u.ttick % 2 ^ 64
          ∧ ∀ st, r / 2 ^ (64 + 21 * streamNo st) % 2 ^ 16 = (u.strm st).pc.toNat
              ∧ r / 2 ^ (80 + 21 * streamNo st) % 2 ^ 5 = (u.reason st).toNat)
      ∧ ((∀ o, s.partOf t0 = some o → (s.part o).pealPeriod = 0 ∨ u.unit = none) → exec .pcSample s = .next s)
      ∧ (s.ev.aux = 2 →
          (u.qTakes 5 2 = true → ∃ t : State, exec .pealRecord s = .next t ∧ s.onlyTile t t0
              ∧ t.tile t0 = { u with queueAdded := true, pealQ := stagePeal s.clock (s.ev.wide.setWidth 256) u.pealQ })
            ∧ (u.qTakes 5 2 = false → ∃ t : State, exec .pealRecord s = .next t ∧ t.tiles = s.tiles ∧ t.mem = s.mem ∧ (t.part p).pealLost = q.pealLost + 1))
      ∧ (∀ r rest, s.ev.aux ≠ 2 → (if s.ev.aux = 1 then q.hubPeal else u.pealQ) = r :: rest → 10 ≤ q.pealSize.toNat → q.pealSize.toNat ≤ 26 → s.Inv →
          let used := (q.pealWr - q.pealRd).toNat
          let adr := BitVec.ofNat 64 (bits q.pealBase 55 0 + 32 * (q.pealWr.toNat % 2 ^ q.pealSize.toNat))
          let taken (t : State) : Prop := if s.ev.aux = 1 then (t.part p).hubPeal = rest ∧ t.tiles = s.tiles else (t.tile t0).pealQ = rest ∧ (t.part p).hubPeal = q.hubPeal
          let lost (t : State) : Prop := taken t ∧ t.mem = s.mem ∧ (t.part p).pealWr = q.pealWr ∧ (t.part p).pealLost = q.pealLost + 1
            ∧ (t.part p).pealDrops = if q.pealDrops = BitVec.allOnes 32 then q.pealDrops else q.pealDrops + 1
          (∀ k, q.pealLost = 0 → used + 1 ≤ 2 ^ q.pealSize.toNat → s.hubTranslate hubDisp q.ringCtx adr false true = .ok k → ∃ t : State, exec .pealRecord s = .next t
              ∧ taken t ∧ Mem.readN t.mem k.key 32 = r.2.toNat ∧ (∀ a, a < k.key ∨ k.key + 32 ≤ a → Mem.read t.mem a = Mem.read s.mem a)
              ∧ (t.part p).pealWr = q.pealWr + 1 ∧ (t.part p).pealLost = 0)
            ∧ (∀ e, q.pealLost = 0 → used + 1 ≤ 2 ^ q.pealSize.toNat → s.hubTranslate hubDisp q.ringCtx adr false true = .error e → ∃ t : State, exec .pealRecord s = .next t
              ∧ lost t ∧ t.reports = s.reports ++ [{ code := cTRANSLATION, info := e }])
            ∧ (2 ^ q.pealSize.toNat < used + (if q.pealLost = 0 then 1 else 2) → ∃ t : State, exec .pealRecord s = .next t ∧ lost t))
      ∧ (s.ev.aux ≠ 2 → (if s.ev.aux = 1 then q.hubPeal else u.pealQ) = [] → exec .pealRecord s = .next s)
      ∧ ((s.ide = false ∨ 8 ≤ p) → exec .pealctl s = .next s ∧ exec .pealrd s = .next s ∧ exec .csel s = .next s)
      ∧ (s.ide = true → p < 8 →
          exec .pealctl s = .next (s.modPart p fun q => { q with pealPeriod := BitVec.ofNat 16 (bits w 31 16), pealSrc := w.setWidth 8, sampleFrom := s.clock }))
      ∧ (s.ide = true → p < 8 → q.pealRdNext.toNat ≤ w.toNat → w.toNat ≤ q.pealWr.toNat → exec .pealrd s = .next (s.modPart p fun q => { q with pealRdNext := w }))
      ∧ ((w.toNat < q.pealRdNext.toNat ∨ q.pealWr.toNat < w.toNat) → exec .pealrd s = .next s)
      ∧ (s.ide = true → p < 8 → n < 64 → ∃ t : State, exec .csel s = .next t ∧ t.mem = s.mem ∧ t.tiles = s.tiles ∧ Map.get 0 (t.part p).csel n = w &&& 0xFF80FFFF ∧ Map.get 0 (t.part p).cnt n = 0
          ∧ (∀ k, k ≠ n → Map.get 0 (t.part p).csel k = Map.get 0 q.csel k ∧ Map.get 0 (t.part p).cnt k = Map.get 0 q.cnt k) ∧ ∀ o, o ≠ p → t.part o = s.part o)
      ∧ (64 ≤ n → exec .csel s = .next s)
      ∧ (s.recovery = true → exec .registerWrite s = .next s)
      ∧ (s.recovery = false → p = 1 → exec .registerWrite s = .next { s with bias := BitVec.ofNat 8 (bits w 23 16), ttimeout := w.setWidth 16 })
      ∧ (s.recovery = false → p = 2 → n < 64 → (∀ x, x ∈ s.tiles → x.2.unit ≠ none → s.tileCtx (BitVec.ofNat 8 x.1) ≠ n) → ∃ t : State,
          exec .registerWrite s = .next t ∧ t.ctx n = { s.ctx n with root := bits w 55 17 * 2 ^ 17, enable := bitAt w 0 } ∧ (∀ k, k ≠ n → t.ctx k = s.ctx k)
          ∧ t.mem = s.mem ∧ t.tiles = s.tiles)
      ∧ (p = 2 → (64 ≤ n ∨ ∃ x, x ∈ s.tiles ∧ x.2.unit ≠ none ∧ s.tileCtx (BitVec.ofNat 8 x.1) = n) → exec .registerWrite s = .next s)
      ∧ (s.recovery = false → p = 3 → (s.part n).pealSrc = 0 → exec .registerWrite s = .next (s.modPart n fun q => { q with pealBase := BitVec.ofNat 64 (bits w 55 6 * 64) }))
      ∧ (s.recovery = false → p = 4 → (s.part n).pealSrc = 0 → exec .registerWrite s = .next (s.modPart n fun q => { q with pealSize := w.setWidth 5 }))
      ∧ ((p = 3 ∨ p = 4) → (s.part n).pealSrc ≠ 0 → exec .registerWrite s = .next s)
      ∧ (s.recovery = false → p = 5 → ∃ (t : State) (l : List Path), exec .registerWrite s = .next t ∧ t.mem = s.mem ∧ t.tiles = s.tiles ∧ Map.find t.routes n = some l
          ∧ (∀ x, x ∈ l ↔ x ∈ routeOf s.ev.wide ∧ x.port < 35 ∧ Map.get 2 s.portLanes x.port ≠ 0) ∧ ∀ k, k ≠ n → Map.find t.routes k = Map.find s.routes k)
      ∧ (s.recovery = false → p = 6 → s.ide = true → n < 1056 → n % 8 = 0 → ∃ t : State, exec .registerWrite s = .next t ∧ t.mem = s.mem ∧ t.tiles = s.tiles
          ∧ t.msixWord (n / 8) = (if n / 8 % 2 = 1 then w &&& 0x1FFFFFFFF else w &&& ~~~3) ∧ (∀ k, k ≠ n / 8 → t.msixWord k = s.msixWord k)
          ∧ t.irqs = if s.msixPend.contains (n / 16) ∧ (t.msixWord (2 * (n / 16) + 1)).getLsbD 32 = false then s.irqs ++ [n / 16] else s.irqs)
      ∧ (p = 6 → s.ide = false ∨ 1056 ≤ n ∨ n % 8 ≠ 0 → exec .registerWrite s = .next s)
      ∧ ((p = 0 ∨ 7 ≤ p) → exec .registerWrite s = .next s)

/-- R10, R16, R110, R362, R363, R372 to R374, R379, R381, R390: links, walks and the fetch unit. A walk that ends well is cached and its stream's access goes
on, and one that faults traps; an invalidation drops what it names and completes once every source has answered; a flit's retries are counted, and the
sixteenth that fails takes the link down; a line that is read is usable two ticks later; an arrived row ends a stretch. The model's own choices: the hub's three TLBs as sources 256
to 258 (log entry 66), event 13 for counters with ALLT (77), the percentage of an invalidation (90), and the time of a step (5). -/
def Obligations.LinksAndFetch : Prop :=
  ∀ (s : State),
    let t0 := s.ev.tile
    let u := s.tile t0
    let n := s.ev.id
    let y := s.strmOf t0 s.ev.st
    let c := s.tileCtx t0
    let va := s.ev.w0
    ((y.mode ≠ .running ∨ y.waitN ≠ some 1) → exec .tlbWalk s = .next s)
      ∧ (y.mode = .running → y.waitN = some 1 →
          let rd : Bool := decide (s.ev.num % 2 = 1)
          let wr : Bool := decide (s.ev.num / 2 = 1)
          (∀ p, s.gKey t0 va.toNat rd wr = .ok p → ∃ t : State, exec .tlbWalk s = .next t ∧ s.onlyTile t t0
              ∧ (t.tile t0).tlb = (match tlbFind u.tlb c va.toNat, s.tableWalk c va with
                  | none, .ok (leaf, l) => tlbInsert u.tlb c va.toNat l leaf
                  | _, _ => u.tlb)
              ∧ t.strmOf t0 s.ev.st = { y with waitN := some 2 })
            ∧ (∀ e, s.gKey t0 va.toNat rd wr = .error e →
                exec .tlbWalk s = .next (({ s with reports := s.reports ++ [{ code := cTRANSLATION, info := e }] } : State).takeTrap t0 s.ev.st cTRANSLATION y.pc va 0 false false)))
      ∧ (∀ i : Inval, Map.find s.invals n = some i → s.ev.num < 259 →
          let src := s.ev.num
          let before := if s.ev.aux = 0 then s.nextId else s.ev.aux - 1
          let drop (l : List TlbEntry) : List TlbEntry := if s.ev.aux = 0 then l.filter fun e => !e.hit i else l
          let seen := if s.ev.aux = 0 then (s.showTile (BitVec.ofNat 8 src)).mem else s.mem
          let acked (t : State) : Prop := ∃ j : Inval, Map.find t.invals n = some j ∧ j.waiting = i.waiting.filter (· ≠ src)
            ∧ t.bgStatus = bgWord ((i.total - j.waiting.length) * 100 / i.total)
            ∧ (j.waiting = [] → ({ op := .invalidationComplete, ev := { id := n } } : Act) ∈ t.agenda)
          (src < 256 → s.egress (BitVec.ofNat 8 src) before = false → ∃ t : State, exec .invalSourceAck s = .next t ∧ t.mem = seen
              ∧ (t.tile (BitVec.ofNat 8 src)).tlb = drop (s.tile (BitVec.ofNat 8 src)).tlb ∧ acked t)
            ∧ (src < 256 → s.egress (BitVec.ofNat 8 src) before = true → ∃ t : State, exec .invalSourceAck s = .next t ∧ t.mem = seen ∧ t.invals = s.invals
              ∧ (t.tile (BitVec.ofNat 8 src)).tlb = drop (s.tile (BitVec.ofNat 8 src)).tlb
              ∧ t.waiters = s.waiters ++ [{ op := .invalSourceAck, ev := { s.ev with aux := before + 1 } }])
            ∧ (256 ≤ src → ∃ t : State, exec .invalSourceAck s = .next t ∧ t.mem = s.mem ∧ t.tiles = s.tiles
              ∧ t.hubTlb (src - 256) = drop (s.hubTlb (src - 256)) ∧ acked t))
      ∧ (∀ i : Inval, Map.find s.invals n = some i → i.waiting = [] →
          let t : State := { s with invals := Map.del s.invals n, mboxBusy := false, bgStatus := bgWord 100 }
          ((s.msixWord 129).getLsbD 32 = false → exec .invalidationComplete s = .next { t with irqs := s.irqs ++ [64] })
            ∧ ((s.msixWord 129).getLsbD 32 = true → s.msixPend.contains 64 = false → exec .invalidationComplete s = .next { t with msixPend := s.msixPend ++ [64] })
            ∧ ((s.msixWord 129).getLsbD 32 = true → s.msixPend.contains 64 = true → exec .invalidationComplete s = .next t))
      ∧ (s.ev.num = 1 → exec .flitRetry s = .next { s with flitRetries := Map.del s.flitRetries n })
      ∧ (let k := Map.get 0 s.flitRetries n
         s.ev.num ≠ 1 →
         (k < 15 → exec .flitRetry s = .next { s.countFlit with flitRetries := Map.set s.flitRetries n (k + 1) })
          ∧ (15 ≤ k → exec .flitRetry s = .next ({ s.countFlit with flitRetries := Map.del s.flitRetries n }.post { op := .linkDown, ev := { id := n } }))
          ∧ ∀ p, p < 8 → (s.part p).formed = true → ∀ a w, (s.part p).csel = [(a, w)] → bits w 7 0 = 13 → bitAt w 23 = true → Map.get 0 (s.part p).cselAt a ≠ s.clock + 1 →
            Map.get 0 (s.countFlit.part p).cnt a = Map.get 0 (s.part p).cnt a + 1)
      ∧ (∃ t : State, exec .linkDown s = .next t ∧ Map.get 2 t.portLanes n = 0 ∧ (∀ p l, Map.find t.routes p = some l → ∀ x, x ∈ l → x.port ≠ n)
          ∧ (∀ p, p ≠ n → Map.get 2 t.portLanes p = Map.get 2 s.portLanes p) ∧ ({ code := cLINK_DOWN, info := n } : Report) ∈ t.reports)
      ∧ ((u.fetchedAt = some u.ttick ∨ u.fetchQ = []) → exec .lineFetch s = .next s)
      ∧ (∀ st rest f, u.fetchedAt ≠ some u.ttick → u.fetchQ = st :: rest → (u.strm st).fetch = some f →
          let read (t : State) (bad : Bool) : Prop := exec .lineFetch s = .next t ∧ t.mem = s.mem ∧ (t.tile t0).fetchQ = rest ∧ (t.tile t0).fetchedAt = some u.ttick
            ∧ ((t.tile t0).strm st).fetch = some (f.1, some (u.ttick + 2)) ∧ ((t.tile t0).strm st).fetchBad = bad
            ∧ (∀ k, k ≠ st → (t.tile t0).strm k = u.strm k) ∧ ∀ k, k ≠ t0 → t.tile k = s.tile k
          (Map.find u.ecc (eccLine f.1) = none → ∃ t : State, read t false ∧ s.onlyTile t t0)
            ∧ (Map.find u.ecc (eccLine f.1) = some true → ∃ t : State, read t true ∧ s.onlyTile t t0)
            ∧ (Map.find u.ecc (eccLine f.1) = some false → ∃ t : State, read t false ∧ Map.find (t.tile t0).ecc (eccLine f.1) = none
              ∧ t.reports = s.reports ++ [{ code := cMEM_CORRECTED, info := t0.toNat }]))
      ∧ (u.lateAt (u.ttick + 1) = false → ∃ t : State, exec .stretchEnd s = .next t ∧ s.onlyTile t t0 ∧ t.tile t0 = { u with stretchOver := true })
      ∧ (u.lateAt (u.ttick + 1) = true → exec .stretchEnd s = .next s)
      ∧ ∀ w, exec (.illegalOpcode w) s = .next (s.takeTrap s.ct s.cs cILLEGAL_OPCODE s.cur.pc (s.cur.pc.setWidth 64) 0 false false)

/-- R9, R100, R102, R111, R330, R336: A STEP RUNS THE DECODED INSTRUCTION. With steps due, the first is performed with its particulars; it is held while
its tile is frozen, and left to the late part of the clock when it puts an entry into a queue before the slots have run, but for demands that fit into their
queues' MIN (R251). Else the next slot's stream issues:
when its line is in the buffer and its PC is at an instruction lane of its own, the lane and its literals are decoded and run, or trap. Without slots the
clock goes on; held in reset nothing runs, and what comes to the device is lost but for a cold reset (R391). The model's own choices: that a clock performs its agenda, then the
slots, then a late part, with queue entries kept for that (log entry 1), and what is held at the edge of a frozen tile (52). -/
def Obligations.StepRunsDecoded : Prop :=
  ∀ (s : State),
    (∀ a rest, s.agenda = a :: rest →
        let h := ({ s with agenda := rest } : State).holder a
        (s.inReset = true → a.op ≠ .coldReset → step s = .next { s with agenda := rest }) ∧ (s.inReset = false ∨ a.op = .coldReset →
        let early : Prop := s.late = true ∨ a.queueRank = none ∨ (a.op = .demandAppend ∧ s.demandsFit a.ev.tile = true)
        (h = none → early → step s = exec a.op { s with agenda := rest, ev := a.ev })
          ∧ (h = none → ¬ early → step s = .next { s with agenda := rest, queueQ := s.queueQ ++ [a] })
          ∧ ∀ t, h = some t → step s = .next (({ s with agenda := rest } : State).modTile t fun u => { u with held := u.held ++ [a] })))
      ∧ (∀ t st rest n ws, s.agenda = [] → s.slots = (t, st) :: rest →
          let z := s.strmOf t st
          let l := bits z.pc 2 0
          let w := ws.getD l 0
          z.mode = .running → z.rep = none → z.check = none → z.buf = some (n, ws) → n = bits z.pc 15 3 → l ≠ 0 → nibble ws l = streamNo st →
          ∃ s' : State, ({ s' with tiles := s.tiles, slots := s.slots, ct := s.ct, cs := s.cs } : State) = s ∧ s'.slots = rest ∧ s'.ct = t ∧ s'.cs = st
            ∧ (∀ k, s'.tile k = s.tile k)
            ∧ (∀ i, decode w (literals ws st l) = .ok i → step s = exec i s')
            ∧ (∀ e, decode w (literals ws st l) = .error e →
                let op := bits w 31 24
                let code := if opLegal op st = false then cILLEGAL_STREAM else if opPrivileged op = true ∧ z.priv = 0 then cPRIVILEGE else cILLEGAL_ENCODING
                step s = .next (s'.takeTrap t st code z.pc (z.pc.setWidth 64) 0 false false)))
      ∧ (s.agenda = [] → s.slots = [] → step s = if s.inReset then .fault .heldInReset else .next s.tick)

/-- The words that the spec's examples write out decode to the instructions they stand for (R104 to R106 and the examples of R115, R137, R145, R207, R244, R251,
R287, R289, R298 and R359). -/
def Obligations.DecodeWords : Prop :=
  decode 0x20290040 [] = .ok (.addi 5 4 64) ∧ decode 0xA223F000 [] = .ok (.vmuli 2 0x3F000) ∧ decode 0x40208002 [] = .ok (.ldq 1 0 4 2 none)
    ∧ decode 0x2B300000 [0x01234567] = .ok (.lit 6 false 0x01234567 none) ∧ decode 0x3A400101 [] = .ok (.rep 8 0 1 false false true)
    ∧ decode 0x48184440 [] = .ok (.qrotm 3 1 2 4) ∧ decode 0x4630C000 [] = .ok (.qext 6 3 0) ∧ decode 0xB4184001 [0x3F000000] = .ok (.vmadd 3 1 (.lit 0x3F000000) 0 0)
    ∧ decode 0xDC18400C [] = .ok (.vmaddc 3 1 12) ∧ decode 0xB218C200 [] = .ok (.vmul 3 3 (.vreg 1) 0 0) ∧ decode 0x8511C000 [] = .ok (.topkrd 2 7)
    ∧ decode 0x8541C001 [] = .ok (.topkrdN 8 7) ∧ decode 0x87500000 [] = .ok (.demand 10 false) ∧ decode 0x88029600 [] = .ok (.feed 0 10 11)
    ∧ decode 0x8E4A9600 [] = .ok (.shot 9 10 11) ∧ decode 0x8F628000 [] = .ok (.catchTag 12 10 false) ∧ decode 0x60208002 [] = .ok (.rldq 1 4 2 none)
    ∧ decode 0x64388603 [] = .ok (.rcas 7 2 3 3) ∧ decode 0x67298000 [] = .ok (.colldef 5 6) ∧ decode 0x72554000 [] = .ok (.post 10 21)
    ∧ decode 0x75A00000 [] = .ok (.twait 20 0) ∧ decode 0x78480003 [] = .ok (.tacq 9 3) ∧ decode 0x98000000 [] = .ok .rfe ∧ decode 0x98000001 [] = .ok .rfeK

/-- R100, R104 to R107 and every encoding table: DECODE AND ENCODE AGREE. The words of every well-formed instruction, with every operand at every value the encoding
admits, decode to it again; and whatever words decode are the words of what they decode to, so that no two encodings share a word. An unused
opcode is the one instruction that takes no account of its literals (R110). -/
def Obligations.DecodeEncode : Prop :=
  (∀ i ws, i.wellFormed = true → encode i = some ws → ∃ w ls, ws = w :: ls ∧ decode w ls = .ok i)
    ∧ ∀ w ls i, decode w ls = .ok i → i.wellFormed = true ∧ (encode i = some (w :: ls) ∨ (i = .illegalOpcode w ∧ unusedOpcode (bits w 31 24) = true))

/-- THE INVARIANT: every step keeps memory in its canonical form, so that equal memories are equal data (R48, R75, R76; the form is the model's own, log entry 2). -/
def Obligations.StepKeepsMemory : Prop :=
 ∀ s t : State, s.Inv → step s = .next t → t.Inv

/-- What reset leaves: no unit and no partition, every stream without entry; VTYPE, VWBASE and FLAGS 0 and a VALID barrier or buffer nowhere; the plane registers, the hub's
FABCFG and DSTAT and the power limit as their Reset columns say (R28, R69, R155, R200, R205, R284, R329, R331, R353, R377, R403). Memory is in its canonical form, and an
unlisted byte reads as log entry 2 chooses. -/
def Obligations.ResetValues : Prop :=
  let s := State.reset
  s.Inv ∧ (∀ n, Mem.read s.mem n = memDefault)
    ∧ (∀ t, (s.tile t).unit = none ∧ (s.tile t).vtype = 0 ∧ (s.tile t).vwbase = 0 ∧ (s.tile t).winlim = 64 ∧ (s.tile t).qMin 0 = 64 ∧ (s.tile t).qCap 0 = 512
        ∧ (s.tile t).qMin 1 = 96 ∧ (s.tile t).qCap 1 = 384 ∧ (s.tile t).qMin 2 = 64 ∧ (s.tile t).qCap 2 = 256 ∧ (s.tile t).qMin 3 = 32 ∧ (s.tile t).qCap 3 = 256
        ∧ (s.tile t).qMin 4 = 64 ∧ (s.tile t).qCap 4 = 256 ∧ (s.tile t).qMin 5 = 128 ∧ (s.tile t).qCap 5 = 512
        ∧ (∀ n, (Map.get {} (s.tile t).bars n : Barrier).valid = false ∧ (Map.get {} (s.tile t).cbs n : CircBuf).valid = false)
        ∧ ∀ st, ((s.tile t).strm st).mode = .noEntry ∧ ((s.tile t).strm st).flags = 0)
    ∧ s.dstat = BitVec.ofNat 64 (4096 * 2 ^ 32)
    ∧ (∀ p, (s.part p).formed = false) ∧ (∀ q, (s.hostQ q).enable = false) ∧ s.bias = 32 ∧ s.ttimeout = 200 ∧ s.powerLimit = 1800 ∧ s.mhz = 1100

/-- R12, R62, R111, R113: THE FRAME OF ISSUE. An instruction that a stream issues changes no byte of memory, no register, accumulator, mask, pattern or FLAGS of any stream, and no
spill byte, in the step of its issue: a result is in flight or outstanding, a store is in its queue, and a trapping instruction changes only its frame. -/
def Obligations.IssueFrame : Prop :=
  ∀ (i : Instr) (s t : State), isIssued i = true → exec i s = .next t →
    t.mem = s.mem ∧ ∀ k, (t.tile k).acc = (s.tile k).acc ∧ (t.tile k).masks = (s.tile k).masks ∧ (t.tile k).pats = (s.tile k).pats ∧ (t.tile k).vtype = (s.tile k).vtype
      ∧ (t.tile k).vwbase = (s.tile k).vwbase ∧ (t.tile k).spill = (s.tile k).spill
      ∧ ∀ st, ((t.tile k).strm st).x = ((s.tile k).strm st).x ∧ ((t.tile k).strm st).q = ((s.tile k).strm st).q ∧ ((t.tile k).strm st).flags = ((s.tile k).strm st).flags

/-- R110, R111, R114, R323: the first three checks. A lane with one of the 56 unused codes is ILLEGAL_OPCODE on every stream and at every privilege; an instruction on a stream that its
opcode's row of R114 marks "—" takes ILLEGAL_STREAM, and a privileged one on C at unit privilege PRIVILEGE, whatever else holds; then an encoding that no instruction has is ILLEGAL_ENCODING. The fault address is the lane, and but for its
frame a trap changes no register, accumulator, FLAGS or byte of memory. -/
def Obligations.OrderOfChecks : Prop :=
  ∀ (s : State) (w : Lane) (ls : List Lane) (i : Instr),
    let op := bits w 31 24
    let unused := op = 0x00 ∨ (0x2C ≤ op ∧ op ≤ 0x2F) ∨ op = 0x3F ∨ op = 0x4F ∨ (0x5C ≤ op ∧ op ≤ 0x5F) ∨ (0x68 ≤ op ∧ op ≤ 0x6F) ∨ op = 0x7F ∨ (0x91 ≤ op ∧ op ≤ 0x97)
      ∨ (0x9C ≤ op ∧ op ≤ 0x9F) ∨ (0xAA ≤ op ∧ op ≤ 0xAF) ∨ (0xDD ≤ op ∧ op ≤ 0xDF) ∨ 0xF0 ≤ op
    let trap (c : BitVec 16) : Out := .next (s.takeTrap s.ct s.cs c s.cur.pc (s.cur.pc.setWidth 64) 0 false false)
    (∀ e, decode w ls = .error e → s.cur.rep = none → s.decodeSlot w ls = .idle (s.takeTrap s.ct s.cs
          (if opLegal op s.cs = false then cILLEGAL_STREAM else if opPrivileged op = true ∧ s.cur.priv = 0 then cPRIVILEGE else cILLEGAL_ENCODING)
          s.cur.pc (s.cur.pc.setWidth 64) 0 false false))
      ∧ (∀ c t, trap c = .next t → t.mem = s.mem ∧ ∀ k, (t.tile k).acc = (s.tile k).acc ∧ (t.tile k).masks = (s.tile k).masks ∧ ∀ st, ((t.tile k).strm st).x = ((s.tile k).strm st).x
          ∧ ((t.tile k).strm st).q = ((s.tile k).strm st).q ∧ ((t.tile k).strm st).flags = ((s.tile k).strm st).flags ∧ ((t.tile k).strm st).priv = ((s.tile k).strm st).priv)
      ∧ (unused → decode w ls = .ok (.illegalOpcode w) ∧ exec (.illegalOpcode w) s = trap cILLEGAL_OPCODE)
      ∧ (¬ unused → decode w ls = .ok i →
          (opLegal op s.cs = false → exec i s = trap cILLEGAL_STREAM) ∧ (opPrivileged op = true → s.cs = .C → s.cur.priv = 0 → exec i s = trap cPRIVILEGE))
      ∧ (¬ unused → (opLegal op .C = true ↔ ¬ 0xA0 ≤ op) ∧ (opLegal op .V = true ↔ op ≤ 0x3E ∨ (0x50 ≤ op ∧ op ≤ 0x5B) ∨ op = 0x78 ∨ op = 0x79 ∨ 0xA0 ≤ op)
        ∧ (opLegal op .F = true ↔ op ≤ 0x66 ∨ op = 0x78 ∨ op = 0x79 ∨ op = 0x83 ∨ (0x87 ≤ op ∧ op ≤ 0x90)))

/-- EVERY INSTRUCTION AND STEP HAS A MEANING: in every state `exec` answers a next state, for each of them; and `step` does so too, but where the device is held in reset
because its fuses could not be read (R391). -/
def Obligations.AlwaysNext : Prop :=
  (∀ (i : Instr) (s : State), ∃ t, exec i s = .next t)
    ∧ ∀ s : State, (∃ t, step s = .next t) ∨ (s.inReset = true ∧ s.agenda = [] ∧ s.slots = [] ∧ step s = .fault .heldInReset)
end

