-- ==== Sys2Proof/Laws/State.lean ====
section
/-! SUPPORT. One lemma per field for every named update of a state, a tile and a stream, so that no later proof unfolds a record update. -/
namespace Sys2Proof.Machine

/-! ## What an update of a state leaves unchanged -/

@[simp] theorem State.setTile_ct (s : State) (t : TileNo) (u : Tile) : (s.setTile t u).ct = s.ct := rfl
@[simp] theorem State.setTile_cs (s : State) (t : TileNo) (u : Tile) : (s.setTile t u).cs = s.cs := rfl
@[simp] theorem State.setTile_ev (s : State) (t : TileNo) (u : Tile) : (s.setTile t u).ev = s.ev := rfl
@[simp] theorem State.setTile_agenda (s : State) (t : TileNo) (u : Tile) : (s.setTile t u).agenda = s.agenda := rfl
@[simp] theorem State.setTile_slots (s : State) (t : TileNo) (u : Tile) : (s.setTile t u).slots = s.slots := rfl
@[simp] theorem State.setTile_late (s : State) (t : TileNo) (u : Tile) : (s.setTile t u).late = s.late := rfl
@[simp] theorem State.setTile_lateQ (s : State) (t : TileNo) (u : Tile) : (s.setTile t u).lateQ = s.lateQ := rfl
@[simp] theorem State.setTile_queueQ (s : State) (t : TileNo) (u : Tile) : (s.setTile t u).queueQ = s.queueQ := rfl
@[simp] theorem State.setTile_steals (s : State) (t : TileNo) (u : Tile) : (s.setTile t u).steals = s.steals := rfl
@[simp] theorem State.setTile_timers (s : State) (t : TileNo) (u : Tile) : (s.setTile t u).timers = s.timers := rfl
@[simp] theorem State.setTile_waiters (s : State) (t : TileNo) (u : Tile) : (s.setTile t u).waiters = s.waiters := rfl
@[simp] theorem State.setTile_clock (s : State) (t : TileNo) (u : Tile) : (s.setTile t u).clock = s.clock := rfl
@[simp] theorem State.setTile_fabric (s : State) (t : TileNo) (u : Tile) : (s.setTile t u).fabric = s.fabric := rfl
@[simp] theorem State.setTile_fabFrac (s : State) (t : TileNo) (u : Tile) : (s.setTile t u).fabFrac = s.fabFrac := rfl
@[simp] theorem State.setTile_fresh (s : State) (t : TileNo) (u : Tile) : (s.setTile t u).fresh = s.fresh := rfl
@[simp] theorem State.setTile_nextId (s : State) (t : TileNo) (u : Tile) : (s.setTile t u).nextId = s.nextId := rfl
@[simp] theorem State.setTile_mem (s : State) (t : TileNo) (u : Tile) : (s.setTile t u).mem = s.mem := rfl
@[simp] theorem State.setTile_ecc (s : State) (t : TileNo) (u : Tile) : (s.setTile t u).ecc = s.ecc := rfl
@[simp] theorem State.setTile_bankUse (s : State) (t : TileNo) (u : Tile) : (s.setTile t u).bankUse = s.bankUse := rfl
@[simp] theorem State.setTile_bankWon (s : State) (t : TileNo) (u : Tile) : (s.setTile t u).bankWon = s.bankWon := rfl
@[simp] theorem State.setTile_routers (s : State) (t : TileNo) (u : Tile) : (s.setTile t u).routers = s.routers := rfl
@[simp] theorem State.setTile_tags (s : State) (t : TileNo) (u : Tile) : (s.setTile t u).tags = s.tags := rfl
@[simp] theorem State.setTile_buses (s : State) (t : TileNo) (u : Tile) : (s.setTile t u).buses = s.buses := rfl
@[simp] theorem State.setTile_msgs (s : State) (t : TileNo) (u : Tile) : (s.setTile t u).msgs = s.msgs := rfl
@[simp] theorem State.setTile_launches (s : State) (t : TileNo) (u : Tile) : (s.setTile t u).launches = s.launches := rfl
@[simp] theorem State.setTile_nextLaunch (s : State) (t : TileNo) (u : Tile) : (s.setTile t u).nextLaunch = s.nextLaunch := rfl
@[simp] theorem State.setTile_graphs (s : State) (t : TileNo) (u : Tile) : (s.setTile t u).graphs = s.graphs := rfl
@[simp] theorem State.setTile_phases (s : State) (t : TileNo) (u : Tile) : (s.setTile t u).phases = s.phases := rfl
@[simp] theorem State.setTile_jobs (s : State) (t : TileNo) (u : Tile) : (s.setTile t u).jobs = s.jobs := rfl
@[simp] theorem State.setTile_nextLevel (s : State) (t : TileNo) (u : Tile) : (s.setTile t u).nextLevel = s.nextLevel := rfl
@[simp] theorem State.setTile_hostQs (s : State) (t : TileNo) (u : Tile) : (s.setTile t u).hostQs = s.hostQs := rfl
@[simp] theorem State.setTile_kickmap (s : State) (t : TileNo) (u : Tile) : (s.setTile t u).kickmap = s.kickmap := rfl
@[simp] theorem State.setTile_poolFree (s : State) (t : TileNo) (u : Tile) : (s.setTile t u).poolFree = s.poolFree := rfl
@[simp] theorem State.setTile_admitCtr (s : State) (t : TileNo) (u : Tile) : (s.setTile t u).admitCtr = s.admitCtr := rfl
@[simp] theorem State.setTile_saved (s : State) (t : TileNo) (u : Tile) : (s.setTile t u).saved = s.saved := rfl
@[simp] theorem State.setTile_takeovers (s : State) (t : TileNo) (u : Tile) : (s.setTile t u).takeovers = s.takeovers := rfl
@[simp] theorem State.setTile_gate (s : State) (t : TileNo) (u : Tile) : (s.setTile t u).gate = s.gate := rfl
@[simp] theorem State.setTile_active (s : State) (t : TileNo) (u : Tile) : (s.setTile t u).active = s.active := rfl
@[simp] theorem State.setTile_standby (s : State) (t : TileNo) (u : Tile) : (s.setTile t u).standby = s.standby := rfl
@[simp] theorem State.setTile_halted0 (s : State) (t : TileNo) (u : Tile) : (s.setTile t u).halted0 = s.halted0 := rfl
@[simp] theorem State.setTile_halted1 (s : State) (t : TileNo) (u : Tile) : (s.setTile t u).halted1 = s.halted1 := rfl
@[simp] theorem State.setTile_heldWords (s : State) (t : TileNo) (u : Tile) : (s.setTile t u).heldWords = s.heldWords := rfl
@[simp] theorem State.setTile_journal (s : State) (t : TileNo) (u : Tile) : (s.setTile t u).journal = s.journal := rfl
@[simp] theorem State.setTile_checkpoint (s : State) (t : TileNo) (u : Tile) : (s.setTile t u).checkpoint = s.checkpoint := rfl
@[simp] theorem State.setTile_tables (s : State) (t : TileNo) (u : Tile) : (s.setTile t u).tables = s.tables := rfl
@[simp] theorem State.setTile_coreMem0 (s : State) (t : TileNo) (u : Tile) : (s.setTile t u).coreMem0 = s.coreMem0 := rfl
@[simp] theorem State.setTile_coreMem1 (s : State) (t : TileNo) (u : Tile) : (s.setTile t u).coreMem1 = s.coreMem1 := rfl
@[simp] theorem State.setTile_coreBad (s : State) (t : TileNo) (u : Tile) : (s.setTile t u).coreBad = s.coreBad := rfl
@[simp] theorem State.setTile_parts (s : State) (t : TileNo) (u : Tile) : (s.setTile t u).parts = s.parts := rfl
@[simp] theorem State.setTile_ctxs (s : State) (t : TileNo) (u : Tile) : (s.setTile t u).ctxs = s.ctxs := rfl
@[simp] theorem State.setTile_hubTlbs (s : State) (t : TileNo) (u : Tile) : (s.setTile t u).hubTlbs = s.hubTlbs := rfl
@[simp] theorem State.setTile_invals (s : State) (t : TileNo) (u : Tile) : (s.setTile t u).invals = s.invals := rfl
@[simp] theorem State.setTile_bias (s : State) (t : TileNo) (u : Tile) : (s.setTile t u).bias = s.bias := rfl
@[simp] theorem State.setTile_ttimeout (s : State) (t : TileNo) (u : Tile) : (s.setTile t u).ttimeout = s.ttimeout := rfl
@[simp] theorem State.setTile_txTags (s : State) (t : TileNo) (u : Tile) : (s.setTile t u).txTags = s.txTags := rfl
@[simp] theorem State.setTile_keys (s : State) (t : TileNo) (u : Tile) : (s.setTile t u).keys = s.keys := rfl
@[simp] theorem State.setTile_routes (s : State) (t : TileNo) (u : Tile) : (s.setTile t u).routes = s.routes := rfl
@[simp] theorem State.setTile_flitRetries (s : State) (t : TileNo) (u : Tile) : (s.setTile t u).flitRetries = s.flitRetries := rfl
@[simp] theorem State.setTile_outReplies (s : State) (t : TileNo) (u : Tile) : (s.setTile t u).outReplies = s.outReplies := rfl
@[simp] theorem State.setTile_portLanes (s : State) (t : TileNo) (u : Tile) : (s.setTile t u).portLanes = s.portLanes := rfl
@[simp] theorem State.setTile_fenced (s : State) (t : TileNo) (u : Tile) : (s.setTile t u).fenced = s.fenced := rfl
@[simp] theorem State.setTile_pchFenced (s : State) (t : TileNo) (u : Tile) : (s.setTile t u).pchFenced = s.pchFenced := rfl
@[simp] theorem State.setTile_fuses (s : State) (t : TileNo) (u : Tile) : (s.setTile t u).fuses = s.fuses := rfl
@[simp] theorem State.setTile_inReset (s : State) (t : TileNo) (u : Tile) : (s.setTile t u).inReset = s.inReset := rfl
@[simp] theorem State.setTile_recovery (s : State) (t : TileNo) (u : Tile) : (s.setTile t u).recovery = s.recovery := rfl
@[simp] theorem State.setTile_ide (s : State) (t : TileNo) (u : Tile) : (s.setTile t u).ide = s.ide := rfl
@[simp] theorem State.setTile_measure (s : State) (t : TileNo) (u : Tile) : (s.setTile t u).measure = s.measure := rfl
@[simp] theorem State.setTile_slotUsed (s : State) (t : TileNo) (u : Tile) : (s.setTile t u).slotUsed = s.slotUsed := rfl
@[simp] theorem State.setTile_session (s : State) (t : TileNo) (u : Tile) : (s.setTile t u).session = s.session := rfl
@[simp] theorem State.setTile_spdmOut (s : State) (t : TileNo) (u : Tile) : (s.setTile t u).spdmOut = s.spdmOut := rfl
@[simp] theorem State.setTile_identity (s : State) (t : TileNo) (u : Tile) : (s.setTile t u).identity = s.identity := rfl
@[simp] theorem State.setTile_irqs (s : State) (t : TileNo) (u : Tile) : (s.setTile t u).irqs = s.irqs := rfl
@[simp] theorem State.setTile_msix (s : State) (t : TileNo) (u : Tile) : (s.setTile t u).msix = s.msix := rfl
@[simp] theorem State.setTile_msixPend (s : State) (t : TileNo) (u : Tile) : (s.setTile t u).msixPend = s.msixPend := rfl
@[simp] theorem State.setTile_bgStatus (s : State) (t : TileNo) (u : Tile) : (s.setTile t u).bgStatus = s.bgStatus := rfl
@[simp] theorem State.setTile_hostData (s : State) (t : TileNo) (u : Tile) : (s.setTile t u).hostData = s.hostData := rfl
@[simp] theorem State.setTile_reports (s : State) (t : TileNo) (u : Tile) : (s.setTile t u).reports = s.reports := rfl
@[simp] theorem State.setTile_mbox (s : State) (t : TileNo) (u : Tile) : (s.setTile t u).mbox = s.mbox := rfl
@[simp] theorem State.setTile_mboxBusy (s : State) (t : TileNo) (u : Tile) : (s.setTile t u).mboxBusy = s.mboxBusy := rfl
@[simp] theorem State.setTile_powerLimit (s : State) (t : TileNo) (u : Tile) : (s.setTile t u).powerLimit = s.powerLimit := rfl
@[simp] theorem State.setTile_mhz (s : State) (t : TileNo) (u : Tile) : (s.setTile t u).mhz = s.mhz := rfl
@[simp] theorem State.setTile_thermal (s : State) (t : TileNo) (u : Tile) : (s.setTile t u).thermal = s.thermal := rfl

@[simp] theorem State.modTile_ct (s : State) (t : TileNo) (g : Tile → Tile) : (s.modTile t g).ct = s.ct := rfl
@[simp] theorem State.modTile_cs (s : State) (t : TileNo) (g : Tile → Tile) : (s.modTile t g).cs = s.cs := rfl
@[simp] theorem State.modTile_ev (s : State) (t : TileNo) (g : Tile → Tile) : (s.modTile t g).ev = s.ev := rfl
@[simp] theorem State.modTile_agenda (s : State) (t : TileNo) (g : Tile → Tile) : (s.modTile t g).agenda = s.agenda := rfl
@[simp] theorem State.modTile_slots (s : State) (t : TileNo) (g : Tile → Tile) : (s.modTile t g).slots = s.slots := rfl
@[simp] theorem State.modTile_late (s : State) (t : TileNo) (g : Tile → Tile) : (s.modTile t g).late = s.late := rfl
@[simp] theorem State.modTile_lateQ (s : State) (t : TileNo) (g : Tile → Tile) : (s.modTile t g).lateQ = s.lateQ := rfl
@[simp] theorem State.modTile_queueQ (s : State) (t : TileNo) (g : Tile → Tile) : (s.modTile t g).queueQ = s.queueQ := rfl
@[simp] theorem State.modTile_steals (s : State) (t : TileNo) (g : Tile → Tile) : (s.modTile t g).steals = s.steals := rfl
@[simp] theorem State.modTile_timers (s : State) (t : TileNo) (g : Tile → Tile) : (s.modTile t g).timers = s.timers := rfl
@[simp] theorem State.modTile_waiters (s : State) (t : TileNo) (g : Tile → Tile) : (s.modTile t g).waiters = s.waiters := rfl
@[simp] theorem State.modTile_clock (s : State) (t : TileNo) (g : Tile → Tile) : (s.modTile t g).clock = s.clock := rfl
@[simp] theorem State.modTile_fabric (s : State) (t : TileNo) (g : Tile → Tile) : (s.modTile t g).fabric = s.fabric := rfl
@[simp] theorem State.modTile_fabFrac (s : State) (t : TileNo) (g : Tile → Tile) : (s.modTile t g).fabFrac = s.fabFrac := rfl
@[simp] theorem State.modTile_fresh (s : State) (t : TileNo) (g : Tile → Tile) : (s.modTile t g).fresh = s.fresh := rfl
@[simp] theorem State.modTile_nextId (s : State) (t : TileNo) (g : Tile → Tile) : (s.modTile t g).nextId = s.nextId := rfl
@[simp] theorem State.modTile_mem (s : State) (t : TileNo) (g : Tile → Tile) : (s.modTile t g).mem = s.mem := rfl
@[simp] theorem State.modTile_ecc (s : State) (t : TileNo) (g : Tile → Tile) : (s.modTile t g).ecc = s.ecc := rfl
@[simp] theorem State.modTile_bankUse (s : State) (t : TileNo) (g : Tile → Tile) : (s.modTile t g).bankUse = s.bankUse := rfl
@[simp] theorem State.modTile_bankWon (s : State) (t : TileNo) (g : Tile → Tile) : (s.modTile t g).bankWon = s.bankWon := rfl
@[simp] theorem State.modTile_routers (s : State) (t : TileNo) (g : Tile → Tile) : (s.modTile t g).routers = s.routers := rfl
@[simp] theorem State.modTile_tags (s : State) (t : TileNo) (g : Tile → Tile) : (s.modTile t g).tags = s.tags := rfl
@[simp] theorem State.modTile_buses (s : State) (t : TileNo) (g : Tile → Tile) : (s.modTile t g).buses = s.buses := rfl
@[simp] theorem State.modTile_msgs (s : State) (t : TileNo) (g : Tile → Tile) : (s.modTile t g).msgs = s.msgs := rfl
@[simp] theorem State.modTile_launches (s : State) (t : TileNo) (g : Tile → Tile) : (s.modTile t g).launches = s.launches := rfl
@[simp] theorem State.modTile_nextLaunch (s : State) (t : TileNo) (g : Tile → Tile) : (s.modTile t g).nextLaunch = s.nextLaunch := rfl
@[simp] theorem State.modTile_graphs (s : State) (t : TileNo) (g : Tile → Tile) : (s.modTile t g).graphs = s.graphs := rfl
@[simp] theorem State.modTile_phases (s : State) (t : TileNo) (g : Tile → Tile) : (s.modTile t g).phases = s.phases := rfl
@[simp] theorem State.modTile_jobs (s : State) (t : TileNo) (g : Tile → Tile) : (s.modTile t g).jobs = s.jobs := rfl
@[simp] theorem State.modTile_nextLevel (s : State) (t : TileNo) (g : Tile → Tile) : (s.modTile t g).nextLevel = s.nextLevel := rfl
@[simp] theorem State.modTile_hostQs (s : State) (t : TileNo) (g : Tile → Tile) : (s.modTile t g).hostQs = s.hostQs := rfl
@[simp] theorem State.modTile_kickmap (s : State) (t : TileNo) (g : Tile → Tile) : (s.modTile t g).kickmap = s.kickmap := rfl
@[simp] theorem State.modTile_poolFree (s : State) (t : TileNo) (g : Tile → Tile) : (s.modTile t g).poolFree = s.poolFree := rfl
@[simp] theorem State.modTile_admitCtr (s : State) (t : TileNo) (g : Tile → Tile) : (s.modTile t g).admitCtr = s.admitCtr := rfl
@[simp] theorem State.modTile_saved (s : State) (t : TileNo) (g : Tile → Tile) : (s.modTile t g).saved = s.saved := rfl
@[simp] theorem State.modTile_takeovers (s : State) (t : TileNo) (g : Tile → Tile) : (s.modTile t g).takeovers = s.takeovers := rfl
@[simp] theorem State.modTile_gate (s : State) (t : TileNo) (g : Tile → Tile) : (s.modTile t g).gate = s.gate := rfl
@[simp] theorem State.modTile_active (s : State) (t : TileNo) (g : Tile → Tile) : (s.modTile t g).active = s.active := rfl
@[simp] theorem State.modTile_standby (s : State) (t : TileNo) (g : Tile → Tile) : (s.modTile t g).standby = s.standby := rfl
@[simp] theorem State.modTile_halted0 (s : State) (t : TileNo) (g : Tile → Tile) : (s.modTile t g).halted0 = s.halted0 := rfl
@[simp] theorem State.modTile_halted1 (s : State) (t : TileNo) (g : Tile → Tile) : (s.modTile t g).halted1 = s.halted1 := rfl
@[simp] theorem State.modTile_heldWords (s : State) (t : TileNo) (g : Tile → Tile) : (s.modTile t g).heldWords = s.heldWords := rfl
@[simp] theorem State.modTile_journal (s : State) (t : TileNo) (g : Tile → Tile) : (s.modTile t g).journal = s.journal := rfl
@[simp] theorem State.modTile_checkpoint (s : State) (t : TileNo) (g : Tile → Tile) : (s.modTile t g).checkpoint = s.checkpoint := rfl
@[simp] theorem State.modTile_tables (s : State) (t : TileNo) (g : Tile → Tile) : (s.modTile t g).tables = s.tables := rfl
@[simp] theorem State.modTile_coreMem0 (s : State) (t : TileNo) (g : Tile → Tile) : (s.modTile t g).coreMem0 = s.coreMem0 := rfl
@[simp] theorem State.modTile_coreMem1 (s : State) (t : TileNo) (g : Tile → Tile) : (s.modTile t g).coreMem1 = s.coreMem1 := rfl
@[simp] theorem State.modTile_coreBad (s : State) (t : TileNo) (g : Tile → Tile) : (s.modTile t g).coreBad = s.coreBad := rfl
@[simp] theorem State.modTile_parts (s : State) (t : TileNo) (g : Tile → Tile) : (s.modTile t g).parts = s.parts := rfl
@[simp] theorem State.modTile_ctxs (s : State) (t : TileNo) (g : Tile → Tile) : (s.modTile t g).ctxs = s.ctxs := rfl
@[simp] theorem State.modTile_hubTlbs (s : State) (t : TileNo) (g : Tile → Tile) : (s.modTile t g).hubTlbs = s.hubTlbs := rfl
@[simp] theorem State.modTile_invals (s : State) (t : TileNo) (g : Tile → Tile) : (s.modTile t g).invals = s.invals := rfl
@[simp] theorem State.modTile_bias (s : State) (t : TileNo) (g : Tile → Tile) : (s.modTile t g).bias = s.bias := rfl
@[simp] theorem State.modTile_ttimeout (s : State) (t : TileNo) (g : Tile → Tile) : (s.modTile t g).ttimeout = s.ttimeout := rfl
@[simp] theorem State.modTile_txTags (s : State) (t : TileNo) (g : Tile → Tile) : (s.modTile t g).txTags = s.txTags := rfl
@[simp] theorem State.modTile_keys (s : State) (t : TileNo) (g : Tile → Tile) : (s.modTile t g).keys = s.keys := rfl
@[simp] theorem State.modTile_routes (s : State) (t : TileNo) (g : Tile → Tile) : (s.modTile t g).routes = s.routes := rfl
@[simp] theorem State.modTile_flitRetries (s : State) (t : TileNo) (g : Tile → Tile) : (s.modTile t g).flitRetries = s.flitRetries := rfl
@[simp] theorem State.modTile_outReplies (s : State) (t : TileNo) (g : Tile → Tile) : (s.modTile t g).outReplies = s.outReplies := rfl
@[simp] theorem State.modTile_portLanes (s : State) (t : TileNo) (g : Tile → Tile) : (s.modTile t g).portLanes = s.portLanes := rfl
@[simp] theorem State.modTile_fenced (s : State) (t : TileNo) (g : Tile → Tile) : (s.modTile t g).fenced = s.fenced := rfl
@[simp] theorem State.modTile_pchFenced (s : State) (t : TileNo) (g : Tile → Tile) : (s.modTile t g).pchFenced = s.pchFenced := rfl
@[simp] theorem State.modTile_fuses (s : State) (t : TileNo) (g : Tile → Tile) : (s.modTile t g).fuses = s.fuses := rfl
@[simp] theorem State.modTile_inReset (s : State) (t : TileNo) (g : Tile → Tile) : (s.modTile t g).inReset = s.inReset := rfl
@[simp] theorem State.modTile_recovery (s : State) (t : TileNo) (g : Tile → Tile) : (s.modTile t g).recovery = s.recovery := rfl
@[simp] theorem State.modTile_ide (s : State) (t : TileNo) (g : Tile → Tile) : (s.modTile t g).ide = s.ide := rfl
@[simp] theorem State.modTile_measure (s : State) (t : TileNo) (g : Tile → Tile) : (s.modTile t g).measure = s.measure := rfl
@[simp] theorem State.modTile_slotUsed (s : State) (t : TileNo) (g : Tile → Tile) : (s.modTile t g).slotUsed = s.slotUsed := rfl
@[simp] theorem State.modTile_session (s : State) (t : TileNo) (g : Tile → Tile) : (s.modTile t g).session = s.session := rfl
@[simp] theorem State.modTile_spdmOut (s : State) (t : TileNo) (g : Tile → Tile) : (s.modTile t g).spdmOut = s.spdmOut := rfl
@[simp] theorem State.modTile_identity (s : State) (t : TileNo) (g : Tile → Tile) : (s.modTile t g).identity = s.identity := rfl
@[simp] theorem State.modTile_irqs (s : State) (t : TileNo) (g : Tile → Tile) : (s.modTile t g).irqs = s.irqs := rfl
@[simp] theorem State.modTile_msix (s : State) (t : TileNo) (g : Tile → Tile) : (s.modTile t g).msix = s.msix := rfl
@[simp] theorem State.modTile_msixPend (s : State) (t : TileNo) (g : Tile → Tile) : (s.modTile t g).msixPend = s.msixPend := rfl
@[simp] theorem State.modTile_bgStatus (s : State) (t : TileNo) (g : Tile → Tile) : (s.modTile t g).bgStatus = s.bgStatus := rfl
@[simp] theorem State.modTile_hostData (s : State) (t : TileNo) (g : Tile → Tile) : (s.modTile t g).hostData = s.hostData := rfl
@[simp] theorem State.modTile_reports (s : State) (t : TileNo) (g : Tile → Tile) : (s.modTile t g).reports = s.reports := rfl
@[simp] theorem State.modTile_mbox (s : State) (t : TileNo) (g : Tile → Tile) : (s.modTile t g).mbox = s.mbox := rfl
@[simp] theorem State.modTile_mboxBusy (s : State) (t : TileNo) (g : Tile → Tile) : (s.modTile t g).mboxBusy = s.mboxBusy := rfl
@[simp] theorem State.modTile_powerLimit (s : State) (t : TileNo) (g : Tile → Tile) : (s.modTile t g).powerLimit = s.powerLimit := rfl
@[simp] theorem State.modTile_mhz (s : State) (t : TileNo) (g : Tile → Tile) : (s.modTile t g).mhz = s.mhz := rfl
@[simp] theorem State.modTile_thermal (s : State) (t : TileNo) (g : Tile → Tile) : (s.modTile t g).thermal = s.thermal := rfl

@[simp] theorem State.modStrmOf_ct (s : State) (t : TileNo) (st : Stream) (g : Strm → Strm) : (s.modStrmOf t st g).ct = s.ct := rfl
@[simp] theorem State.modStrmOf_cs (s : State) (t : TileNo) (st : Stream) (g : Strm → Strm) : (s.modStrmOf t st g).cs = s.cs := rfl
@[simp] theorem State.modStrmOf_ev (s : State) (t : TileNo) (st : Stream) (g : Strm → Strm) : (s.modStrmOf t st g).ev = s.ev := rfl
@[simp] theorem State.modStrmOf_agenda (s : State) (t : TileNo) (st : Stream) (g : Strm → Strm) : (s.modStrmOf t st g).agenda = s.agenda := rfl
@[simp] theorem State.modStrmOf_slots (s : State) (t : TileNo) (st : Stream) (g : Strm → Strm) : (s.modStrmOf t st g).slots = s.slots := rfl
@[simp] theorem State.modStrmOf_late (s : State) (t : TileNo) (st : Stream) (g : Strm → Strm) : (s.modStrmOf t st g).late = s.late := rfl
@[simp] theorem State.modStrmOf_lateQ (s : State) (t : TileNo) (st : Stream) (g : Strm → Strm) : (s.modStrmOf t st g).lateQ = s.lateQ := rfl
@[simp] theorem State.modStrmOf_queueQ (s : State) (t : TileNo) (st : Stream) (g : Strm → Strm) : (s.modStrmOf t st g).queueQ = s.queueQ := rfl
@[simp] theorem State.modStrmOf_steals (s : State) (t : TileNo) (st : Stream) (g : Strm → Strm) : (s.modStrmOf t st g).steals = s.steals := rfl
@[simp] theorem State.modStrmOf_timers (s : State) (t : TileNo) (st : Stream) (g : Strm → Strm) : (s.modStrmOf t st g).timers = s.timers := rfl
@[simp] theorem State.modStrmOf_waiters (s : State) (t : TileNo) (st : Stream) (g : Strm → Strm) : (s.modStrmOf t st g).waiters = s.waiters := rfl
@[simp] theorem State.modStrmOf_clock (s : State) (t : TileNo) (st : Stream) (g : Strm → Strm) : (s.modStrmOf t st g).clock = s.clock := rfl
@[simp] theorem State.modStrmOf_fabric (s : State) (t : TileNo) (st : Stream) (g : Strm → Strm) : (s.modStrmOf t st g).fabric = s.fabric := rfl
@[simp] theorem State.modStrmOf_fabFrac (s : State) (t : TileNo) (st : Stream) (g : Strm → Strm) : (s.modStrmOf t st g).fabFrac = s.fabFrac := rfl
@[simp] theorem State.modStrmOf_fresh (s : State) (t : TileNo) (st : Stream) (g : Strm → Strm) : (s.modStrmOf t st g).fresh = s.fresh := rfl
@[simp] theorem State.modStrmOf_nextId (s : State) (t : TileNo) (st : Stream) (g : Strm → Strm) : (s.modStrmOf t st g).nextId = s.nextId := rfl
@[simp] theorem State.modStrmOf_mem (s : State) (t : TileNo) (st : Stream) (g : Strm → Strm) : (s.modStrmOf t st g).mem = s.mem := rfl
@[simp] theorem State.modStrmOf_ecc (s : State) (t : TileNo) (st : Stream) (g : Strm → Strm) : (s.modStrmOf t st g).ecc = s.ecc := rfl
@[simp] theorem State.modStrmOf_bankUse (s : State) (t : TileNo) (st : Stream) (g : Strm → Strm) : (s.modStrmOf t st g).bankUse = s.bankUse := rfl
@[simp] theorem State.modStrmOf_bankWon (s : State) (t : TileNo) (st : Stream) (g : Strm → Strm) : (s.modStrmOf t st g).bankWon = s.bankWon := rfl
@[simp] theorem State.modStrmOf_routers (s : State) (t : TileNo) (st : Stream) (g : Strm → Strm) : (s.modStrmOf t st g).routers = s.routers := rfl
@[simp] theorem State.modStrmOf_tags (s : State) (t : TileNo) (st : Stream) (g : Strm → Strm) : (s.modStrmOf t st g).tags = s.tags := rfl
@[simp] theorem State.modStrmOf_buses (s : State) (t : TileNo) (st : Stream) (g : Strm → Strm) : (s.modStrmOf t st g).buses = s.buses := rfl
@[simp] theorem State.modStrmOf_msgs (s : State) (t : TileNo) (st : Stream) (g : Strm → Strm) : (s.modStrmOf t st g).msgs = s.msgs := rfl
@[simp] theorem State.modStrmOf_launches (s : State) (t : TileNo) (st : Stream) (g : Strm → Strm) : (s.modStrmOf t st g).launches = s.launches := rfl
@[simp] theorem State.modStrmOf_nextLaunch (s : State) (t : TileNo) (st : Stream) (g : Strm → Strm) : (s.modStrmOf t st g).nextLaunch = s.nextLaunch := rfl
@[simp] theorem State.modStrmOf_graphs (s : State) (t : TileNo) (st : Stream) (g : Strm → Strm) : (s.modStrmOf t st g).graphs = s.graphs := rfl
@[simp] theorem State.modStrmOf_phases (s : State) (t : TileNo) (st : Stream) (g : Strm → Strm) : (s.modStrmOf t st g).phases = s.phases := rfl
@[simp] theorem State.modStrmOf_jobs (s : State) (t : TileNo) (st : Stream) (g : Strm → Strm) : (s.modStrmOf t st g).jobs = s.jobs := rfl
@[simp] theorem State.modStrmOf_nextLevel (s : State) (t : TileNo) (st : Stream) (g : Strm → Strm) : (s.modStrmOf t st g).nextLevel = s.nextLevel := rfl
@[simp] theorem State.modStrmOf_hostQs (s : State) (t : TileNo) (st : Stream) (g : Strm → Strm) : (s.modStrmOf t st g).hostQs = s.hostQs := rfl
@[simp] theorem State.modStrmOf_kickmap (s : State) (t : TileNo) (st : Stream) (g : Strm → Strm) : (s.modStrmOf t st g).kickmap = s.kickmap := rfl
@[simp] theorem State.modStrmOf_poolFree (s : State) (t : TileNo) (st : Stream) (g : Strm → Strm) : (s.modStrmOf t st g).poolFree = s.poolFree := rfl
@[simp] theorem State.modStrmOf_admitCtr (s : State) (t : TileNo) (st : Stream) (g : Strm → Strm) : (s.modStrmOf t st g).admitCtr = s.admitCtr := rfl
@[simp] theorem State.modStrmOf_saved (s : State) (t : TileNo) (st : Stream) (g : Strm → Strm) : (s.modStrmOf t st g).saved = s.saved := rfl
@[simp] theorem State.modStrmOf_takeovers (s : State) (t : TileNo) (st : Stream) (g : Strm → Strm) : (s.modStrmOf t st g).takeovers = s.takeovers := rfl
@[simp] theorem State.modStrmOf_gate (s : State) (t : TileNo) (st : Stream) (g : Strm → Strm) : (s.modStrmOf t st g).gate = s.gate := rfl
@[simp] theorem State.modStrmOf_active (s : State) (t : TileNo) (st : Stream) (g : Strm → Strm) : (s.modStrmOf t st g).active = s.active := rfl
@[simp] theorem State.modStrmOf_standby (s : State) (t : TileNo) (st : Stream) (g : Strm → Strm) : (s.modStrmOf t st g).standby = s.standby := rfl
@[simp] theorem State.modStrmOf_halted0 (s : State) (t : TileNo) (st : Stream) (g : Strm → Strm) : (s.modStrmOf t st g).halted0 = s.halted0 := rfl
@[simp] theorem State.modStrmOf_halted1 (s : State) (t : TileNo) (st : Stream) (g : Strm → Strm) : (s.modStrmOf t st g).halted1 = s.halted1 := rfl
@[simp] theorem State.modStrmOf_heldWords (s : State) (t : TileNo) (st : Stream) (g : Strm → Strm) : (s.modStrmOf t st g).heldWords = s.heldWords := rfl
@[simp] theorem State.modStrmOf_journal (s : State) (t : TileNo) (st : Stream) (g : Strm → Strm) : (s.modStrmOf t st g).journal = s.journal := rfl
@[simp] theorem State.modStrmOf_checkpoint (s : State) (t : TileNo) (st : Stream) (g : Strm → Strm) : (s.modStrmOf t st g).checkpoint = s.checkpoint := rfl
@[simp] theorem State.modStrmOf_tables (s : State) (t : TileNo) (st : Stream) (g : Strm → Strm) : (s.modStrmOf t st g).tables = s.tables := rfl
@[simp] theorem State.modStrmOf_coreMem0 (s : State) (t : TileNo) (st : Stream) (g : Strm → Strm) : (s.modStrmOf t st g).coreMem0 = s.coreMem0 := rfl
@[simp] theorem State.modStrmOf_coreMem1 (s : State) (t : TileNo) (st : Stream) (g : Strm → Strm) : (s.modStrmOf t st g).coreMem1 = s.coreMem1 := rfl
@[simp] theorem State.modStrmOf_coreBad (s : State) (t : TileNo) (st : Stream) (g : Strm → Strm) : (s.modStrmOf t st g).coreBad = s.coreBad := rfl
@[simp] theorem State.modStrmOf_parts (s : State) (t : TileNo) (st : Stream) (g : Strm → Strm) : (s.modStrmOf t st g).parts = s.parts := rfl
@[simp] theorem State.modStrmOf_ctxs (s : State) (t : TileNo) (st : Stream) (g : Strm → Strm) : (s.modStrmOf t st g).ctxs = s.ctxs := rfl
@[simp] theorem State.modStrmOf_hubTlbs (s : State) (t : TileNo) (st : Stream) (g : Strm → Strm) : (s.modStrmOf t st g).hubTlbs = s.hubTlbs := rfl
@[simp] theorem State.modStrmOf_invals (s : State) (t : TileNo) (st : Stream) (g : Strm → Strm) : (s.modStrmOf t st g).invals = s.invals := rfl
@[simp] theorem State.modStrmOf_bias (s : State) (t : TileNo) (st : Stream) (g : Strm → Strm) : (s.modStrmOf t st g).bias = s.bias := rfl
@[simp] theorem State.modStrmOf_ttimeout (s : State) (t : TileNo) (st : Stream) (g : Strm → Strm) : (s.modStrmOf t st g).ttimeout = s.ttimeout := rfl
@[simp] theorem State.modStrmOf_txTags (s : State) (t : TileNo) (st : Stream) (g : Strm → Strm) : (s.modStrmOf t st g).txTags = s.txTags := rfl
@[simp] theorem State.modStrmOf_keys (s : State) (t : TileNo) (st : Stream) (g : Strm → Strm) : (s.modStrmOf t st g).keys = s.keys := rfl
@[simp] theorem State.modStrmOf_routes (s : State) (t : TileNo) (st : Stream) (g : Strm → Strm) : (s.modStrmOf t st g).routes = s.routes := rfl
@[simp] theorem State.modStrmOf_flitRetries (s : State) (t : TileNo) (st : Stream) (g : Strm → Strm) : (s.modStrmOf t st g).flitRetries = s.flitRetries := rfl
@[simp] theorem State.modStrmOf_outReplies (s : State) (t : TileNo) (st : Stream) (g : Strm → Strm) : (s.modStrmOf t st g).outReplies = s.outReplies := rfl
@[simp] theorem State.modStrmOf_portLanes (s : State) (t : TileNo) (st : Stream) (g : Strm → Strm) : (s.modStrmOf t st g).portLanes = s.portLanes := rfl
@[simp] theorem State.modStrmOf_fenced (s : State) (t : TileNo) (st : Stream) (g : Strm → Strm) : (s.modStrmOf t st g).fenced = s.fenced := rfl
@[simp] theorem State.modStrmOf_pchFenced (s : State) (t : TileNo) (st : Stream) (g : Strm → Strm) : (s.modStrmOf t st g).pchFenced = s.pchFenced := rfl
@[simp] theorem State.modStrmOf_fuses (s : State) (t : TileNo) (st : Stream) (g : Strm → Strm) : (s.modStrmOf t st g).fuses = s.fuses := rfl
@[simp] theorem State.modStrmOf_inReset (s : State) (t : TileNo) (st : Stream) (g : Strm → Strm) : (s.modStrmOf t st g).inReset = s.inReset := rfl
@[simp] theorem State.modStrmOf_recovery (s : State) (t : TileNo) (st : Stream) (g : Strm → Strm) : (s.modStrmOf t st g).recovery = s.recovery := rfl
@[simp] theorem State.modStrmOf_ide (s : State) (t : TileNo) (st : Stream) (g : Strm → Strm) : (s.modStrmOf t st g).ide = s.ide := rfl
@[simp] theorem State.modStrmOf_measure (s : State) (t : TileNo) (st : Stream) (g : Strm → Strm) : (s.modStrmOf t st g).measure = s.measure := rfl
@[simp] theorem State.modStrmOf_slotUsed (s : State) (t : TileNo) (st : Stream) (g : Strm → Strm) : (s.modStrmOf t st g).slotUsed = s.slotUsed := rfl
@[simp] theorem State.modStrmOf_session (s : State) (t : TileNo) (st : Stream) (g : Strm → Strm) : (s.modStrmOf t st g).session = s.session := rfl
@[simp] theorem State.modStrmOf_spdmOut (s : State) (t : TileNo) (st : Stream) (g : Strm → Strm) : (s.modStrmOf t st g).spdmOut = s.spdmOut := rfl
@[simp] theorem State.modStrmOf_identity (s : State) (t : TileNo) (st : Stream) (g : Strm → Strm) : (s.modStrmOf t st g).identity = s.identity := rfl
@[simp] theorem State.modStrmOf_irqs (s : State) (t : TileNo) (st : Stream) (g : Strm → Strm) : (s.modStrmOf t st g).irqs = s.irqs := rfl
@[simp] theorem State.modStrmOf_msix (s : State) (t : TileNo) (st : Stream) (g : Strm → Strm) : (s.modStrmOf t st g).msix = s.msix := rfl
@[simp] theorem State.modStrmOf_msixPend (s : State) (t : TileNo) (st : Stream) (g : Strm → Strm) : (s.modStrmOf t st g).msixPend = s.msixPend := rfl
@[simp] theorem State.modStrmOf_bgStatus (s : State) (t : TileNo) (st : Stream) (g : Strm → Strm) : (s.modStrmOf t st g).bgStatus = s.bgStatus := rfl
@[simp] theorem State.modStrmOf_hostData (s : State) (t : TileNo) (st : Stream) (g : Strm → Strm) : (s.modStrmOf t st g).hostData = s.hostData := rfl
@[simp] theorem State.modStrmOf_reports (s : State) (t : TileNo) (st : Stream) (g : Strm → Strm) : (s.modStrmOf t st g).reports = s.reports := rfl
@[simp] theorem State.modStrmOf_mbox (s : State) (t : TileNo) (st : Stream) (g : Strm → Strm) : (s.modStrmOf t st g).mbox = s.mbox := rfl
@[simp] theorem State.modStrmOf_mboxBusy (s : State) (t : TileNo) (st : Stream) (g : Strm → Strm) : (s.modStrmOf t st g).mboxBusy = s.mboxBusy := rfl
@[simp] theorem State.modStrmOf_powerLimit (s : State) (t : TileNo) (st : Stream) (g : Strm → Strm) : (s.modStrmOf t st g).powerLimit = s.powerLimit := rfl
@[simp] theorem State.modStrmOf_mhz (s : State) (t : TileNo) (st : Stream) (g : Strm → Strm) : (s.modStrmOf t st g).mhz = s.mhz := rfl
@[simp] theorem State.modStrmOf_thermal (s : State) (t : TileNo) (st : Stream) (g : Strm → Strm) : (s.modStrmOf t st g).thermal = s.thermal := rfl

@[simp] theorem State.modMe_ct (s : State) (g : Tile → Tile) : (s.modMe g).ct = s.ct := rfl
@[simp] theorem State.modMe_cs (s : State) (g : Tile → Tile) : (s.modMe g).cs = s.cs := rfl
@[simp] theorem State.modMe_ev (s : State) (g : Tile → Tile) : (s.modMe g).ev = s.ev := rfl
@[simp] theorem State.modMe_agenda (s : State) (g : Tile → Tile) : (s.modMe g).agenda = s.agenda := rfl
@[simp] theorem State.modMe_slots (s : State) (g : Tile → Tile) : (s.modMe g).slots = s.slots := rfl
@[simp] theorem State.modMe_late (s : State) (g : Tile → Tile) : (s.modMe g).late = s.late := rfl
@[simp] theorem State.modMe_lateQ (s : State) (g : Tile → Tile) : (s.modMe g).lateQ = s.lateQ := rfl
@[simp] theorem State.modMe_queueQ (s : State) (g : Tile → Tile) : (s.modMe g).queueQ = s.queueQ := rfl
@[simp] theorem State.modMe_steals (s : State) (g : Tile → Tile) : (s.modMe g).steals = s.steals := rfl
@[simp] theorem State.modMe_timers (s : State) (g : Tile → Tile) : (s.modMe g).timers = s.timers := rfl
@[simp] theorem State.modMe_waiters (s : State) (g : Tile → Tile) : (s.modMe g).waiters = s.waiters := rfl
@[simp] theorem State.modMe_clock (s : State) (g : Tile → Tile) : (s.modMe g).clock = s.clock := rfl
@[simp] theorem State.modMe_fabric (s : State) (g : Tile → Tile) : (s.modMe g).fabric = s.fabric := rfl
@[simp] theorem State.modMe_fabFrac (s : State) (g : Tile → Tile) : (s.modMe g).fabFrac = s.fabFrac := rfl
@[simp] theorem State.modMe_fresh (s : State) (g : Tile → Tile) : (s.modMe g).fresh = s.fresh := rfl
@[simp] theorem State.modMe_nextId (s : State) (g : Tile → Tile) : (s.modMe g).nextId = s.nextId := rfl
@[simp] theorem State.modMe_mem (s : State) (g : Tile → Tile) : (s.modMe g).mem = s.mem := rfl
@[simp] theorem State.modMe_ecc (s : State) (g : Tile → Tile) : (s.modMe g).ecc = s.ecc := rfl
@[simp] theorem State.modMe_bankUse (s : State) (g : Tile → Tile) : (s.modMe g).bankUse = s.bankUse := rfl
@[simp] theorem State.modMe_bankWon (s : State) (g : Tile → Tile) : (s.modMe g).bankWon = s.bankWon := rfl
@[simp] theorem State.modMe_routers (s : State) (g : Tile → Tile) : (s.modMe g).routers = s.routers := rfl
@[simp] theorem State.modMe_tags (s : State) (g : Tile → Tile) : (s.modMe g).tags = s.tags := rfl
@[simp] theorem State.modMe_buses (s : State) (g : Tile → Tile) : (s.modMe g).buses = s.buses := rfl
@[simp] theorem State.modMe_msgs (s : State) (g : Tile → Tile) : (s.modMe g).msgs = s.msgs := rfl
@[simp] theorem State.modMe_launches (s : State) (g : Tile → Tile) : (s.modMe g).launches = s.launches := rfl
@[simp] theorem State.modMe_nextLaunch (s : State) (g : Tile → Tile) : (s.modMe g).nextLaunch = s.nextLaunch := rfl
@[simp] theorem State.modMe_graphs (s : State) (g : Tile → Tile) : (s.modMe g).graphs = s.graphs := rfl
@[simp] theorem State.modMe_phases (s : State) (g : Tile → Tile) : (s.modMe g).phases = s.phases := rfl
@[simp] theorem State.modMe_jobs (s : State) (g : Tile → Tile) : (s.modMe g).jobs = s.jobs := rfl
@[simp] theorem State.modMe_nextLevel (s : State) (g : Tile → Tile) : (s.modMe g).nextLevel = s.nextLevel := rfl
@[simp] theorem State.modMe_hostQs (s : State) (g : Tile → Tile) : (s.modMe g).hostQs = s.hostQs := rfl
@[simp] theorem State.modMe_kickmap (s : State) (g : Tile → Tile) : (s.modMe g).kickmap = s.kickmap := rfl
@[simp] theorem State.modMe_poolFree (s : State) (g : Tile → Tile) : (s.modMe g).poolFree = s.poolFree := rfl
@[simp] theorem State.modMe_admitCtr (s : State) (g : Tile → Tile) : (s.modMe g).admitCtr = s.admitCtr := rfl
@[simp] theorem State.modMe_saved (s : State) (g : Tile → Tile) : (s.modMe g).saved = s.saved := rfl
@[simp] theorem State.modMe_takeovers (s : State) (g : Tile → Tile) : (s.modMe g).takeovers = s.takeovers := rfl
@[simp] theorem State.modMe_gate (s : State) (g : Tile → Tile) : (s.modMe g).gate = s.gate := rfl
@[simp] theorem State.modMe_active (s : State) (g : Tile → Tile) : (s.modMe g).active = s.active := rfl
@[simp] theorem State.modMe_standby (s : State) (g : Tile → Tile) : (s.modMe g).standby = s.standby := rfl
@[simp] theorem State.modMe_halted0 (s : State) (g : Tile → Tile) : (s.modMe g).halted0 = s.halted0 := rfl
@[simp] theorem State.modMe_halted1 (s : State) (g : Tile → Tile) : (s.modMe g).halted1 = s.halted1 := rfl
@[simp] theorem State.modMe_heldWords (s : State) (g : Tile → Tile) : (s.modMe g).heldWords = s.heldWords := rfl
@[simp] theorem State.modMe_journal (s : State) (g : Tile → Tile) : (s.modMe g).journal = s.journal := rfl
@[simp] theorem State.modMe_checkpoint (s : State) (g : Tile → Tile) : (s.modMe g).checkpoint = s.checkpoint := rfl
@[simp] theorem State.modMe_tables (s : State) (g : Tile → Tile) : (s.modMe g).tables = s.tables := rfl
@[simp] theorem State.modMe_coreMem0 (s : State) (g : Tile → Tile) : (s.modMe g).coreMem0 = s.coreMem0 := rfl
@[simp] theorem State.modMe_coreMem1 (s : State) (g : Tile → Tile) : (s.modMe g).coreMem1 = s.coreMem1 := rfl
@[simp] theorem State.modMe_coreBad (s : State) (g : Tile → Tile) : (s.modMe g).coreBad = s.coreBad := rfl
@[simp] theorem State.modMe_parts (s : State) (g : Tile → Tile) : (s.modMe g).parts = s.parts := rfl
@[simp] theorem State.modMe_ctxs (s : State) (g : Tile → Tile) : (s.modMe g).ctxs = s.ctxs := rfl
@[simp] theorem State.modMe_hubTlbs (s : State) (g : Tile → Tile) : (s.modMe g).hubTlbs = s.hubTlbs := rfl
@[simp] theorem State.modMe_invals (s : State) (g : Tile → Tile) : (s.modMe g).invals = s.invals := rfl
@[simp] theorem State.modMe_bias (s : State) (g : Tile → Tile) : (s.modMe g).bias = s.bias := rfl
@[simp] theorem State.modMe_ttimeout (s : State) (g : Tile → Tile) : (s.modMe g).ttimeout = s.ttimeout := rfl
@[simp] theorem State.modMe_txTags (s : State) (g : Tile → Tile) : (s.modMe g).txTags = s.txTags := rfl
@[simp] theorem State.modMe_keys (s : State) (g : Tile → Tile) : (s.modMe g).keys = s.keys := rfl
@[simp] theorem State.modMe_routes (s : State) (g : Tile → Tile) : (s.modMe g).routes = s.routes := rfl
@[simp] theorem State.modMe_flitRetries (s : State) (g : Tile → Tile) : (s.modMe g).flitRetries = s.flitRetries := rfl
@[simp] theorem State.modMe_outReplies (s : State) (g : Tile → Tile) : (s.modMe g).outReplies = s.outReplies := rfl
@[simp] theorem State.modMe_portLanes (s : State) (g : Tile → Tile) : (s.modMe g).portLanes = s.portLanes := rfl
@[simp] theorem State.modMe_fenced (s : State) (g : Tile → Tile) : (s.modMe g).fenced = s.fenced := rfl
@[simp] theorem State.modMe_pchFenced (s : State) (g : Tile → Tile) : (s.modMe g).pchFenced = s.pchFenced := rfl
@[simp] theorem State.modMe_fuses (s : State) (g : Tile → Tile) : (s.modMe g).fuses = s.fuses := rfl
@[simp] theorem State.modMe_inReset (s : State) (g : Tile → Tile) : (s.modMe g).inReset = s.inReset := rfl
@[simp] theorem State.modMe_recovery (s : State) (g : Tile → Tile) : (s.modMe g).recovery = s.recovery := rfl
@[simp] theorem State.modMe_ide (s : State) (g : Tile → Tile) : (s.modMe g).ide = s.ide := rfl
@[simp] theorem State.modMe_measure (s : State) (g : Tile → Tile) : (s.modMe g).measure = s.measure := rfl
@[simp] theorem State.modMe_slotUsed (s : State) (g : Tile → Tile) : (s.modMe g).slotUsed = s.slotUsed := rfl
@[simp] theorem State.modMe_session (s : State) (g : Tile → Tile) : (s.modMe g).session = s.session := rfl
@[simp] theorem State.modMe_spdmOut (s : State) (g : Tile → Tile) : (s.modMe g).spdmOut = s.spdmOut := rfl
@[simp] theorem State.modMe_identity (s : State) (g : Tile → Tile) : (s.modMe g).identity = s.identity := rfl
@[simp] theorem State.modMe_irqs (s : State) (g : Tile → Tile) : (s.modMe g).irqs = s.irqs := rfl
@[simp] theorem State.modMe_msix (s : State) (g : Tile → Tile) : (s.modMe g).msix = s.msix := rfl
@[simp] theorem State.modMe_msixPend (s : State) (g : Tile → Tile) : (s.modMe g).msixPend = s.msixPend := rfl
@[simp] theorem State.modMe_bgStatus (s : State) (g : Tile → Tile) : (s.modMe g).bgStatus = s.bgStatus := rfl
@[simp] theorem State.modMe_hostData (s : State) (g : Tile → Tile) : (s.modMe g).hostData = s.hostData := rfl
@[simp] theorem State.modMe_reports (s : State) (g : Tile → Tile) : (s.modMe g).reports = s.reports := rfl
@[simp] theorem State.modMe_mbox (s : State) (g : Tile → Tile) : (s.modMe g).mbox = s.mbox := rfl
@[simp] theorem State.modMe_mboxBusy (s : State) (g : Tile → Tile) : (s.modMe g).mboxBusy = s.mboxBusy := rfl
@[simp] theorem State.modMe_powerLimit (s : State) (g : Tile → Tile) : (s.modMe g).powerLimit = s.powerLimit := rfl
@[simp] theorem State.modMe_mhz (s : State) (g : Tile → Tile) : (s.modMe g).mhz = s.mhz := rfl
@[simp] theorem State.modMe_thermal (s : State) (g : Tile → Tile) : (s.modMe g).thermal = s.thermal := rfl

@[simp] theorem State.modCur_ct (s : State) (g : Strm → Strm) : (s.modCur g).ct = s.ct := rfl
@[simp] theorem State.modCur_cs (s : State) (g : Strm → Strm) : (s.modCur g).cs = s.cs := rfl
@[simp] theorem State.modCur_ev (s : State) (g : Strm → Strm) : (s.modCur g).ev = s.ev := rfl
@[simp] theorem State.modCur_agenda (s : State) (g : Strm → Strm) : (s.modCur g).agenda = s.agenda := rfl
@[simp] theorem State.modCur_slots (s : State) (g : Strm → Strm) : (s.modCur g).slots = s.slots := rfl
@[simp] theorem State.modCur_late (s : State) (g : Strm → Strm) : (s.modCur g).late = s.late := rfl
@[simp] theorem State.modCur_lateQ (s : State) (g : Strm → Strm) : (s.modCur g).lateQ = s.lateQ := rfl
@[simp] theorem State.modCur_queueQ (s : State) (g : Strm → Strm) : (s.modCur g).queueQ = s.queueQ := rfl
@[simp] theorem State.modCur_steals (s : State) (g : Strm → Strm) : (s.modCur g).steals = s.steals := rfl
@[simp] theorem State.modCur_timers (s : State) (g : Strm → Strm) : (s.modCur g).timers = s.timers := rfl
@[simp] theorem State.modCur_waiters (s : State) (g : Strm → Strm) : (s.modCur g).waiters = s.waiters := rfl
@[simp] theorem State.modCur_clock (s : State) (g : Strm → Strm) : (s.modCur g).clock = s.clock := rfl
@[simp] theorem State.modCur_fabric (s : State) (g : Strm → Strm) : (s.modCur g).fabric = s.fabric := rfl
@[simp] theorem State.modCur_fabFrac (s : State) (g : Strm → Strm) : (s.modCur g).fabFrac = s.fabFrac := rfl
@[simp] theorem State.modCur_fresh (s : State) (g : Strm → Strm) : (s.modCur g).fresh = s.fresh := rfl
@[simp] theorem State.modCur_nextId (s : State) (g : Strm → Strm) : (s.modCur g).nextId = s.nextId := rfl
@[simp] theorem State.modCur_mem (s : State) (g : Strm → Strm) : (s.modCur g).mem = s.mem := rfl
@[simp] theorem State.modCur_ecc (s : State) (g : Strm → Strm) : (s.modCur g).ecc = s.ecc := rfl
@[simp] theorem State.modCur_bankUse (s : State) (g : Strm → Strm) : (s.modCur g).bankUse = s.bankUse := rfl
@[simp] theorem State.modCur_bankWon (s : State) (g : Strm → Strm) : (s.modCur g).bankWon = s.bankWon := rfl
@[simp] theorem State.modCur_routers (s : State) (g : Strm → Strm) : (s.modCur g).routers = s.routers := rfl
@[simp] theorem State.modCur_tags (s : State) (g : Strm → Strm) : (s.modCur g).tags = s.tags := rfl
@[simp] theorem State.modCur_buses (s : State) (g : Strm → Strm) : (s.modCur g).buses = s.buses := rfl
@[simp] theorem State.modCur_msgs (s : State) (g : Strm → Strm) : (s.modCur g).msgs = s.msgs := rfl
@[simp] theorem State.modCur_launches (s : State) (g : Strm → Strm) : (s.modCur g).launches = s.launches := rfl
@[simp] theorem State.modCur_nextLaunch (s : State) (g : Strm → Strm) : (s.modCur g).nextLaunch = s.nextLaunch := rfl
@[simp] theorem State.modCur_graphs (s : State) (g : Strm → Strm) : (s.modCur g).graphs = s.graphs := rfl
@[simp] theorem State.modCur_phases (s : State) (g : Strm → Strm) : (s.modCur g).phases = s.phases := rfl
@[simp] theorem State.modCur_jobs (s : State) (g : Strm → Strm) : (s.modCur g).jobs = s.jobs := rfl
@[simp] theorem State.modCur_nextLevel (s : State) (g : Strm → Strm) : (s.modCur g).nextLevel = s.nextLevel := rfl
@[simp] theorem State.modCur_hostQs (s : State) (g : Strm → Strm) : (s.modCur g).hostQs = s.hostQs := rfl
@[simp] theorem State.modCur_kickmap (s : State) (g : Strm → Strm) : (s.modCur g).kickmap = s.kickmap := rfl
@[simp] theorem State.modCur_poolFree (s : State) (g : Strm → Strm) : (s.modCur g).poolFree = s.poolFree := rfl
@[simp] theorem State.modCur_admitCtr (s : State) (g : Strm → Strm) : (s.modCur g).admitCtr = s.admitCtr := rfl
@[simp] theorem State.modCur_saved (s : State) (g : Strm → Strm) : (s.modCur g).saved = s.saved := rfl
@[simp] theorem State.modCur_takeovers (s : State) (g : Strm → Strm) : (s.modCur g).takeovers = s.takeovers := rfl
@[simp] theorem State.modCur_gate (s : State) (g : Strm → Strm) : (s.modCur g).gate = s.gate := rfl
@[simp] theorem State.modCur_active (s : State) (g : Strm → Strm) : (s.modCur g).active = s.active := rfl
@[simp] theorem State.modCur_standby (s : State) (g : Strm → Strm) : (s.modCur g).standby = s.standby := rfl
@[simp] theorem State.modCur_halted0 (s : State) (g : Strm → Strm) : (s.modCur g).halted0 = s.halted0 := rfl
@[simp] theorem State.modCur_halted1 (s : State) (g : Strm → Strm) : (s.modCur g).halted1 = s.halted1 := rfl
@[simp] theorem State.modCur_heldWords (s : State) (g : Strm → Strm) : (s.modCur g).heldWords = s.heldWords := rfl
@[simp] theorem State.modCur_journal (s : State) (g : Strm → Strm) : (s.modCur g).journal = s.journal := rfl
@[simp] theorem State.modCur_checkpoint (s : State) (g : Strm → Strm) : (s.modCur g).checkpoint = s.checkpoint := rfl
@[simp] theorem State.modCur_tables (s : State) (g : Strm → Strm) : (s.modCur g).tables = s.tables := rfl
@[simp] theorem State.modCur_coreMem0 (s : State) (g : Strm → Strm) : (s.modCur g).coreMem0 = s.coreMem0 := rfl
@[simp] theorem State.modCur_coreMem1 (s : State) (g : Strm → Strm) : (s.modCur g).coreMem1 = s.coreMem1 := rfl
@[simp] theorem State.modCur_coreBad (s : State) (g : Strm → Strm) : (s.modCur g).coreBad = s.coreBad := rfl
@[simp] theorem State.modCur_parts (s : State) (g : Strm → Strm) : (s.modCur g).parts = s.parts := rfl
@[simp] theorem State.modCur_ctxs (s : State) (g : Strm → Strm) : (s.modCur g).ctxs = s.ctxs := rfl
@[simp] theorem State.modCur_hubTlbs (s : State) (g : Strm → Strm) : (s.modCur g).hubTlbs = s.hubTlbs := rfl
@[simp] theorem State.modCur_invals (s : State) (g : Strm → Strm) : (s.modCur g).invals = s.invals := rfl
@[simp] theorem State.modCur_bias (s : State) (g : Strm → Strm) : (s.modCur g).bias = s.bias := rfl
@[simp] theorem State.modCur_ttimeout (s : State) (g : Strm → Strm) : (s.modCur g).ttimeout = s.ttimeout := rfl
@[simp] theorem State.modCur_txTags (s : State) (g : Strm → Strm) : (s.modCur g).txTags = s.txTags := rfl
@[simp] theorem State.modCur_keys (s : State) (g : Strm → Strm) : (s.modCur g).keys = s.keys := rfl
@[simp] theorem State.modCur_routes (s : State) (g : Strm → Strm) : (s.modCur g).routes = s.routes := rfl
@[simp] theorem State.modCur_flitRetries (s : State) (g : Strm → Strm) : (s.modCur g).flitRetries = s.flitRetries := rfl
@[simp] theorem State.modCur_outReplies (s : State) (g : Strm → Strm) : (s.modCur g).outReplies = s.outReplies := rfl
@[simp] theorem State.modCur_portLanes (s : State) (g : Strm → Strm) : (s.modCur g).portLanes = s.portLanes := rfl
@[simp] theorem State.modCur_fenced (s : State) (g : Strm → Strm) : (s.modCur g).fenced = s.fenced := rfl
@[simp] theorem State.modCur_pchFenced (s : State) (g : Strm → Strm) : (s.modCur g).pchFenced = s.pchFenced := rfl
@[simp] theorem State.modCur_fuses (s : State) (g : Strm → Strm) : (s.modCur g).fuses = s.fuses := rfl
@[simp] theorem State.modCur_inReset (s : State) (g : Strm → Strm) : (s.modCur g).inReset = s.inReset := rfl
@[simp] theorem State.modCur_recovery (s : State) (g : Strm → Strm) : (s.modCur g).recovery = s.recovery := rfl
@[simp] theorem State.modCur_ide (s : State) (g : Strm → Strm) : (s.modCur g).ide = s.ide := rfl
@[simp] theorem State.modCur_measure (s : State) (g : Strm → Strm) : (s.modCur g).measure = s.measure := rfl
@[simp] theorem State.modCur_slotUsed (s : State) (g : Strm → Strm) : (s.modCur g).slotUsed = s.slotUsed := rfl
@[simp] theorem State.modCur_session (s : State) (g : Strm → Strm) : (s.modCur g).session = s.session := rfl
@[simp] theorem State.modCur_spdmOut (s : State) (g : Strm → Strm) : (s.modCur g).spdmOut = s.spdmOut := rfl
@[simp] theorem State.modCur_identity (s : State) (g : Strm → Strm) : (s.modCur g).identity = s.identity := rfl
@[simp] theorem State.modCur_irqs (s : State) (g : Strm → Strm) : (s.modCur g).irqs = s.irqs := rfl
@[simp] theorem State.modCur_msix (s : State) (g : Strm → Strm) : (s.modCur g).msix = s.msix := rfl
@[simp] theorem State.modCur_msixPend (s : State) (g : Strm → Strm) : (s.modCur g).msixPend = s.msixPend := rfl
@[simp] theorem State.modCur_bgStatus (s : State) (g : Strm → Strm) : (s.modCur g).bgStatus = s.bgStatus := rfl
@[simp] theorem State.modCur_hostData (s : State) (g : Strm → Strm) : (s.modCur g).hostData = s.hostData := rfl
@[simp] theorem State.modCur_reports (s : State) (g : Strm → Strm) : (s.modCur g).reports = s.reports := rfl
@[simp] theorem State.modCur_mbox (s : State) (g : Strm → Strm) : (s.modCur g).mbox = s.mbox := rfl
@[simp] theorem State.modCur_mboxBusy (s : State) (g : Strm → Strm) : (s.modCur g).mboxBusy = s.mboxBusy := rfl
@[simp] theorem State.modCur_powerLimit (s : State) (g : Strm → Strm) : (s.modCur g).powerLimit = s.powerLimit := rfl
@[simp] theorem State.modCur_mhz (s : State) (g : Strm → Strm) : (s.modCur g).mhz = s.mhz := rfl
@[simp] theorem State.modCur_thermal (s : State) (g : Strm → Strm) : (s.modCur g).thermal = s.thermal := rfl

@[simp] theorem State.modPart_ct (s : State) (p : Nat) (g : Part → Part) : (s.modPart p g).ct = s.ct := rfl
@[simp] theorem State.modPart_cs (s : State) (p : Nat) (g : Part → Part) : (s.modPart p g).cs = s.cs := rfl
@[simp] theorem State.modPart_ev (s : State) (p : Nat) (g : Part → Part) : (s.modPart p g).ev = s.ev := rfl
@[simp] theorem State.modPart_agenda (s : State) (p : Nat) (g : Part → Part) : (s.modPart p g).agenda = s.agenda := rfl
@[simp] theorem State.modPart_slots (s : State) (p : Nat) (g : Part → Part) : (s.modPart p g).slots = s.slots := rfl
@[simp] theorem State.modPart_late (s : State) (p : Nat) (g : Part → Part) : (s.modPart p g).late = s.late := rfl
@[simp] theorem State.modPart_lateQ (s : State) (p : Nat) (g : Part → Part) : (s.modPart p g).lateQ = s.lateQ := rfl
@[simp] theorem State.modPart_queueQ (s : State) (p : Nat) (g : Part → Part) : (s.modPart p g).queueQ = s.queueQ := rfl
@[simp] theorem State.modPart_steals (s : State) (p : Nat) (g : Part → Part) : (s.modPart p g).steals = s.steals := rfl
@[simp] theorem State.modPart_timers (s : State) (p : Nat) (g : Part → Part) : (s.modPart p g).timers = s.timers := rfl
@[simp] theorem State.modPart_waiters (s : State) (p : Nat) (g : Part → Part) : (s.modPart p g).waiters = s.waiters := rfl
@[simp] theorem State.modPart_clock (s : State) (p : Nat) (g : Part → Part) : (s.modPart p g).clock = s.clock := rfl
@[simp] theorem State.modPart_fabric (s : State) (p : Nat) (g : Part → Part) : (s.modPart p g).fabric = s.fabric := rfl
@[simp] theorem State.modPart_fabFrac (s : State) (p : Nat) (g : Part → Part) : (s.modPart p g).fabFrac = s.fabFrac := rfl
@[simp] theorem State.modPart_fresh (s : State) (p : Nat) (g : Part → Part) : (s.modPart p g).fresh = s.fresh := rfl
@[simp] theorem State.modPart_nextId (s : State) (p : Nat) (g : Part → Part) : (s.modPart p g).nextId = s.nextId := rfl
@[simp] theorem State.modPart_mem (s : State) (p : Nat) (g : Part → Part) : (s.modPart p g).mem = s.mem := rfl
@[simp] theorem State.modPart_ecc (s : State) (p : Nat) (g : Part → Part) : (s.modPart p g).ecc = s.ecc := rfl
@[simp] theorem State.modPart_bankUse (s : State) (p : Nat) (g : Part → Part) : (s.modPart p g).bankUse = s.bankUse := rfl
@[simp] theorem State.modPart_bankWon (s : State) (p : Nat) (g : Part → Part) : (s.modPart p g).bankWon = s.bankWon := rfl
@[simp] theorem State.modPart_tiles (s : State) (p : Nat) (g : Part → Part) : (s.modPart p g).tiles = s.tiles := rfl
@[simp] theorem State.modPart_routers (s : State) (p : Nat) (g : Part → Part) : (s.modPart p g).routers = s.routers := rfl
@[simp] theorem State.modPart_tags (s : State) (p : Nat) (g : Part → Part) : (s.modPart p g).tags = s.tags := rfl
@[simp] theorem State.modPart_buses (s : State) (p : Nat) (g : Part → Part) : (s.modPart p g).buses = s.buses := rfl
@[simp] theorem State.modPart_msgs (s : State) (p : Nat) (g : Part → Part) : (s.modPart p g).msgs = s.msgs := rfl
@[simp] theorem State.modPart_launches (s : State) (p : Nat) (g : Part → Part) : (s.modPart p g).launches = s.launches := rfl
@[simp] theorem State.modPart_nextLaunch (s : State) (p : Nat) (g : Part → Part) : (s.modPart p g).nextLaunch = s.nextLaunch := rfl
@[simp] theorem State.modPart_graphs (s : State) (p : Nat) (g : Part → Part) : (s.modPart p g).graphs = s.graphs := rfl
@[simp] theorem State.modPart_phases (s : State) (p : Nat) (g : Part → Part) : (s.modPart p g).phases = s.phases := rfl
@[simp] theorem State.modPart_jobs (s : State) (p : Nat) (g : Part → Part) : (s.modPart p g).jobs = s.jobs := rfl
@[simp] theorem State.modPart_nextLevel (s : State) (p : Nat) (g : Part → Part) : (s.modPart p g).nextLevel = s.nextLevel := rfl
@[simp] theorem State.modPart_hostQs (s : State) (p : Nat) (g : Part → Part) : (s.modPart p g).hostQs = s.hostQs := rfl
@[simp] theorem State.modPart_kickmap (s : State) (p : Nat) (g : Part → Part) : (s.modPart p g).kickmap = s.kickmap := rfl
@[simp] theorem State.modPart_poolFree (s : State) (p : Nat) (g : Part → Part) : (s.modPart p g).poolFree = s.poolFree := rfl
@[simp] theorem State.modPart_admitCtr (s : State) (p : Nat) (g : Part → Part) : (s.modPart p g).admitCtr = s.admitCtr := rfl
@[simp] theorem State.modPart_saved (s : State) (p : Nat) (g : Part → Part) : (s.modPart p g).saved = s.saved := rfl
@[simp] theorem State.modPart_takeovers (s : State) (p : Nat) (g : Part → Part) : (s.modPart p g).takeovers = s.takeovers := rfl
@[simp] theorem State.modPart_gate (s : State) (p : Nat) (g : Part → Part) : (s.modPart p g).gate = s.gate := rfl
@[simp] theorem State.modPart_active (s : State) (p : Nat) (g : Part → Part) : (s.modPart p g).active = s.active := rfl
@[simp] theorem State.modPart_standby (s : State) (p : Nat) (g : Part → Part) : (s.modPart p g).standby = s.standby := rfl
@[simp] theorem State.modPart_halted0 (s : State) (p : Nat) (g : Part → Part) : (s.modPart p g).halted0 = s.halted0 := rfl
@[simp] theorem State.modPart_halted1 (s : State) (p : Nat) (g : Part → Part) : (s.modPart p g).halted1 = s.halted1 := rfl
@[simp] theorem State.modPart_heldWords (s : State) (p : Nat) (g : Part → Part) : (s.modPart p g).heldWords = s.heldWords := rfl
@[simp] theorem State.modPart_journal (s : State) (p : Nat) (g : Part → Part) : (s.modPart p g).journal = s.journal := rfl
@[simp] theorem State.modPart_checkpoint (s : State) (p : Nat) (g : Part → Part) : (s.modPart p g).checkpoint = s.checkpoint := rfl
@[simp] theorem State.modPart_tables (s : State) (p : Nat) (g : Part → Part) : (s.modPart p g).tables = s.tables := rfl
@[simp] theorem State.modPart_coreMem0 (s : State) (p : Nat) (g : Part → Part) : (s.modPart p g).coreMem0 = s.coreMem0 := rfl
@[simp] theorem State.modPart_coreMem1 (s : State) (p : Nat) (g : Part → Part) : (s.modPart p g).coreMem1 = s.coreMem1 := rfl
@[simp] theorem State.modPart_coreBad (s : State) (p : Nat) (g : Part → Part) : (s.modPart p g).coreBad = s.coreBad := rfl
@[simp] theorem State.modPart_ctxs (s : State) (p : Nat) (g : Part → Part) : (s.modPart p g).ctxs = s.ctxs := rfl
@[simp] theorem State.modPart_hubTlbs (s : State) (p : Nat) (g : Part → Part) : (s.modPart p g).hubTlbs = s.hubTlbs := rfl
@[simp] theorem State.modPart_invals (s : State) (p : Nat) (g : Part → Part) : (s.modPart p g).invals = s.invals := rfl
@[simp] theorem State.modPart_bias (s : State) (p : Nat) (g : Part → Part) : (s.modPart p g).bias = s.bias := rfl
@[simp] theorem State.modPart_ttimeout (s : State) (p : Nat) (g : Part → Part) : (s.modPart p g).ttimeout = s.ttimeout := rfl
@[simp] theorem State.modPart_txTags (s : State) (p : Nat) (g : Part → Part) : (s.modPart p g).txTags = s.txTags := rfl
@[simp] theorem State.modPart_keys (s : State) (p : Nat) (g : Part → Part) : (s.modPart p g).keys = s.keys := rfl
@[simp] theorem State.modPart_routes (s : State) (p : Nat) (g : Part → Part) : (s.modPart p g).routes = s.routes := rfl
@[simp] theorem State.modPart_flitRetries (s : State) (p : Nat) (g : Part → Part) : (s.modPart p g).flitRetries = s.flitRetries := rfl
@[simp] theorem State.modPart_outReplies (s : State) (p : Nat) (g : Part → Part) : (s.modPart p g).outReplies = s.outReplies := rfl
@[simp] theorem State.modPart_portLanes (s : State) (p : Nat) (g : Part → Part) : (s.modPart p g).portLanes = s.portLanes := rfl
@[simp] theorem State.modPart_fenced (s : State) (p : Nat) (g : Part → Part) : (s.modPart p g).fenced = s.fenced := rfl
@[simp] theorem State.modPart_pchFenced (s : State) (p : Nat) (g : Part → Part) : (s.modPart p g).pchFenced = s.pchFenced := rfl
@[simp] theorem State.modPart_fuses (s : State) (p : Nat) (g : Part → Part) : (s.modPart p g).fuses = s.fuses := rfl
@[simp] theorem State.modPart_inReset (s : State) (p : Nat) (g : Part → Part) : (s.modPart p g).inReset = s.inReset := rfl
@[simp] theorem State.modPart_recovery (s : State) (p : Nat) (g : Part → Part) : (s.modPart p g).recovery = s.recovery := rfl
@[simp] theorem State.modPart_ide (s : State) (p : Nat) (g : Part → Part) : (s.modPart p g).ide = s.ide := rfl
@[simp] theorem State.modPart_measure (s : State) (p : Nat) (g : Part → Part) : (s.modPart p g).measure = s.measure := rfl
@[simp] theorem State.modPart_slotUsed (s : State) (p : Nat) (g : Part → Part) : (s.modPart p g).slotUsed = s.slotUsed := rfl
@[simp] theorem State.modPart_session (s : State) (p : Nat) (g : Part → Part) : (s.modPart p g).session = s.session := rfl
@[simp] theorem State.modPart_spdmOut (s : State) (p : Nat) (g : Part → Part) : (s.modPart p g).spdmOut = s.spdmOut := rfl
@[simp] theorem State.modPart_identity (s : State) (p : Nat) (g : Part → Part) : (s.modPart p g).identity = s.identity := rfl
@[simp] theorem State.modPart_irqs (s : State) (p : Nat) (g : Part → Part) : (s.modPart p g).irqs = s.irqs := rfl
@[simp] theorem State.modPart_msix (s : State) (p : Nat) (g : Part → Part) : (s.modPart p g).msix = s.msix := rfl
@[simp] theorem State.modPart_msixPend (s : State) (p : Nat) (g : Part → Part) : (s.modPart p g).msixPend = s.msixPend := rfl
@[simp] theorem State.modPart_bgStatus (s : State) (p : Nat) (g : Part → Part) : (s.modPart p g).bgStatus = s.bgStatus := rfl
@[simp] theorem State.modPart_hostData (s : State) (p : Nat) (g : Part → Part) : (s.modPart p g).hostData = s.hostData := rfl
@[simp] theorem State.modPart_reports (s : State) (p : Nat) (g : Part → Part) : (s.modPart p g).reports = s.reports := rfl
@[simp] theorem State.modPart_mbox (s : State) (p : Nat) (g : Part → Part) : (s.modPart p g).mbox = s.mbox := rfl
@[simp] theorem State.modPart_mboxBusy (s : State) (p : Nat) (g : Part → Part) : (s.modPart p g).mboxBusy = s.mboxBusy := rfl
@[simp] theorem State.modPart_powerLimit (s : State) (p : Nat) (g : Part → Part) : (s.modPart p g).powerLimit = s.powerLimit := rfl
@[simp] theorem State.modPart_mhz (s : State) (p : Nat) (g : Part → Part) : (s.modPart p g).mhz = s.mhz := rfl
@[simp] theorem State.modPart_thermal (s : State) (p : Nat) (g : Part → Part) : (s.modPart p g).thermal = s.thermal := rfl

@[simp] theorem State.post_ct (s : State) (a : Act) : (s.post a).ct = s.ct := rfl
@[simp] theorem State.post_cs (s : State) (a : Act) : (s.post a).cs = s.cs := rfl
@[simp] theorem State.post_ev (s : State) (a : Act) : (s.post a).ev = s.ev := rfl
@[simp] theorem State.post_slots (s : State) (a : Act) : (s.post a).slots = s.slots := rfl
@[simp] theorem State.post_late (s : State) (a : Act) : (s.post a).late = s.late := rfl
@[simp] theorem State.post_lateQ (s : State) (a : Act) : (s.post a).lateQ = s.lateQ := rfl
@[simp] theorem State.post_queueQ (s : State) (a : Act) : (s.post a).queueQ = s.queueQ := rfl
@[simp] theorem State.post_steals (s : State) (a : Act) : (s.post a).steals = s.steals := rfl
@[simp] theorem State.post_timers (s : State) (a : Act) : (s.post a).timers = s.timers := rfl
@[simp] theorem State.post_waiters (s : State) (a : Act) : (s.post a).waiters = s.waiters := rfl
@[simp] theorem State.post_clock (s : State) (a : Act) : (s.post a).clock = s.clock := rfl
@[simp] theorem State.post_fabric (s : State) (a : Act) : (s.post a).fabric = s.fabric := rfl
@[simp] theorem State.post_fabFrac (s : State) (a : Act) : (s.post a).fabFrac = s.fabFrac := rfl
@[simp] theorem State.post_fresh (s : State) (a : Act) : (s.post a).fresh = s.fresh := rfl
@[simp] theorem State.post_nextId (s : State) (a : Act) : (s.post a).nextId = s.nextId := rfl
@[simp] theorem State.post_mem (s : State) (a : Act) : (s.post a).mem = s.mem := rfl
@[simp] theorem State.post_ecc (s : State) (a : Act) : (s.post a).ecc = s.ecc := rfl
@[simp] theorem State.post_bankUse (s : State) (a : Act) : (s.post a).bankUse = s.bankUse := rfl
@[simp] theorem State.post_bankWon (s : State) (a : Act) : (s.post a).bankWon = s.bankWon := rfl
@[simp] theorem State.post_tiles (s : State) (a : Act) : (s.post a).tiles = s.tiles := rfl
@[simp] theorem State.post_routers (s : State) (a : Act) : (s.post a).routers = s.routers := rfl
@[simp] theorem State.post_tags (s : State) (a : Act) : (s.post a).tags = s.tags := rfl
@[simp] theorem State.post_buses (s : State) (a : Act) : (s.post a).buses = s.buses := rfl
@[simp] theorem State.post_msgs (s : State) (a : Act) : (s.post a).msgs = s.msgs := rfl
@[simp] theorem State.post_launches (s : State) (a : Act) : (s.post a).launches = s.launches := rfl
@[simp] theorem State.post_nextLaunch (s : State) (a : Act) : (s.post a).nextLaunch = s.nextLaunch := rfl
@[simp] theorem State.post_graphs (s : State) (a : Act) : (s.post a).graphs = s.graphs := rfl
@[simp] theorem State.post_phases (s : State) (a : Act) : (s.post a).phases = s.phases := rfl
@[simp] theorem State.post_jobs (s : State) (a : Act) : (s.post a).jobs = s.jobs := rfl
@[simp] theorem State.post_nextLevel (s : State) (a : Act) : (s.post a).nextLevel = s.nextLevel := rfl
@[simp] theorem State.post_hostQs (s : State) (a : Act) : (s.post a).hostQs = s.hostQs := rfl
@[simp] theorem State.post_kickmap (s : State) (a : Act) : (s.post a).kickmap = s.kickmap := rfl
@[simp] theorem State.post_poolFree (s : State) (a : Act) : (s.post a).poolFree = s.poolFree := rfl
@[simp] theorem State.post_admitCtr (s : State) (a : Act) : (s.post a).admitCtr = s.admitCtr := rfl
@[simp] theorem State.post_saved (s : State) (a : Act) : (s.post a).saved = s.saved := rfl
@[simp] theorem State.post_takeovers (s : State) (a : Act) : (s.post a).takeovers = s.takeovers := rfl
@[simp] theorem State.post_gate (s : State) (a : Act) : (s.post a).gate = s.gate := rfl
@[simp] theorem State.post_active (s : State) (a : Act) : (s.post a).active = s.active := rfl
@[simp] theorem State.post_standby (s : State) (a : Act) : (s.post a).standby = s.standby := rfl
@[simp] theorem State.post_halted0 (s : State) (a : Act) : (s.post a).halted0 = s.halted0 := rfl
@[simp] theorem State.post_halted1 (s : State) (a : Act) : (s.post a).halted1 = s.halted1 := rfl
@[simp] theorem State.post_heldWords (s : State) (a : Act) : (s.post a).heldWords = s.heldWords := rfl
@[simp] theorem State.post_journal (s : State) (a : Act) : (s.post a).journal = s.journal := rfl
@[simp] theorem State.post_checkpoint (s : State) (a : Act) : (s.post a).checkpoint = s.checkpoint := rfl
@[simp] theorem State.post_tables (s : State) (a : Act) : (s.post a).tables = s.tables := rfl
@[simp] theorem State.post_coreMem0 (s : State) (a : Act) : (s.post a).coreMem0 = s.coreMem0 := rfl
@[simp] theorem State.post_coreMem1 (s : State) (a : Act) : (s.post a).coreMem1 = s.coreMem1 := rfl
@[simp] theorem State.post_coreBad (s : State) (a : Act) : (s.post a).coreBad = s.coreBad := rfl
@[simp] theorem State.post_parts (s : State) (a : Act) : (s.post a).parts = s.parts := rfl
@[simp] theorem State.post_ctxs (s : State) (a : Act) : (s.post a).ctxs = s.ctxs := rfl
@[simp] theorem State.post_hubTlbs (s : State) (a : Act) : (s.post a).hubTlbs = s.hubTlbs := rfl
@[simp] theorem State.post_invals (s : State) (a : Act) : (s.post a).invals = s.invals := rfl
@[simp] theorem State.post_bias (s : State) (a : Act) : (s.post a).bias = s.bias := rfl
@[simp] theorem State.post_ttimeout (s : State) (a : Act) : (s.post a).ttimeout = s.ttimeout := rfl
@[simp] theorem State.post_txTags (s : State) (a : Act) : (s.post a).txTags = s.txTags := rfl
@[simp] theorem State.post_keys (s : State) (a : Act) : (s.post a).keys = s.keys := rfl
@[simp] theorem State.post_routes (s : State) (a : Act) : (s.post a).routes = s.routes := rfl
@[simp] theorem State.post_flitRetries (s : State) (a : Act) : (s.post a).flitRetries = s.flitRetries := rfl
@[simp] theorem State.post_outReplies (s : State) (a : Act) : (s.post a).outReplies = s.outReplies := rfl
@[simp] theorem State.post_portLanes (s : State) (a : Act) : (s.post a).portLanes = s.portLanes := rfl
@[simp] theorem State.post_fenced (s : State) (a : Act) : (s.post a).fenced = s.fenced := rfl
@[simp] theorem State.post_pchFenced (s : State) (a : Act) : (s.post a).pchFenced = s.pchFenced := rfl
@[simp] theorem State.post_fuses (s : State) (a : Act) : (s.post a).fuses = s.fuses := rfl
@[simp] theorem State.post_inReset (s : State) (a : Act) : (s.post a).inReset = s.inReset := rfl
@[simp] theorem State.post_recovery (s : State) (a : Act) : (s.post a).recovery = s.recovery := rfl
@[simp] theorem State.post_ide (s : State) (a : Act) : (s.post a).ide = s.ide := rfl
@[simp] theorem State.post_measure (s : State) (a : Act) : (s.post a).measure = s.measure := rfl
@[simp] theorem State.post_slotUsed (s : State) (a : Act) : (s.post a).slotUsed = s.slotUsed := rfl
@[simp] theorem State.post_session (s : State) (a : Act) : (s.post a).session = s.session := rfl
@[simp] theorem State.post_spdmOut (s : State) (a : Act) : (s.post a).spdmOut = s.spdmOut := rfl
@[simp] theorem State.post_identity (s : State) (a : Act) : (s.post a).identity = s.identity := rfl
@[simp] theorem State.post_irqs (s : State) (a : Act) : (s.post a).irqs = s.irqs := rfl
@[simp] theorem State.post_msix (s : State) (a : Act) : (s.post a).msix = s.msix := rfl
@[simp] theorem State.post_msixPend (s : State) (a : Act) : (s.post a).msixPend = s.msixPend := rfl
@[simp] theorem State.post_bgStatus (s : State) (a : Act) : (s.post a).bgStatus = s.bgStatus := rfl
@[simp] theorem State.post_hostData (s : State) (a : Act) : (s.post a).hostData = s.hostData := rfl
@[simp] theorem State.post_reports (s : State) (a : Act) : (s.post a).reports = s.reports := rfl
@[simp] theorem State.post_mbox (s : State) (a : Act) : (s.post a).mbox = s.mbox := rfl
@[simp] theorem State.post_mboxBusy (s : State) (a : Act) : (s.post a).mboxBusy = s.mboxBusy := rfl
@[simp] theorem State.post_powerLimit (s : State) (a : Act) : (s.post a).powerLimit = s.powerLimit := rfl
@[simp] theorem State.post_mhz (s : State) (a : Act) : (s.post a).mhz = s.mhz := rfl
@[simp] theorem State.post_thermal (s : State) (a : Act) : (s.post a).thermal = s.thermal := rfl

@[simp] theorem State.postLate_ct (s : State) (a : Act) : (s.postLate a).ct = s.ct := rfl
@[simp] theorem State.postLate_cs (s : State) (a : Act) : (s.postLate a).cs = s.cs := rfl
@[simp] theorem State.postLate_ev (s : State) (a : Act) : (s.postLate a).ev = s.ev := rfl
@[simp] theorem State.postLate_agenda (s : State) (a : Act) : (s.postLate a).agenda = s.agenda := rfl
@[simp] theorem State.postLate_slots (s : State) (a : Act) : (s.postLate a).slots = s.slots := rfl
@[simp] theorem State.postLate_late (s : State) (a : Act) : (s.postLate a).late = s.late := rfl
@[simp] theorem State.postLate_queueQ (s : State) (a : Act) : (s.postLate a).queueQ = s.queueQ := rfl
@[simp] theorem State.postLate_steals (s : State) (a : Act) : (s.postLate a).steals = s.steals := rfl
@[simp] theorem State.postLate_timers (s : State) (a : Act) : (s.postLate a).timers = s.timers := rfl
@[simp] theorem State.postLate_waiters (s : State) (a : Act) : (s.postLate a).waiters = s.waiters := rfl
@[simp] theorem State.postLate_clock (s : State) (a : Act) : (s.postLate a).clock = s.clock := rfl
@[simp] theorem State.postLate_fabric (s : State) (a : Act) : (s.postLate a).fabric = s.fabric := rfl
@[simp] theorem State.postLate_fabFrac (s : State) (a : Act) : (s.postLate a).fabFrac = s.fabFrac := rfl
@[simp] theorem State.postLate_fresh (s : State) (a : Act) : (s.postLate a).fresh = s.fresh := rfl
@[simp] theorem State.postLate_nextId (s : State) (a : Act) : (s.postLate a).nextId = s.nextId := rfl
@[simp] theorem State.postLate_mem (s : State) (a : Act) : (s.postLate a).mem = s.mem := rfl
@[simp] theorem State.postLate_ecc (s : State) (a : Act) : (s.postLate a).ecc = s.ecc := rfl
@[simp] theorem State.postLate_bankUse (s : State) (a : Act) : (s.postLate a).bankUse = s.bankUse := rfl
@[simp] theorem State.postLate_bankWon (s : State) (a : Act) : (s.postLate a).bankWon = s.bankWon := rfl
@[simp] theorem State.postLate_tiles (s : State) (a : Act) : (s.postLate a).tiles = s.tiles := rfl
@[simp] theorem State.postLate_routers (s : State) (a : Act) : (s.postLate a).routers = s.routers := rfl
@[simp] theorem State.postLate_tags (s : State) (a : Act) : (s.postLate a).tags = s.tags := rfl
@[simp] theorem State.postLate_buses (s : State) (a : Act) : (s.postLate a).buses = s.buses := rfl
@[simp] theorem State.postLate_msgs (s : State) (a : Act) : (s.postLate a).msgs = s.msgs := rfl
@[simp] theorem State.postLate_launches (s : State) (a : Act) : (s.postLate a).launches = s.launches := rfl
@[simp] theorem State.postLate_nextLaunch (s : State) (a : Act) : (s.postLate a).nextLaunch = s.nextLaunch := rfl
@[simp] theorem State.postLate_graphs (s : State) (a : Act) : (s.postLate a).graphs = s.graphs := rfl
@[simp] theorem State.postLate_phases (s : State) (a : Act) : (s.postLate a).phases = s.phases := rfl
@[simp] theorem State.postLate_jobs (s : State) (a : Act) : (s.postLate a).jobs = s.jobs := rfl
@[simp] theorem State.postLate_nextLevel (s : State) (a : Act) : (s.postLate a).nextLevel = s.nextLevel := rfl
@[simp] theorem State.postLate_hostQs (s : State) (a : Act) : (s.postLate a).hostQs = s.hostQs := rfl
@[simp] theorem State.postLate_kickmap (s : State) (a : Act) : (s.postLate a).kickmap = s.kickmap := rfl
@[simp] theorem State.postLate_poolFree (s : State) (a : Act) : (s.postLate a).poolFree = s.poolFree := rfl
@[simp] theorem State.postLate_admitCtr (s : State) (a : Act) : (s.postLate a).admitCtr = s.admitCtr := rfl
@[simp] theorem State.postLate_saved (s : State) (a : Act) : (s.postLate a).saved = s.saved := rfl
@[simp] theorem State.postLate_takeovers (s : State) (a : Act) : (s.postLate a).takeovers = s.takeovers := rfl
@[simp] theorem State.postLate_gate (s : State) (a : Act) : (s.postLate a).gate = s.gate := rfl
@[simp] theorem State.postLate_active (s : State) (a : Act) : (s.postLate a).active = s.active := rfl
@[simp] theorem State.postLate_standby (s : State) (a : Act) : (s.postLate a).standby = s.standby := rfl
@[simp] theorem State.postLate_halted0 (s : State) (a : Act) : (s.postLate a).halted0 = s.halted0 := rfl
@[simp] theorem State.postLate_halted1 (s : State) (a : Act) : (s.postLate a).halted1 = s.halted1 := rfl
@[simp] theorem State.postLate_heldWords (s : State) (a : Act) : (s.postLate a).heldWords = s.heldWords := rfl
@[simp] theorem State.postLate_journal (s : State) (a : Act) : (s.postLate a).journal = s.journal := rfl
@[simp] theorem State.postLate_checkpoint (s : State) (a : Act) : (s.postLate a).checkpoint = s.checkpoint := rfl
@[simp] theorem State.postLate_tables (s : State) (a : Act) : (s.postLate a).tables = s.tables := rfl
@[simp] theorem State.postLate_coreMem0 (s : State) (a : Act) : (s.postLate a).coreMem0 = s.coreMem0 := rfl
@[simp] theorem State.postLate_coreMem1 (s : State) (a : Act) : (s.postLate a).coreMem1 = s.coreMem1 := rfl
@[simp] theorem State.postLate_coreBad (s : State) (a : Act) : (s.postLate a).coreBad = s.coreBad := rfl
@[simp] theorem State.postLate_parts (s : State) (a : Act) : (s.postLate a).parts = s.parts := rfl
@[simp] theorem State.postLate_ctxs (s : State) (a : Act) : (s.postLate a).ctxs = s.ctxs := rfl
@[simp] theorem State.postLate_hubTlbs (s : State) (a : Act) : (s.postLate a).hubTlbs = s.hubTlbs := rfl
@[simp] theorem State.postLate_invals (s : State) (a : Act) : (s.postLate a).invals = s.invals := rfl
@[simp] theorem State.postLate_bias (s : State) (a : Act) : (s.postLate a).bias = s.bias := rfl
@[simp] theorem State.postLate_ttimeout (s : State) (a : Act) : (s.postLate a).ttimeout = s.ttimeout := rfl
@[simp] theorem State.postLate_txTags (s : State) (a : Act) : (s.postLate a).txTags = s.txTags := rfl
@[simp] theorem State.postLate_keys (s : State) (a : Act) : (s.postLate a).keys = s.keys := rfl
@[simp] theorem State.postLate_routes (s : State) (a : Act) : (s.postLate a).routes = s.routes := rfl
@[simp] theorem State.postLate_flitRetries (s : State) (a : Act) : (s.postLate a).flitRetries = s.flitRetries := rfl
@[simp] theorem State.postLate_outReplies (s : State) (a : Act) : (s.postLate a).outReplies = s.outReplies := rfl
@[simp] theorem State.postLate_portLanes (s : State) (a : Act) : (s.postLate a).portLanes = s.portLanes := rfl
@[simp] theorem State.postLate_fenced (s : State) (a : Act) : (s.postLate a).fenced = s.fenced := rfl
@[simp] theorem State.postLate_pchFenced (s : State) (a : Act) : (s.postLate a).pchFenced = s.pchFenced := rfl
@[simp] theorem State.postLate_fuses (s : State) (a : Act) : (s.postLate a).fuses = s.fuses := rfl
@[simp] theorem State.postLate_inReset (s : State) (a : Act) : (s.postLate a).inReset = s.inReset := rfl
@[simp] theorem State.postLate_recovery (s : State) (a : Act) : (s.postLate a).recovery = s.recovery := rfl
@[simp] theorem State.postLate_ide (s : State) (a : Act) : (s.postLate a).ide = s.ide := rfl
@[simp] theorem State.postLate_measure (s : State) (a : Act) : (s.postLate a).measure = s.measure := rfl
@[simp] theorem State.postLate_slotUsed (s : State) (a : Act) : (s.postLate a).slotUsed = s.slotUsed := rfl
@[simp] theorem State.postLate_session (s : State) (a : Act) : (s.postLate a).session = s.session := rfl
@[simp] theorem State.postLate_spdmOut (s : State) (a : Act) : (s.postLate a).spdmOut = s.spdmOut := rfl
@[simp] theorem State.postLate_identity (s : State) (a : Act) : (s.postLate a).identity = s.identity := rfl
@[simp] theorem State.postLate_irqs (s : State) (a : Act) : (s.postLate a).irqs = s.irqs := rfl
@[simp] theorem State.postLate_msix (s : State) (a : Act) : (s.postLate a).msix = s.msix := rfl
@[simp] theorem State.postLate_msixPend (s : State) (a : Act) : (s.postLate a).msixPend = s.msixPend := rfl
@[simp] theorem State.postLate_bgStatus (s : State) (a : Act) : (s.postLate a).bgStatus = s.bgStatus := rfl
@[simp] theorem State.postLate_hostData (s : State) (a : Act) : (s.postLate a).hostData = s.hostData := rfl
@[simp] theorem State.postLate_reports (s : State) (a : Act) : (s.postLate a).reports = s.reports := rfl
@[simp] theorem State.postLate_mbox (s : State) (a : Act) : (s.postLate a).mbox = s.mbox := rfl
@[simp] theorem State.postLate_mboxBusy (s : State) (a : Act) : (s.postLate a).mboxBusy = s.mboxBusy := rfl
@[simp] theorem State.postLate_powerLimit (s : State) (a : Act) : (s.postLate a).powerLimit = s.powerLimit := rfl
@[simp] theorem State.postLate_mhz (s : State) (a : Act) : (s.postLate a).mhz = s.mhz := rfl
@[simp] theorem State.postLate_thermal (s : State) (a : Act) : (s.postLate a).thermal = s.thermal := rfl

@[simp] theorem State.atClock_ct (s : State) (c : Nat) (a : Act) : (s.atClock c a).ct = s.ct := rfl
@[simp] theorem State.atClock_cs (s : State) (c : Nat) (a : Act) : (s.atClock c a).cs = s.cs := rfl
@[simp] theorem State.atClock_ev (s : State) (c : Nat) (a : Act) : (s.atClock c a).ev = s.ev := rfl
@[simp] theorem State.atClock_agenda (s : State) (c : Nat) (a : Act) : (s.atClock c a).agenda = s.agenda := rfl
@[simp] theorem State.atClock_slots (s : State) (c : Nat) (a : Act) : (s.atClock c a).slots = s.slots := rfl
@[simp] theorem State.atClock_late (s : State) (c : Nat) (a : Act) : (s.atClock c a).late = s.late := rfl
@[simp] theorem State.atClock_lateQ (s : State) (c : Nat) (a : Act) : (s.atClock c a).lateQ = s.lateQ := rfl
@[simp] theorem State.atClock_queueQ (s : State) (c : Nat) (a : Act) : (s.atClock c a).queueQ = s.queueQ := rfl
@[simp] theorem State.atClock_steals (s : State) (c : Nat) (a : Act) : (s.atClock c a).steals = s.steals := rfl
@[simp] theorem State.atClock_waiters (s : State) (c : Nat) (a : Act) : (s.atClock c a).waiters = s.waiters := rfl
@[simp] theorem State.atClock_clock (s : State) (c : Nat) (a : Act) : (s.atClock c a).clock = s.clock := rfl
@[simp] theorem State.atClock_fabric (s : State) (c : Nat) (a : Act) : (s.atClock c a).fabric = s.fabric := rfl
@[simp] theorem State.atClock_fabFrac (s : State) (c : Nat) (a : Act) : (s.atClock c a).fabFrac = s.fabFrac := rfl
@[simp] theorem State.atClock_fresh (s : State) (c : Nat) (a : Act) : (s.atClock c a).fresh = s.fresh := rfl
@[simp] theorem State.atClock_nextId (s : State) (c : Nat) (a : Act) : (s.atClock c a).nextId = s.nextId := rfl
@[simp] theorem State.atClock_mem (s : State) (c : Nat) (a : Act) : (s.atClock c a).mem = s.mem := rfl
@[simp] theorem State.atClock_ecc (s : State) (c : Nat) (a : Act) : (s.atClock c a).ecc = s.ecc := rfl
@[simp] theorem State.atClock_bankUse (s : State) (c : Nat) (a : Act) : (s.atClock c a).bankUse = s.bankUse := rfl
@[simp] theorem State.atClock_bankWon (s : State) (c : Nat) (a : Act) : (s.atClock c a).bankWon = s.bankWon := rfl
@[simp] theorem State.atClock_tiles (s : State) (c : Nat) (a : Act) : (s.atClock c a).tiles = s.tiles := rfl
@[simp] theorem State.atClock_routers (s : State) (c : Nat) (a : Act) : (s.atClock c a).routers = s.routers := rfl
@[simp] theorem State.atClock_tags (s : State) (c : Nat) (a : Act) : (s.atClock c a).tags = s.tags := rfl
@[simp] theorem State.atClock_buses (s : State) (c : Nat) (a : Act) : (s.atClock c a).buses = s.buses := rfl
@[simp] theorem State.atClock_msgs (s : State) (c : Nat) (a : Act) : (s.atClock c a).msgs = s.msgs := rfl
@[simp] theorem State.atClock_launches (s : State) (c : Nat) (a : Act) : (s.atClock c a).launches = s.launches := rfl
@[simp] theorem State.atClock_nextLaunch (s : State) (c : Nat) (a : Act) : (s.atClock c a).nextLaunch = s.nextLaunch := rfl
@[simp] theorem State.atClock_graphs (s : State) (c : Nat) (a : Act) : (s.atClock c a).graphs = s.graphs := rfl
@[simp] theorem State.atClock_phases (s : State) (c : Nat) (a : Act) : (s.atClock c a).phases = s.phases := rfl
@[simp] theorem State.atClock_jobs (s : State) (c : Nat) (a : Act) : (s.atClock c a).jobs = s.jobs := rfl
@[simp] theorem State.atClock_nextLevel (s : State) (c : Nat) (a : Act) : (s.atClock c a).nextLevel = s.nextLevel := rfl
@[simp] theorem State.atClock_hostQs (s : State) (c : Nat) (a : Act) : (s.atClock c a).hostQs = s.hostQs := rfl
@[simp] theorem State.atClock_kickmap (s : State) (c : Nat) (a : Act) : (s.atClock c a).kickmap = s.kickmap := rfl
@[simp] theorem State.atClock_poolFree (s : State) (c : Nat) (a : Act) : (s.atClock c a).poolFree = s.poolFree := rfl
@[simp] theorem State.atClock_admitCtr (s : State) (c : Nat) (a : Act) : (s.atClock c a).admitCtr = s.admitCtr := rfl
@[simp] theorem State.atClock_saved (s : State) (c : Nat) (a : Act) : (s.atClock c a).saved = s.saved := rfl
@[simp] theorem State.atClock_takeovers (s : State) (c : Nat) (a : Act) : (s.atClock c a).takeovers = s.takeovers := rfl
@[simp] theorem State.atClock_gate (s : State) (c : Nat) (a : Act) : (s.atClock c a).gate = s.gate := rfl
@[simp] theorem State.atClock_active (s : State) (c : Nat) (a : Act) : (s.atClock c a).active = s.active := rfl
@[simp] theorem State.atClock_standby (s : State) (c : Nat) (a : Act) : (s.atClock c a).standby = s.standby := rfl
@[simp] theorem State.atClock_halted0 (s : State) (c : Nat) (a : Act) : (s.atClock c a).halted0 = s.halted0 := rfl
@[simp] theorem State.atClock_halted1 (s : State) (c : Nat) (a : Act) : (s.atClock c a).halted1 = s.halted1 := rfl
@[simp] theorem State.atClock_heldWords (s : State) (c : Nat) (a : Act) : (s.atClock c a).heldWords = s.heldWords := rfl
@[simp] theorem State.atClock_journal (s : State) (c : Nat) (a : Act) : (s.atClock c a).journal = s.journal := rfl
@[simp] theorem State.atClock_checkpoint (s : State) (c : Nat) (a : Act) : (s.atClock c a).checkpoint = s.checkpoint := rfl
@[simp] theorem State.atClock_tables (s : State) (c : Nat) (a : Act) : (s.atClock c a).tables = s.tables := rfl
@[simp] theorem State.atClock_coreMem0 (s : State) (c : Nat) (a : Act) : (s.atClock c a).coreMem0 = s.coreMem0 := rfl
@[simp] theorem State.atClock_coreMem1 (s : State) (c : Nat) (a : Act) : (s.atClock c a).coreMem1 = s.coreMem1 := rfl
@[simp] theorem State.atClock_coreBad (s : State) (c : Nat) (a : Act) : (s.atClock c a).coreBad = s.coreBad := rfl
@[simp] theorem State.atClock_parts (s : State) (c : Nat) (a : Act) : (s.atClock c a).parts = s.parts := rfl
@[simp] theorem State.atClock_ctxs (s : State) (c : Nat) (a : Act) : (s.atClock c a).ctxs = s.ctxs := rfl
@[simp] theorem State.atClock_hubTlbs (s : State) (c : Nat) (a : Act) : (s.atClock c a).hubTlbs = s.hubTlbs := rfl
@[simp] theorem State.atClock_invals (s : State) (c : Nat) (a : Act) : (s.atClock c a).invals = s.invals := rfl
@[simp] theorem State.atClock_bias (s : State) (c : Nat) (a : Act) : (s.atClock c a).bias = s.bias := rfl
@[simp] theorem State.atClock_ttimeout (s : State) (c : Nat) (a : Act) : (s.atClock c a).ttimeout = s.ttimeout := rfl
@[simp] theorem State.atClock_txTags (s : State) (c : Nat) (a : Act) : (s.atClock c a).txTags = s.txTags := rfl
@[simp] theorem State.atClock_keys (s : State) (c : Nat) (a : Act) : (s.atClock c a).keys = s.keys := rfl
@[simp] theorem State.atClock_routes (s : State) (c : Nat) (a : Act) : (s.atClock c a).routes = s.routes := rfl
@[simp] theorem State.atClock_flitRetries (s : State) (c : Nat) (a : Act) : (s.atClock c a).flitRetries = s.flitRetries := rfl
@[simp] theorem State.atClock_outReplies (s : State) (c : Nat) (a : Act) : (s.atClock c a).outReplies = s.outReplies := rfl
@[simp] theorem State.atClock_portLanes (s : State) (c : Nat) (a : Act) : (s.atClock c a).portLanes = s.portLanes := rfl
@[simp] theorem State.atClock_fenced (s : State) (c : Nat) (a : Act) : (s.atClock c a).fenced = s.fenced := rfl
@[simp] theorem State.atClock_pchFenced (s : State) (c : Nat) (a : Act) : (s.atClock c a).pchFenced = s.pchFenced := rfl
@[simp] theorem State.atClock_fuses (s : State) (c : Nat) (a : Act) : (s.atClock c a).fuses = s.fuses := rfl
@[simp] theorem State.atClock_inReset (s : State) (c : Nat) (a : Act) : (s.atClock c a).inReset = s.inReset := rfl
@[simp] theorem State.atClock_recovery (s : State) (c : Nat) (a : Act) : (s.atClock c a).recovery = s.recovery := rfl
@[simp] theorem State.atClock_ide (s : State) (c : Nat) (a : Act) : (s.atClock c a).ide = s.ide := rfl
@[simp] theorem State.atClock_measure (s : State) (c : Nat) (a : Act) : (s.atClock c a).measure = s.measure := rfl
@[simp] theorem State.atClock_slotUsed (s : State) (c : Nat) (a : Act) : (s.atClock c a).slotUsed = s.slotUsed := rfl
@[simp] theorem State.atClock_session (s : State) (c : Nat) (a : Act) : (s.atClock c a).session = s.session := rfl
@[simp] theorem State.atClock_spdmOut (s : State) (c : Nat) (a : Act) : (s.atClock c a).spdmOut = s.spdmOut := rfl
@[simp] theorem State.atClock_identity (s : State) (c : Nat) (a : Act) : (s.atClock c a).identity = s.identity := rfl
@[simp] theorem State.atClock_irqs (s : State) (c : Nat) (a : Act) : (s.atClock c a).irqs = s.irqs := rfl
@[simp] theorem State.atClock_msix (s : State) (c : Nat) (a : Act) : (s.atClock c a).msix = s.msix := rfl
@[simp] theorem State.atClock_msixPend (s : State) (c : Nat) (a : Act) : (s.atClock c a).msixPend = s.msixPend := rfl
@[simp] theorem State.atClock_bgStatus (s : State) (c : Nat) (a : Act) : (s.atClock c a).bgStatus = s.bgStatus := rfl
@[simp] theorem State.atClock_hostData (s : State) (c : Nat) (a : Act) : (s.atClock c a).hostData = s.hostData := rfl
@[simp] theorem State.atClock_reports (s : State) (c : Nat) (a : Act) : (s.atClock c a).reports = s.reports := rfl
@[simp] theorem State.atClock_mbox (s : State) (c : Nat) (a : Act) : (s.atClock c a).mbox = s.mbox := rfl
@[simp] theorem State.atClock_mboxBusy (s : State) (c : Nat) (a : Act) : (s.atClock c a).mboxBusy = s.mboxBusy := rfl
@[simp] theorem State.atClock_powerLimit (s : State) (c : Nat) (a : Act) : (s.atClock c a).powerLimit = s.powerLimit := rfl
@[simp] theorem State.atClock_mhz (s : State) (c : Nat) (a : Act) : (s.atClock c a).mhz = s.mhz := rfl
@[simp] theorem State.atClock_thermal (s : State) (c : Nat) (a : Act) : (s.atClock c a).thermal = s.thermal := rfl

@[simp] theorem State.later_ct (s : State) (a : Act) : (s.later a).ct = s.ct := rfl
@[simp] theorem State.later_cs (s : State) (a : Act) : (s.later a).cs = s.cs := rfl
@[simp] theorem State.later_ev (s : State) (a : Act) : (s.later a).ev = s.ev := rfl
@[simp] theorem State.later_agenda (s : State) (a : Act) : (s.later a).agenda = s.agenda := rfl
@[simp] theorem State.later_slots (s : State) (a : Act) : (s.later a).slots = s.slots := rfl
@[simp] theorem State.later_late (s : State) (a : Act) : (s.later a).late = s.late := rfl
@[simp] theorem State.later_lateQ (s : State) (a : Act) : (s.later a).lateQ = s.lateQ := rfl
@[simp] theorem State.later_queueQ (s : State) (a : Act) : (s.later a).queueQ = s.queueQ := rfl
@[simp] theorem State.later_steals (s : State) (a : Act) : (s.later a).steals = s.steals := rfl
@[simp] theorem State.later_waiters (s : State) (a : Act) : (s.later a).waiters = s.waiters := rfl
@[simp] theorem State.later_clock (s : State) (a : Act) : (s.later a).clock = s.clock := rfl
@[simp] theorem State.later_fabric (s : State) (a : Act) : (s.later a).fabric = s.fabric := rfl
@[simp] theorem State.later_fabFrac (s : State) (a : Act) : (s.later a).fabFrac = s.fabFrac := rfl
@[simp] theorem State.later_nextId (s : State) (a : Act) : (s.later a).nextId = s.nextId := rfl
@[simp] theorem State.later_mem (s : State) (a : Act) : (s.later a).mem = s.mem := rfl
@[simp] theorem State.later_ecc (s : State) (a : Act) : (s.later a).ecc = s.ecc := rfl
@[simp] theorem State.later_bankUse (s : State) (a : Act) : (s.later a).bankUse = s.bankUse := rfl
@[simp] theorem State.later_bankWon (s : State) (a : Act) : (s.later a).bankWon = s.bankWon := rfl
@[simp] theorem State.later_tiles (s : State) (a : Act) : (s.later a).tiles = s.tiles := rfl
@[simp] theorem State.later_routers (s : State) (a : Act) : (s.later a).routers = s.routers := rfl
@[simp] theorem State.later_tags (s : State) (a : Act) : (s.later a).tags = s.tags := rfl
@[simp] theorem State.later_buses (s : State) (a : Act) : (s.later a).buses = s.buses := rfl
@[simp] theorem State.later_msgs (s : State) (a : Act) : (s.later a).msgs = s.msgs := rfl
@[simp] theorem State.later_launches (s : State) (a : Act) : (s.later a).launches = s.launches := rfl
@[simp] theorem State.later_nextLaunch (s : State) (a : Act) : (s.later a).nextLaunch = s.nextLaunch := rfl
@[simp] theorem State.later_graphs (s : State) (a : Act) : (s.later a).graphs = s.graphs := rfl
@[simp] theorem State.later_phases (s : State) (a : Act) : (s.later a).phases = s.phases := rfl
@[simp] theorem State.later_jobs (s : State) (a : Act) : (s.later a).jobs = s.jobs := rfl
@[simp] theorem State.later_nextLevel (s : State) (a : Act) : (s.later a).nextLevel = s.nextLevel := rfl
@[simp] theorem State.later_hostQs (s : State) (a : Act) : (s.later a).hostQs = s.hostQs := rfl
@[simp] theorem State.later_kickmap (s : State) (a : Act) : (s.later a).kickmap = s.kickmap := rfl
@[simp] theorem State.later_poolFree (s : State) (a : Act) : (s.later a).poolFree = s.poolFree := rfl
@[simp] theorem State.later_admitCtr (s : State) (a : Act) : (s.later a).admitCtr = s.admitCtr := rfl
@[simp] theorem State.later_saved (s : State) (a : Act) : (s.later a).saved = s.saved := rfl
@[simp] theorem State.later_takeovers (s : State) (a : Act) : (s.later a).takeovers = s.takeovers := rfl
@[simp] theorem State.later_gate (s : State) (a : Act) : (s.later a).gate = s.gate := rfl
@[simp] theorem State.later_active (s : State) (a : Act) : (s.later a).active = s.active := rfl
@[simp] theorem State.later_standby (s : State) (a : Act) : (s.later a).standby = s.standby := rfl
@[simp] theorem State.later_halted0 (s : State) (a : Act) : (s.later a).halted0 = s.halted0 := rfl
@[simp] theorem State.later_halted1 (s : State) (a : Act) : (s.later a).halted1 = s.halted1 := rfl
@[simp] theorem State.later_heldWords (s : State) (a : Act) : (s.later a).heldWords = s.heldWords := rfl
@[simp] theorem State.later_journal (s : State) (a : Act) : (s.later a).journal = s.journal := rfl
@[simp] theorem State.later_checkpoint (s : State) (a : Act) : (s.later a).checkpoint = s.checkpoint := rfl
@[simp] theorem State.later_tables (s : State) (a : Act) : (s.later a).tables = s.tables := rfl
@[simp] theorem State.later_coreMem0 (s : State) (a : Act) : (s.later a).coreMem0 = s.coreMem0 := rfl
@[simp] theorem State.later_coreMem1 (s : State) (a : Act) : (s.later a).coreMem1 = s.coreMem1 := rfl
@[simp] theorem State.later_coreBad (s : State) (a : Act) : (s.later a).coreBad = s.coreBad := rfl
@[simp] theorem State.later_parts (s : State) (a : Act) : (s.later a).parts = s.parts := rfl
@[simp] theorem State.later_ctxs (s : State) (a : Act) : (s.later a).ctxs = s.ctxs := rfl
@[simp] theorem State.later_hubTlbs (s : State) (a : Act) : (s.later a).hubTlbs = s.hubTlbs := rfl
@[simp] theorem State.later_invals (s : State) (a : Act) : (s.later a).invals = s.invals := rfl
@[simp] theorem State.later_bias (s : State) (a : Act) : (s.later a).bias = s.bias := rfl
@[simp] theorem State.later_ttimeout (s : State) (a : Act) : (s.later a).ttimeout = s.ttimeout := rfl
@[simp] theorem State.later_txTags (s : State) (a : Act) : (s.later a).txTags = s.txTags := rfl
@[simp] theorem State.later_keys (s : State) (a : Act) : (s.later a).keys = s.keys := rfl
@[simp] theorem State.later_routes (s : State) (a : Act) : (s.later a).routes = s.routes := rfl
@[simp] theorem State.later_flitRetries (s : State) (a : Act) : (s.later a).flitRetries = s.flitRetries := rfl
@[simp] theorem State.later_outReplies (s : State) (a : Act) : (s.later a).outReplies = s.outReplies := rfl
@[simp] theorem State.later_portLanes (s : State) (a : Act) : (s.later a).portLanes = s.portLanes := rfl
@[simp] theorem State.later_fenced (s : State) (a : Act) : (s.later a).fenced = s.fenced := rfl
@[simp] theorem State.later_pchFenced (s : State) (a : Act) : (s.later a).pchFenced = s.pchFenced := rfl
@[simp] theorem State.later_fuses (s : State) (a : Act) : (s.later a).fuses = s.fuses := rfl
@[simp] theorem State.later_inReset (s : State) (a : Act) : (s.later a).inReset = s.inReset := rfl
@[simp] theorem State.later_recovery (s : State) (a : Act) : (s.later a).recovery = s.recovery := rfl
@[simp] theorem State.later_ide (s : State) (a : Act) : (s.later a).ide = s.ide := rfl
@[simp] theorem State.later_measure (s : State) (a : Act) : (s.later a).measure = s.measure := rfl
@[simp] theorem State.later_slotUsed (s : State) (a : Act) : (s.later a).slotUsed = s.slotUsed := rfl
@[simp] theorem State.later_session (s : State) (a : Act) : (s.later a).session = s.session := rfl
@[simp] theorem State.later_spdmOut (s : State) (a : Act) : (s.later a).spdmOut = s.spdmOut := rfl
@[simp] theorem State.later_identity (s : State) (a : Act) : (s.later a).identity = s.identity := rfl
@[simp] theorem State.later_irqs (s : State) (a : Act) : (s.later a).irqs = s.irqs := rfl
@[simp] theorem State.later_msix (s : State) (a : Act) : (s.later a).msix = s.msix := rfl
@[simp] theorem State.later_msixPend (s : State) (a : Act) : (s.later a).msixPend = s.msixPend := rfl
@[simp] theorem State.later_bgStatus (s : State) (a : Act) : (s.later a).bgStatus = s.bgStatus := rfl
@[simp] theorem State.later_hostData (s : State) (a : Act) : (s.later a).hostData = s.hostData := rfl
@[simp] theorem State.later_reports (s : State) (a : Act) : (s.later a).reports = s.reports := rfl
@[simp] theorem State.later_mbox (s : State) (a : Act) : (s.later a).mbox = s.mbox := rfl
@[simp] theorem State.later_mboxBusy (s : State) (a : Act) : (s.later a).mboxBusy = s.mboxBusy := rfl
@[simp] theorem State.later_powerLimit (s : State) (a : Act) : (s.later a).powerLimit = s.powerLimit := rfl
@[simp] theorem State.later_mhz (s : State) (a : Act) : (s.later a).mhz = s.mhz := rfl
@[simp] theorem State.later_thermal (s : State) (a : Act) : (s.later a).thermal = s.thermal := rfl

@[simp] theorem State.retry_ct (s : State) (op : Instr) : (s.retry op).ct = s.ct := rfl
@[simp] theorem State.retry_cs (s : State) (op : Instr) : (s.retry op).cs = s.cs := rfl
@[simp] theorem State.retry_ev (s : State) (op : Instr) : (s.retry op).ev = s.ev := rfl
@[simp] theorem State.retry_agenda (s : State) (op : Instr) : (s.retry op).agenda = s.agenda := rfl
@[simp] theorem State.retry_slots (s : State) (op : Instr) : (s.retry op).slots = s.slots := rfl
@[simp] theorem State.retry_late (s : State) (op : Instr) : (s.retry op).late = s.late := rfl
@[simp] theorem State.retry_lateQ (s : State) (op : Instr) : (s.retry op).lateQ = s.lateQ := rfl
@[simp] theorem State.retry_queueQ (s : State) (op : Instr) : (s.retry op).queueQ = s.queueQ := rfl
@[simp] theorem State.retry_steals (s : State) (op : Instr) : (s.retry op).steals = s.steals := rfl
@[simp] theorem State.retry_timers (s : State) (op : Instr) : (s.retry op).timers = s.timers := rfl
@[simp] theorem State.retry_clock (s : State) (op : Instr) : (s.retry op).clock = s.clock := rfl
@[simp] theorem State.retry_fabric (s : State) (op : Instr) : (s.retry op).fabric = s.fabric := rfl
@[simp] theorem State.retry_fabFrac (s : State) (op : Instr) : (s.retry op).fabFrac = s.fabFrac := rfl
@[simp] theorem State.retry_fresh (s : State) (op : Instr) : (s.retry op).fresh = s.fresh := rfl
@[simp] theorem State.retry_nextId (s : State) (op : Instr) : (s.retry op).nextId = s.nextId := rfl
@[simp] theorem State.retry_mem (s : State) (op : Instr) : (s.retry op).mem = s.mem := rfl
@[simp] theorem State.retry_ecc (s : State) (op : Instr) : (s.retry op).ecc = s.ecc := rfl
@[simp] theorem State.retry_bankUse (s : State) (op : Instr) : (s.retry op).bankUse = s.bankUse := rfl
@[simp] theorem State.retry_bankWon (s : State) (op : Instr) : (s.retry op).bankWon = s.bankWon := rfl
@[simp] theorem State.retry_tiles (s : State) (op : Instr) : (s.retry op).tiles = s.tiles := rfl
@[simp] theorem State.retry_routers (s : State) (op : Instr) : (s.retry op).routers = s.routers := rfl
@[simp] theorem State.retry_tags (s : State) (op : Instr) : (s.retry op).tags = s.tags := rfl
@[simp] theorem State.retry_buses (s : State) (op : Instr) : (s.retry op).buses = s.buses := rfl
@[simp] theorem State.retry_msgs (s : State) (op : Instr) : (s.retry op).msgs = s.msgs := rfl
@[simp] theorem State.retry_launches (s : State) (op : Instr) : (s.retry op).launches = s.launches := rfl
@[simp] theorem State.retry_nextLaunch (s : State) (op : Instr) : (s.retry op).nextLaunch = s.nextLaunch := rfl
@[simp] theorem State.retry_graphs (s : State) (op : Instr) : (s.retry op).graphs = s.graphs := rfl
@[simp] theorem State.retry_phases (s : State) (op : Instr) : (s.retry op).phases = s.phases := rfl
@[simp] theorem State.retry_jobs (s : State) (op : Instr) : (s.retry op).jobs = s.jobs := rfl
@[simp] theorem State.retry_nextLevel (s : State) (op : Instr) : (s.retry op).nextLevel = s.nextLevel := rfl
@[simp] theorem State.retry_hostQs (s : State) (op : Instr) : (s.retry op).hostQs = s.hostQs := rfl
@[simp] theorem State.retry_kickmap (s : State) (op : Instr) : (s.retry op).kickmap = s.kickmap := rfl
@[simp] theorem State.retry_poolFree (s : State) (op : Instr) : (s.retry op).poolFree = s.poolFree := rfl
@[simp] theorem State.retry_admitCtr (s : State) (op : Instr) : (s.retry op).admitCtr = s.admitCtr := rfl
@[simp] theorem State.retry_saved (s : State) (op : Instr) : (s.retry op).saved = s.saved := rfl
@[simp] theorem State.retry_takeovers (s : State) (op : Instr) : (s.retry op).takeovers = s.takeovers := rfl
@[simp] theorem State.retry_gate (s : State) (op : Instr) : (s.retry op).gate = s.gate := rfl
@[simp] theorem State.retry_active (s : State) (op : Instr) : (s.retry op).active = s.active := rfl
@[simp] theorem State.retry_standby (s : State) (op : Instr) : (s.retry op).standby = s.standby := rfl
@[simp] theorem State.retry_halted0 (s : State) (op : Instr) : (s.retry op).halted0 = s.halted0 := rfl
@[simp] theorem State.retry_halted1 (s : State) (op : Instr) : (s.retry op).halted1 = s.halted1 := rfl
@[simp] theorem State.retry_heldWords (s : State) (op : Instr) : (s.retry op).heldWords = s.heldWords := rfl
@[simp] theorem State.retry_journal (s : State) (op : Instr) : (s.retry op).journal = s.journal := rfl
@[simp] theorem State.retry_checkpoint (s : State) (op : Instr) : (s.retry op).checkpoint = s.checkpoint := rfl
@[simp] theorem State.retry_tables (s : State) (op : Instr) : (s.retry op).tables = s.tables := rfl
@[simp] theorem State.retry_coreMem0 (s : State) (op : Instr) : (s.retry op).coreMem0 = s.coreMem0 := rfl
@[simp] theorem State.retry_coreMem1 (s : State) (op : Instr) : (s.retry op).coreMem1 = s.coreMem1 := rfl
@[simp] theorem State.retry_coreBad (s : State) (op : Instr) : (s.retry op).coreBad = s.coreBad := rfl
@[simp] theorem State.retry_parts (s : State) (op : Instr) : (s.retry op).parts = s.parts := rfl
@[simp] theorem State.retry_ctxs (s : State) (op : Instr) : (s.retry op).ctxs = s.ctxs := rfl
@[simp] theorem State.retry_hubTlbs (s : State) (op : Instr) : (s.retry op).hubTlbs = s.hubTlbs := rfl
@[simp] theorem State.retry_invals (s : State) (op : Instr) : (s.retry op).invals = s.invals := rfl
@[simp] theorem State.retry_bias (s : State) (op : Instr) : (s.retry op).bias = s.bias := rfl
@[simp] theorem State.retry_ttimeout (s : State) (op : Instr) : (s.retry op).ttimeout = s.ttimeout := rfl
@[simp] theorem State.retry_txTags (s : State) (op : Instr) : (s.retry op).txTags = s.txTags := rfl
@[simp] theorem State.retry_keys (s : State) (op : Instr) : (s.retry op).keys = s.keys := rfl
@[simp] theorem State.retry_routes (s : State) (op : Instr) : (s.retry op).routes = s.routes := rfl
@[simp] theorem State.retry_flitRetries (s : State) (op : Instr) : (s.retry op).flitRetries = s.flitRetries := rfl
@[simp] theorem State.retry_outReplies (s : State) (op : Instr) : (s.retry op).outReplies = s.outReplies := rfl
@[simp] theorem State.retry_portLanes (s : State) (op : Instr) : (s.retry op).portLanes = s.portLanes := rfl
@[simp] theorem State.retry_fenced (s : State) (op : Instr) : (s.retry op).fenced = s.fenced := rfl
@[simp] theorem State.retry_pchFenced (s : State) (op : Instr) : (s.retry op).pchFenced = s.pchFenced := rfl
@[simp] theorem State.retry_fuses (s : State) (op : Instr) : (s.retry op).fuses = s.fuses := rfl
@[simp] theorem State.retry_inReset (s : State) (op : Instr) : (s.retry op).inReset = s.inReset := rfl
@[simp] theorem State.retry_recovery (s : State) (op : Instr) : (s.retry op).recovery = s.recovery := rfl
@[simp] theorem State.retry_ide (s : State) (op : Instr) : (s.retry op).ide = s.ide := rfl
@[simp] theorem State.retry_measure (s : State) (op : Instr) : (s.retry op).measure = s.measure := rfl
@[simp] theorem State.retry_slotUsed (s : State) (op : Instr) : (s.retry op).slotUsed = s.slotUsed := rfl
@[simp] theorem State.retry_session (s : State) (op : Instr) : (s.retry op).session = s.session := rfl
@[simp] theorem State.retry_spdmOut (s : State) (op : Instr) : (s.retry op).spdmOut = s.spdmOut := rfl
@[simp] theorem State.retry_identity (s : State) (op : Instr) : (s.retry op).identity = s.identity := rfl
@[simp] theorem State.retry_irqs (s : State) (op : Instr) : (s.retry op).irqs = s.irqs := rfl
@[simp] theorem State.retry_msix (s : State) (op : Instr) : (s.retry op).msix = s.msix := rfl
@[simp] theorem State.retry_msixPend (s : State) (op : Instr) : (s.retry op).msixPend = s.msixPend := rfl
@[simp] theorem State.retry_bgStatus (s : State) (op : Instr) : (s.retry op).bgStatus = s.bgStatus := rfl
@[simp] theorem State.retry_hostData (s : State) (op : Instr) : (s.retry op).hostData = s.hostData := rfl
@[simp] theorem State.retry_reports (s : State) (op : Instr) : (s.retry op).reports = s.reports := rfl
@[simp] theorem State.retry_mbox (s : State) (op : Instr) : (s.retry op).mbox = s.mbox := rfl
@[simp] theorem State.retry_mboxBusy (s : State) (op : Instr) : (s.retry op).mboxBusy = s.mboxBusy := rfl
@[simp] theorem State.retry_powerLimit (s : State) (op : Instr) : (s.retry op).powerLimit = s.powerLimit := rfl
@[simp] theorem State.retry_mhz (s : State) (op : Instr) : (s.retry op).mhz = s.mhz := rfl
@[simp] theorem State.retry_thermal (s : State) (op : Instr) : (s.retry op).thermal = s.thermal := rfl

@[simp] theorem State.bump_ct (s : State) : (s.bump).ct = s.ct := rfl
@[simp] theorem State.bump_cs (s : State) : (s.bump).cs = s.cs := rfl
@[simp] theorem State.bump_ev (s : State) : (s.bump).ev = s.ev := rfl
@[simp] theorem State.bump_agenda (s : State) : (s.bump).agenda = s.agenda := rfl
@[simp] theorem State.bump_slots (s : State) : (s.bump).slots = s.slots := rfl
@[simp] theorem State.bump_late (s : State) : (s.bump).late = s.late := rfl
@[simp] theorem State.bump_lateQ (s : State) : (s.bump).lateQ = s.lateQ := rfl
@[simp] theorem State.bump_queueQ (s : State) : (s.bump).queueQ = s.queueQ := rfl
@[simp] theorem State.bump_steals (s : State) : (s.bump).steals = s.steals := rfl
@[simp] theorem State.bump_timers (s : State) : (s.bump).timers = s.timers := rfl
@[simp] theorem State.bump_waiters (s : State) : (s.bump).waiters = s.waiters := rfl
@[simp] theorem State.bump_clock (s : State) : (s.bump).clock = s.clock := rfl
@[simp] theorem State.bump_fabric (s : State) : (s.bump).fabric = s.fabric := rfl
@[simp] theorem State.bump_fabFrac (s : State) : (s.bump).fabFrac = s.fabFrac := rfl
@[simp] theorem State.bump_fresh (s : State) : (s.bump).fresh = s.fresh := rfl
@[simp] theorem State.bump_mem (s : State) : (s.bump).mem = s.mem := rfl
@[simp] theorem State.bump_ecc (s : State) : (s.bump).ecc = s.ecc := rfl
@[simp] theorem State.bump_bankUse (s : State) : (s.bump).bankUse = s.bankUse := rfl
@[simp] theorem State.bump_bankWon (s : State) : (s.bump).bankWon = s.bankWon := rfl
@[simp] theorem State.bump_tiles (s : State) : (s.bump).tiles = s.tiles := rfl
@[simp] theorem State.bump_routers (s : State) : (s.bump).routers = s.routers := rfl
@[simp] theorem State.bump_tags (s : State) : (s.bump).tags = s.tags := rfl
@[simp] theorem State.bump_buses (s : State) : (s.bump).buses = s.buses := rfl
@[simp] theorem State.bump_msgs (s : State) : (s.bump).msgs = s.msgs := rfl
@[simp] theorem State.bump_launches (s : State) : (s.bump).launches = s.launches := rfl
@[simp] theorem State.bump_nextLaunch (s : State) : (s.bump).nextLaunch = s.nextLaunch := rfl
@[simp] theorem State.bump_graphs (s : State) : (s.bump).graphs = s.graphs := rfl
@[simp] theorem State.bump_phases (s : State) : (s.bump).phases = s.phases := rfl
@[simp] theorem State.bump_jobs (s : State) : (s.bump).jobs = s.jobs := rfl
@[simp] theorem State.bump_nextLevel (s : State) : (s.bump).nextLevel = s.nextLevel := rfl
@[simp] theorem State.bump_hostQs (s : State) : (s.bump).hostQs = s.hostQs := rfl
@[simp] theorem State.bump_kickmap (s : State) : (s.bump).kickmap = s.kickmap := rfl
@[simp] theorem State.bump_poolFree (s : State) : (s.bump).poolFree = s.poolFree := rfl
@[simp] theorem State.bump_admitCtr (s : State) : (s.bump).admitCtr = s.admitCtr := rfl
@[simp] theorem State.bump_saved (s : State) : (s.bump).saved = s.saved := rfl
@[simp] theorem State.bump_takeovers (s : State) : (s.bump).takeovers = s.takeovers := rfl
@[simp] theorem State.bump_gate (s : State) : (s.bump).gate = s.gate := rfl
@[simp] theorem State.bump_active (s : State) : (s.bump).active = s.active := rfl
@[simp] theorem State.bump_standby (s : State) : (s.bump).standby = s.standby := rfl
@[simp] theorem State.bump_halted0 (s : State) : (s.bump).halted0 = s.halted0 := rfl
@[simp] theorem State.bump_halted1 (s : State) : (s.bump).halted1 = s.halted1 := rfl
@[simp] theorem State.bump_heldWords (s : State) : (s.bump).heldWords = s.heldWords := rfl
@[simp] theorem State.bump_journal (s : State) : (s.bump).journal = s.journal := rfl
@[simp] theorem State.bump_checkpoint (s : State) : (s.bump).checkpoint = s.checkpoint := rfl
@[simp] theorem State.bump_tables (s : State) : (s.bump).tables = s.tables := rfl
@[simp] theorem State.bump_coreMem0 (s : State) : (s.bump).coreMem0 = s.coreMem0 := rfl
@[simp] theorem State.bump_coreMem1 (s : State) : (s.bump).coreMem1 = s.coreMem1 := rfl
@[simp] theorem State.bump_coreBad (s : State) : (s.bump).coreBad = s.coreBad := rfl
@[simp] theorem State.bump_parts (s : State) : (s.bump).parts = s.parts := rfl
@[simp] theorem State.bump_ctxs (s : State) : (s.bump).ctxs = s.ctxs := rfl
@[simp] theorem State.bump_hubTlbs (s : State) : (s.bump).hubTlbs = s.hubTlbs := rfl
@[simp] theorem State.bump_invals (s : State) : (s.bump).invals = s.invals := rfl
@[simp] theorem State.bump_bias (s : State) : (s.bump).bias = s.bias := rfl
@[simp] theorem State.bump_ttimeout (s : State) : (s.bump).ttimeout = s.ttimeout := rfl
@[simp] theorem State.bump_txTags (s : State) : (s.bump).txTags = s.txTags := rfl
@[simp] theorem State.bump_keys (s : State) : (s.bump).keys = s.keys := rfl
@[simp] theorem State.bump_routes (s : State) : (s.bump).routes = s.routes := rfl
@[simp] theorem State.bump_flitRetries (s : State) : (s.bump).flitRetries = s.flitRetries := rfl
@[simp] theorem State.bump_outReplies (s : State) : (s.bump).outReplies = s.outReplies := rfl
@[simp] theorem State.bump_portLanes (s : State) : (s.bump).portLanes = s.portLanes := rfl
@[simp] theorem State.bump_fenced (s : State) : (s.bump).fenced = s.fenced := rfl
@[simp] theorem State.bump_pchFenced (s : State) : (s.bump).pchFenced = s.pchFenced := rfl
@[simp] theorem State.bump_fuses (s : State) : (s.bump).fuses = s.fuses := rfl
@[simp] theorem State.bump_inReset (s : State) : (s.bump).inReset = s.inReset := rfl
@[simp] theorem State.bump_recovery (s : State) : (s.bump).recovery = s.recovery := rfl
@[simp] theorem State.bump_ide (s : State) : (s.bump).ide = s.ide := rfl
@[simp] theorem State.bump_measure (s : State) : (s.bump).measure = s.measure := rfl
@[simp] theorem State.bump_slotUsed (s : State) : (s.bump).slotUsed = s.slotUsed := rfl
@[simp] theorem State.bump_session (s : State) : (s.bump).session = s.session := rfl
@[simp] theorem State.bump_spdmOut (s : State) : (s.bump).spdmOut = s.spdmOut := rfl
@[simp] theorem State.bump_identity (s : State) : (s.bump).identity = s.identity := rfl
@[simp] theorem State.bump_irqs (s : State) : (s.bump).irqs = s.irqs := rfl
@[simp] theorem State.bump_msix (s : State) : (s.bump).msix = s.msix := rfl
@[simp] theorem State.bump_msixPend (s : State) : (s.bump).msixPend = s.msixPend := rfl
@[simp] theorem State.bump_bgStatus (s : State) : (s.bump).bgStatus = s.bgStatus := rfl
@[simp] theorem State.bump_hostData (s : State) : (s.bump).hostData = s.hostData := rfl
@[simp] theorem State.bump_reports (s : State) : (s.bump).reports = s.reports := rfl
@[simp] theorem State.bump_mbox (s : State) : (s.bump).mbox = s.mbox := rfl
@[simp] theorem State.bump_mboxBusy (s : State) : (s.bump).mboxBusy = s.mboxBusy := rfl
@[simp] theorem State.bump_powerLimit (s : State) : (s.bump).powerLimit = s.powerLimit := rfl
@[simp] theorem State.bump_mhz (s : State) : (s.bump).mhz = s.mhz := rfl
@[simp] theorem State.bump_thermal (s : State) : (s.bump).thermal = s.thermal := rfl

@[simp] theorem State.postFirst_ct (s : State) (a : Act) : (s.postFirst a).ct = s.ct := rfl
@[simp] theorem State.postFirst_cs (s : State) (a : Act) : (s.postFirst a).cs = s.cs := rfl
@[simp] theorem State.postFirst_ev (s : State) (a : Act) : (s.postFirst a).ev = s.ev := rfl
@[simp] theorem State.postFirst_slots (s : State) (a : Act) : (s.postFirst a).slots = s.slots := rfl
@[simp] theorem State.postFirst_late (s : State) (a : Act) : (s.postFirst a).late = s.late := rfl
@[simp] theorem State.postFirst_lateQ (s : State) (a : Act) : (s.postFirst a).lateQ = s.lateQ := rfl
@[simp] theorem State.postFirst_queueQ (s : State) (a : Act) : (s.postFirst a).queueQ = s.queueQ := rfl
@[simp] theorem State.postFirst_steals (s : State) (a : Act) : (s.postFirst a).steals = s.steals := rfl
@[simp] theorem State.postFirst_timers (s : State) (a : Act) : (s.postFirst a).timers = s.timers := rfl
@[simp] theorem State.postFirst_waiters (s : State) (a : Act) : (s.postFirst a).waiters = s.waiters := rfl
@[simp] theorem State.postFirst_clock (s : State) (a : Act) : (s.postFirst a).clock = s.clock := rfl
@[simp] theorem State.postFirst_fabric (s : State) (a : Act) : (s.postFirst a).fabric = s.fabric := rfl
@[simp] theorem State.postFirst_fabFrac (s : State) (a : Act) : (s.postFirst a).fabFrac = s.fabFrac := rfl
@[simp] theorem State.postFirst_fresh (s : State) (a : Act) : (s.postFirst a).fresh = s.fresh := rfl
@[simp] theorem State.postFirst_nextId (s : State) (a : Act) : (s.postFirst a).nextId = s.nextId := rfl
@[simp] theorem State.postFirst_mem (s : State) (a : Act) : (s.postFirst a).mem = s.mem := rfl
@[simp] theorem State.postFirst_ecc (s : State) (a : Act) : (s.postFirst a).ecc = s.ecc := rfl
@[simp] theorem State.postFirst_bankUse (s : State) (a : Act) : (s.postFirst a).bankUse = s.bankUse := rfl
@[simp] theorem State.postFirst_bankWon (s : State) (a : Act) : (s.postFirst a).bankWon = s.bankWon := rfl
@[simp] theorem State.postFirst_tiles (s : State) (a : Act) : (s.postFirst a).tiles = s.tiles := rfl
@[simp] theorem State.postFirst_routers (s : State) (a : Act) : (s.postFirst a).routers = s.routers := rfl
@[simp] theorem State.postFirst_tags (s : State) (a : Act) : (s.postFirst a).tags = s.tags := rfl
@[simp] theorem State.postFirst_buses (s : State) (a : Act) : (s.postFirst a).buses = s.buses := rfl
@[simp] theorem State.postFirst_msgs (s : State) (a : Act) : (s.postFirst a).msgs = s.msgs := rfl
@[simp] theorem State.postFirst_launches (s : State) (a : Act) : (s.postFirst a).launches = s.launches := rfl
@[simp] theorem State.postFirst_nextLaunch (s : State) (a : Act) : (s.postFirst a).nextLaunch = s.nextLaunch := rfl
@[simp] theorem State.postFirst_graphs (s : State) (a : Act) : (s.postFirst a).graphs = s.graphs := rfl
@[simp] theorem State.postFirst_phases (s : State) (a : Act) : (s.postFirst a).phases = s.phases := rfl
@[simp] theorem State.postFirst_jobs (s : State) (a : Act) : (s.postFirst a).jobs = s.jobs := rfl
@[simp] theorem State.postFirst_nextLevel (s : State) (a : Act) : (s.postFirst a).nextLevel = s.nextLevel := rfl
@[simp] theorem State.postFirst_hostQs (s : State) (a : Act) : (s.postFirst a).hostQs = s.hostQs := rfl
@[simp] theorem State.postFirst_kickmap (s : State) (a : Act) : (s.postFirst a).kickmap = s.kickmap := rfl
@[simp] theorem State.postFirst_poolFree (s : State) (a : Act) : (s.postFirst a).poolFree = s.poolFree := rfl
@[simp] theorem State.postFirst_admitCtr (s : State) (a : Act) : (s.postFirst a).admitCtr = s.admitCtr := rfl
@[simp] theorem State.postFirst_saved (s : State) (a : Act) : (s.postFirst a).saved = s.saved := rfl
@[simp] theorem State.postFirst_takeovers (s : State) (a : Act) : (s.postFirst a).takeovers = s.takeovers := rfl
@[simp] theorem State.postFirst_gate (s : State) (a : Act) : (s.postFirst a).gate = s.gate := rfl
@[simp] theorem State.postFirst_active (s : State) (a : Act) : (s.postFirst a).active = s.active := rfl
@[simp] theorem State.postFirst_standby (s : State) (a : Act) : (s.postFirst a).standby = s.standby := rfl
@[simp] theorem State.postFirst_halted0 (s : State) (a : Act) : (s.postFirst a).halted0 = s.halted0 := rfl
@[simp] theorem State.postFirst_halted1 (s : State) (a : Act) : (s.postFirst a).halted1 = s.halted1 := rfl
@[simp] theorem State.postFirst_heldWords (s : State) (a : Act) : (s.postFirst a).heldWords = s.heldWords := rfl
@[simp] theorem State.postFirst_journal (s : State) (a : Act) : (s.postFirst a).journal = s.journal := rfl
@[simp] theorem State.postFirst_checkpoint (s : State) (a : Act) : (s.postFirst a).checkpoint = s.checkpoint := rfl
@[simp] theorem State.postFirst_tables (s : State) (a : Act) : (s.postFirst a).tables = s.tables := rfl
@[simp] theorem State.postFirst_coreMem0 (s : State) (a : Act) : (s.postFirst a).coreMem0 = s.coreMem0 := rfl
@[simp] theorem State.postFirst_coreMem1 (s : State) (a : Act) : (s.postFirst a).coreMem1 = s.coreMem1 := rfl
@[simp] theorem State.postFirst_coreBad (s : State) (a : Act) : (s.postFirst a).coreBad = s.coreBad := rfl
@[simp] theorem State.postFirst_parts (s : State) (a : Act) : (s.postFirst a).parts = s.parts := rfl
@[simp] theorem State.postFirst_ctxs (s : State) (a : Act) : (s.postFirst a).ctxs = s.ctxs := rfl
@[simp] theorem State.postFirst_hubTlbs (s : State) (a : Act) : (s.postFirst a).hubTlbs = s.hubTlbs := rfl
@[simp] theorem State.postFirst_invals (s : State) (a : Act) : (s.postFirst a).invals = s.invals := rfl
@[simp] theorem State.postFirst_bias (s : State) (a : Act) : (s.postFirst a).bias = s.bias := rfl
@[simp] theorem State.postFirst_ttimeout (s : State) (a : Act) : (s.postFirst a).ttimeout = s.ttimeout := rfl
@[simp] theorem State.postFirst_txTags (s : State) (a : Act) : (s.postFirst a).txTags = s.txTags := rfl
@[simp] theorem State.postFirst_keys (s : State) (a : Act) : (s.postFirst a).keys = s.keys := rfl
@[simp] theorem State.postFirst_routes (s : State) (a : Act) : (s.postFirst a).routes = s.routes := rfl
@[simp] theorem State.postFirst_flitRetries (s : State) (a : Act) : (s.postFirst a).flitRetries = s.flitRetries := rfl
@[simp] theorem State.postFirst_outReplies (s : State) (a : Act) : (s.postFirst a).outReplies = s.outReplies := rfl
@[simp] theorem State.postFirst_portLanes (s : State) (a : Act) : (s.postFirst a).portLanes = s.portLanes := rfl
@[simp] theorem State.postFirst_fenced (s : State) (a : Act) : (s.postFirst a).fenced = s.fenced := rfl
@[simp] theorem State.postFirst_pchFenced (s : State) (a : Act) : (s.postFirst a).pchFenced = s.pchFenced := rfl
@[simp] theorem State.postFirst_fuses (s : State) (a : Act) : (s.postFirst a).fuses = s.fuses := rfl
@[simp] theorem State.postFirst_inReset (s : State) (a : Act) : (s.postFirst a).inReset = s.inReset := rfl
@[simp] theorem State.postFirst_recovery (s : State) (a : Act) : (s.postFirst a).recovery = s.recovery := rfl
@[simp] theorem State.postFirst_ide (s : State) (a : Act) : (s.postFirst a).ide = s.ide := rfl
@[simp] theorem State.postFirst_measure (s : State) (a : Act) : (s.postFirst a).measure = s.measure := rfl
@[simp] theorem State.postFirst_slotUsed (s : State) (a : Act) : (s.postFirst a).slotUsed = s.slotUsed := rfl
@[simp] theorem State.postFirst_session (s : State) (a : Act) : (s.postFirst a).session = s.session := rfl
@[simp] theorem State.postFirst_spdmOut (s : State) (a : Act) : (s.postFirst a).spdmOut = s.spdmOut := rfl
@[simp] theorem State.postFirst_identity (s : State) (a : Act) : (s.postFirst a).identity = s.identity := rfl
@[simp] theorem State.postFirst_irqs (s : State) (a : Act) : (s.postFirst a).irqs = s.irqs := rfl
@[simp] theorem State.postFirst_msix (s : State) (a : Act) : (s.postFirst a).msix = s.msix := rfl
@[simp] theorem State.postFirst_msixPend (s : State) (a : Act) : (s.postFirst a).msixPend = s.msixPend := rfl
@[simp] theorem State.postFirst_bgStatus (s : State) (a : Act) : (s.postFirst a).bgStatus = s.bgStatus := rfl
@[simp] theorem State.postFirst_hostData (s : State) (a : Act) : (s.postFirst a).hostData = s.hostData := rfl
@[simp] theorem State.postFirst_reports (s : State) (a : Act) : (s.postFirst a).reports = s.reports := rfl
@[simp] theorem State.postFirst_mbox (s : State) (a : Act) : (s.postFirst a).mbox = s.mbox := rfl
@[simp] theorem State.postFirst_mboxBusy (s : State) (a : Act) : (s.postFirst a).mboxBusy = s.mboxBusy := rfl
@[simp] theorem State.postFirst_powerLimit (s : State) (a : Act) : (s.postFirst a).powerLimit = s.powerLimit := rfl
@[simp] theorem State.postFirst_mhz (s : State) (a : Act) : (s.postFirst a).mhz = s.mhz := rfl
@[simp] theorem State.postFirst_thermal (s : State) (a : Act) : (s.postFirst a).thermal = s.thermal := rfl

@[simp] theorem State.bumpFresh_ct (s : State) : (s.bumpFresh).ct = s.ct := rfl
@[simp] theorem State.bumpFresh_cs (s : State) : (s.bumpFresh).cs = s.cs := rfl
@[simp] theorem State.bumpFresh_ev (s : State) : (s.bumpFresh).ev = s.ev := rfl
@[simp] theorem State.bumpFresh_agenda (s : State) : (s.bumpFresh).agenda = s.agenda := rfl
@[simp] theorem State.bumpFresh_slots (s : State) : (s.bumpFresh).slots = s.slots := rfl
@[simp] theorem State.bumpFresh_late (s : State) : (s.bumpFresh).late = s.late := rfl
@[simp] theorem State.bumpFresh_lateQ (s : State) : (s.bumpFresh).lateQ = s.lateQ := rfl
@[simp] theorem State.bumpFresh_queueQ (s : State) : (s.bumpFresh).queueQ = s.queueQ := rfl
@[simp] theorem State.bumpFresh_steals (s : State) : (s.bumpFresh).steals = s.steals := rfl
@[simp] theorem State.bumpFresh_timers (s : State) : (s.bumpFresh).timers = s.timers := rfl
@[simp] theorem State.bumpFresh_waiters (s : State) : (s.bumpFresh).waiters = s.waiters := rfl
@[simp] theorem State.bumpFresh_clock (s : State) : (s.bumpFresh).clock = s.clock := rfl
@[simp] theorem State.bumpFresh_fabric (s : State) : (s.bumpFresh).fabric = s.fabric := rfl
@[simp] theorem State.bumpFresh_fabFrac (s : State) : (s.bumpFresh).fabFrac = s.fabFrac := rfl
@[simp] theorem State.bumpFresh_nextId (s : State) : (s.bumpFresh).nextId = s.nextId := rfl
@[simp] theorem State.bumpFresh_mem (s : State) : (s.bumpFresh).mem = s.mem := rfl
@[simp] theorem State.bumpFresh_ecc (s : State) : (s.bumpFresh).ecc = s.ecc := rfl
@[simp] theorem State.bumpFresh_bankUse (s : State) : (s.bumpFresh).bankUse = s.bankUse := rfl
@[simp] theorem State.bumpFresh_bankWon (s : State) : (s.bumpFresh).bankWon = s.bankWon := rfl
@[simp] theorem State.bumpFresh_tiles (s : State) : (s.bumpFresh).tiles = s.tiles := rfl
@[simp] theorem State.bumpFresh_routers (s : State) : (s.bumpFresh).routers = s.routers := rfl
@[simp] theorem State.bumpFresh_tags (s : State) : (s.bumpFresh).tags = s.tags := rfl
@[simp] theorem State.bumpFresh_buses (s : State) : (s.bumpFresh).buses = s.buses := rfl
@[simp] theorem State.bumpFresh_msgs (s : State) : (s.bumpFresh).msgs = s.msgs := rfl
@[simp] theorem State.bumpFresh_launches (s : State) : (s.bumpFresh).launches = s.launches := rfl
@[simp] theorem State.bumpFresh_nextLaunch (s : State) : (s.bumpFresh).nextLaunch = s.nextLaunch := rfl
@[simp] theorem State.bumpFresh_graphs (s : State) : (s.bumpFresh).graphs = s.graphs := rfl
@[simp] theorem State.bumpFresh_phases (s : State) : (s.bumpFresh).phases = s.phases := rfl
@[simp] theorem State.bumpFresh_jobs (s : State) : (s.bumpFresh).jobs = s.jobs := rfl
@[simp] theorem State.bumpFresh_nextLevel (s : State) : (s.bumpFresh).nextLevel = s.nextLevel := rfl
@[simp] theorem State.bumpFresh_hostQs (s : State) : (s.bumpFresh).hostQs = s.hostQs := rfl
@[simp] theorem State.bumpFresh_kickmap (s : State) : (s.bumpFresh).kickmap = s.kickmap := rfl
@[simp] theorem State.bumpFresh_poolFree (s : State) : (s.bumpFresh).poolFree = s.poolFree := rfl
@[simp] theorem State.bumpFresh_admitCtr (s : State) : (s.bumpFresh).admitCtr = s.admitCtr := rfl
@[simp] theorem State.bumpFresh_saved (s : State) : (s.bumpFresh).saved = s.saved := rfl
@[simp] theorem State.bumpFresh_takeovers (s : State) : (s.bumpFresh).takeovers = s.takeovers := rfl
@[simp] theorem State.bumpFresh_gate (s : State) : (s.bumpFresh).gate = s.gate := rfl
@[simp] theorem State.bumpFresh_active (s : State) : (s.bumpFresh).active = s.active := rfl
@[simp] theorem State.bumpFresh_standby (s : State) : (s.bumpFresh).standby = s.standby := rfl
@[simp] theorem State.bumpFresh_halted0 (s : State) : (s.bumpFresh).halted0 = s.halted0 := rfl
@[simp] theorem State.bumpFresh_halted1 (s : State) : (s.bumpFresh).halted1 = s.halted1 := rfl
@[simp] theorem State.bumpFresh_heldWords (s : State) : (s.bumpFresh).heldWords = s.heldWords := rfl
@[simp] theorem State.bumpFresh_journal (s : State) : (s.bumpFresh).journal = s.journal := rfl
@[simp] theorem State.bumpFresh_checkpoint (s : State) : (s.bumpFresh).checkpoint = s.checkpoint := rfl
@[simp] theorem State.bumpFresh_tables (s : State) : (s.bumpFresh).tables = s.tables := rfl
@[simp] theorem State.bumpFresh_coreMem0 (s : State) : (s.bumpFresh).coreMem0 = s.coreMem0 := rfl
@[simp] theorem State.bumpFresh_coreMem1 (s : State) : (s.bumpFresh).coreMem1 = s.coreMem1 := rfl
@[simp] theorem State.bumpFresh_coreBad (s : State) : (s.bumpFresh).coreBad = s.coreBad := rfl
@[simp] theorem State.bumpFresh_parts (s : State) : (s.bumpFresh).parts = s.parts := rfl
@[simp] theorem State.bumpFresh_ctxs (s : State) : (s.bumpFresh).ctxs = s.ctxs := rfl
@[simp] theorem State.bumpFresh_hubTlbs (s : State) : (s.bumpFresh).hubTlbs = s.hubTlbs := rfl
@[simp] theorem State.bumpFresh_invals (s : State) : (s.bumpFresh).invals = s.invals := rfl
@[simp] theorem State.bumpFresh_bias (s : State) : (s.bumpFresh).bias = s.bias := rfl
@[simp] theorem State.bumpFresh_ttimeout (s : State) : (s.bumpFresh).ttimeout = s.ttimeout := rfl
@[simp] theorem State.bumpFresh_txTags (s : State) : (s.bumpFresh).txTags = s.txTags := rfl
@[simp] theorem State.bumpFresh_keys (s : State) : (s.bumpFresh).keys = s.keys := rfl
@[simp] theorem State.bumpFresh_routes (s : State) : (s.bumpFresh).routes = s.routes := rfl
@[simp] theorem State.bumpFresh_flitRetries (s : State) : (s.bumpFresh).flitRetries = s.flitRetries := rfl
@[simp] theorem State.bumpFresh_outReplies (s : State) : (s.bumpFresh).outReplies = s.outReplies := rfl
@[simp] theorem State.bumpFresh_portLanes (s : State) : (s.bumpFresh).portLanes = s.portLanes := rfl
@[simp] theorem State.bumpFresh_fenced (s : State) : (s.bumpFresh).fenced = s.fenced := rfl
@[simp] theorem State.bumpFresh_pchFenced (s : State) : (s.bumpFresh).pchFenced = s.pchFenced := rfl
@[simp] theorem State.bumpFresh_fuses (s : State) : (s.bumpFresh).fuses = s.fuses := rfl
@[simp] theorem State.bumpFresh_inReset (s : State) : (s.bumpFresh).inReset = s.inReset := rfl
@[simp] theorem State.bumpFresh_recovery (s : State) : (s.bumpFresh).recovery = s.recovery := rfl
@[simp] theorem State.bumpFresh_ide (s : State) : (s.bumpFresh).ide = s.ide := rfl
@[simp] theorem State.bumpFresh_measure (s : State) : (s.bumpFresh).measure = s.measure := rfl
@[simp] theorem State.bumpFresh_slotUsed (s : State) : (s.bumpFresh).slotUsed = s.slotUsed := rfl
@[simp] theorem State.bumpFresh_session (s : State) : (s.bumpFresh).session = s.session := rfl
@[simp] theorem State.bumpFresh_spdmOut (s : State) : (s.bumpFresh).spdmOut = s.spdmOut := rfl
@[simp] theorem State.bumpFresh_identity (s : State) : (s.bumpFresh).identity = s.identity := rfl
@[simp] theorem State.bumpFresh_irqs (s : State) : (s.bumpFresh).irqs = s.irqs := rfl
@[simp] theorem State.bumpFresh_msix (s : State) : (s.bumpFresh).msix = s.msix := rfl
@[simp] theorem State.bumpFresh_msixPend (s : State) : (s.bumpFresh).msixPend = s.msixPend := rfl
@[simp] theorem State.bumpFresh_bgStatus (s : State) : (s.bumpFresh).bgStatus = s.bgStatus := rfl
@[simp] theorem State.bumpFresh_hostData (s : State) : (s.bumpFresh).hostData = s.hostData := rfl
@[simp] theorem State.bumpFresh_reports (s : State) : (s.bumpFresh).reports = s.reports := rfl
@[simp] theorem State.bumpFresh_mbox (s : State) : (s.bumpFresh).mbox = s.mbox := rfl
@[simp] theorem State.bumpFresh_mboxBusy (s : State) : (s.bumpFresh).mboxBusy = s.mboxBusy := rfl
@[simp] theorem State.bumpFresh_powerLimit (s : State) : (s.bumpFresh).powerLimit = s.powerLimit := rfl
@[simp] theorem State.bumpFresh_mhz (s : State) : (s.bumpFresh).mhz = s.mhz := rfl
@[simp] theorem State.bumpFresh_thermal (s : State) : (s.bumpFresh).thermal = s.thermal := rfl

@[simp] theorem State.report_ct (s : State) (c : BitVec 16) (info : Nat) : (s.report c info).ct = s.ct := rfl
@[simp] theorem State.report_cs (s : State) (c : BitVec 16) (info : Nat) : (s.report c info).cs = s.cs := rfl
@[simp] theorem State.report_ev (s : State) (c : BitVec 16) (info : Nat) : (s.report c info).ev = s.ev := rfl
@[simp] theorem State.report_agenda (s : State) (c : BitVec 16) (info : Nat) : (s.report c info).agenda = s.agenda := rfl
@[simp] theorem State.report_slots (s : State) (c : BitVec 16) (info : Nat) : (s.report c info).slots = s.slots := rfl
@[simp] theorem State.report_late (s : State) (c : BitVec 16) (info : Nat) : (s.report c info).late = s.late := rfl
@[simp] theorem State.report_lateQ (s : State) (c : BitVec 16) (info : Nat) : (s.report c info).lateQ = s.lateQ := rfl
@[simp] theorem State.report_queueQ (s : State) (c : BitVec 16) (info : Nat) : (s.report c info).queueQ = s.queueQ := rfl
@[simp] theorem State.report_steals (s : State) (c : BitVec 16) (info : Nat) : (s.report c info).steals = s.steals := rfl
@[simp] theorem State.report_timers (s : State) (c : BitVec 16) (info : Nat) : (s.report c info).timers = s.timers := rfl
@[simp] theorem State.report_waiters (s : State) (c : BitVec 16) (info : Nat) : (s.report c info).waiters = s.waiters := rfl
@[simp] theorem State.report_clock (s : State) (c : BitVec 16) (info : Nat) : (s.report c info).clock = s.clock := rfl
@[simp] theorem State.report_fabric (s : State) (c : BitVec 16) (info : Nat) : (s.report c info).fabric = s.fabric := rfl
@[simp] theorem State.report_fabFrac (s : State) (c : BitVec 16) (info : Nat) : (s.report c info).fabFrac = s.fabFrac := rfl
@[simp] theorem State.report_fresh (s : State) (c : BitVec 16) (info : Nat) : (s.report c info).fresh = s.fresh := rfl
@[simp] theorem State.report_nextId (s : State) (c : BitVec 16) (info : Nat) : (s.report c info).nextId = s.nextId := rfl
@[simp] theorem State.report_mem (s : State) (c : BitVec 16) (info : Nat) : (s.report c info).mem = s.mem := rfl
@[simp] theorem State.report_ecc (s : State) (c : BitVec 16) (info : Nat) : (s.report c info).ecc = s.ecc := rfl
@[simp] theorem State.report_bankUse (s : State) (c : BitVec 16) (info : Nat) : (s.report c info).bankUse = s.bankUse := rfl
@[simp] theorem State.report_bankWon (s : State) (c : BitVec 16) (info : Nat) : (s.report c info).bankWon = s.bankWon := rfl
@[simp] theorem State.report_tiles (s : State) (c : BitVec 16) (info : Nat) : (s.report c info).tiles = s.tiles := rfl
@[simp] theorem State.report_routers (s : State) (c : BitVec 16) (info : Nat) : (s.report c info).routers = s.routers := rfl
@[simp] theorem State.report_tags (s : State) (c : BitVec 16) (info : Nat) : (s.report c info).tags = s.tags := rfl
@[simp] theorem State.report_buses (s : State) (c : BitVec 16) (info : Nat) : (s.report c info).buses = s.buses := rfl
@[simp] theorem State.report_msgs (s : State) (c : BitVec 16) (info : Nat) : (s.report c info).msgs = s.msgs := rfl
@[simp] theorem State.report_launches (s : State) (c : BitVec 16) (info : Nat) : (s.report c info).launches = s.launches := rfl
@[simp] theorem State.report_nextLaunch (s : State) (c : BitVec 16) (info : Nat) : (s.report c info).nextLaunch = s.nextLaunch := rfl
@[simp] theorem State.report_graphs (s : State) (c : BitVec 16) (info : Nat) : (s.report c info).graphs = s.graphs := rfl
@[simp] theorem State.report_phases (s : State) (c : BitVec 16) (info : Nat) : (s.report c info).phases = s.phases := rfl
@[simp] theorem State.report_jobs (s : State) (c : BitVec 16) (info : Nat) : (s.report c info).jobs = s.jobs := rfl
@[simp] theorem State.report_nextLevel (s : State) (c : BitVec 16) (info : Nat) : (s.report c info).nextLevel = s.nextLevel := rfl
@[simp] theorem State.report_hostQs (s : State) (c : BitVec 16) (info : Nat) : (s.report c info).hostQs = s.hostQs := rfl
@[simp] theorem State.report_kickmap (s : State) (c : BitVec 16) (info : Nat) : (s.report c info).kickmap = s.kickmap := rfl
@[simp] theorem State.report_poolFree (s : State) (c : BitVec 16) (info : Nat) : (s.report c info).poolFree = s.poolFree := rfl
@[simp] theorem State.report_admitCtr (s : State) (c : BitVec 16) (info : Nat) : (s.report c info).admitCtr = s.admitCtr := rfl
@[simp] theorem State.report_saved (s : State) (c : BitVec 16) (info : Nat) : (s.report c info).saved = s.saved := rfl
@[simp] theorem State.report_takeovers (s : State) (c : BitVec 16) (info : Nat) : (s.report c info).takeovers = s.takeovers := rfl
@[simp] theorem State.report_gate (s : State) (c : BitVec 16) (info : Nat) : (s.report c info).gate = s.gate := rfl
@[simp] theorem State.report_active (s : State) (c : BitVec 16) (info : Nat) : (s.report c info).active = s.active := rfl
@[simp] theorem State.report_standby (s : State) (c : BitVec 16) (info : Nat) : (s.report c info).standby = s.standby := rfl
@[simp] theorem State.report_halted0 (s : State) (c : BitVec 16) (info : Nat) : (s.report c info).halted0 = s.halted0 := rfl
@[simp] theorem State.report_halted1 (s : State) (c : BitVec 16) (info : Nat) : (s.report c info).halted1 = s.halted1 := rfl
@[simp] theorem State.report_heldWords (s : State) (c : BitVec 16) (info : Nat) : (s.report c info).heldWords = s.heldWords := rfl
@[simp] theorem State.report_journal (s : State) (c : BitVec 16) (info : Nat) : (s.report c info).journal = s.journal := rfl
@[simp] theorem State.report_checkpoint (s : State) (c : BitVec 16) (info : Nat) : (s.report c info).checkpoint = s.checkpoint := rfl
@[simp] theorem State.report_tables (s : State) (c : BitVec 16) (info : Nat) : (s.report c info).tables = s.tables := rfl
@[simp] theorem State.report_coreMem0 (s : State) (c : BitVec 16) (info : Nat) : (s.report c info).coreMem0 = s.coreMem0 := rfl
@[simp] theorem State.report_coreMem1 (s : State) (c : BitVec 16) (info : Nat) : (s.report c info).coreMem1 = s.coreMem1 := rfl
@[simp] theorem State.report_coreBad (s : State) (c : BitVec 16) (info : Nat) : (s.report c info).coreBad = s.coreBad := rfl
@[simp] theorem State.report_parts (s : State) (c : BitVec 16) (info : Nat) : (s.report c info).parts = s.parts := rfl
@[simp] theorem State.report_ctxs (s : State) (c : BitVec 16) (info : Nat) : (s.report c info).ctxs = s.ctxs := rfl
@[simp] theorem State.report_hubTlbs (s : State) (c : BitVec 16) (info : Nat) : (s.report c info).hubTlbs = s.hubTlbs := rfl
@[simp] theorem State.report_invals (s : State) (c : BitVec 16) (info : Nat) : (s.report c info).invals = s.invals := rfl
@[simp] theorem State.report_bias (s : State) (c : BitVec 16) (info : Nat) : (s.report c info).bias = s.bias := rfl
@[simp] theorem State.report_ttimeout (s : State) (c : BitVec 16) (info : Nat) : (s.report c info).ttimeout = s.ttimeout := rfl
@[simp] theorem State.report_txTags (s : State) (c : BitVec 16) (info : Nat) : (s.report c info).txTags = s.txTags := rfl
@[simp] theorem State.report_keys (s : State) (c : BitVec 16) (info : Nat) : (s.report c info).keys = s.keys := rfl
@[simp] theorem State.report_routes (s : State) (c : BitVec 16) (info : Nat) : (s.report c info).routes = s.routes := rfl
@[simp] theorem State.report_flitRetries (s : State) (c : BitVec 16) (info : Nat) : (s.report c info).flitRetries = s.flitRetries := rfl
@[simp] theorem State.report_outReplies (s : State) (c : BitVec 16) (info : Nat) : (s.report c info).outReplies = s.outReplies := rfl
@[simp] theorem State.report_portLanes (s : State) (c : BitVec 16) (info : Nat) : (s.report c info).portLanes = s.portLanes := rfl
@[simp] theorem State.report_fenced (s : State) (c : BitVec 16) (info : Nat) : (s.report c info).fenced = s.fenced := rfl
@[simp] theorem State.report_pchFenced (s : State) (c : BitVec 16) (info : Nat) : (s.report c info).pchFenced = s.pchFenced := rfl
@[simp] theorem State.report_fuses (s : State) (c : BitVec 16) (info : Nat) : (s.report c info).fuses = s.fuses := rfl
@[simp] theorem State.report_inReset (s : State) (c : BitVec 16) (info : Nat) : (s.report c info).inReset = s.inReset := rfl
@[simp] theorem State.report_recovery (s : State) (c : BitVec 16) (info : Nat) : (s.report c info).recovery = s.recovery := rfl
@[simp] theorem State.report_ide (s : State) (c : BitVec 16) (info : Nat) : (s.report c info).ide = s.ide := rfl
@[simp] theorem State.report_measure (s : State) (c : BitVec 16) (info : Nat) : (s.report c info).measure = s.measure := rfl
@[simp] theorem State.report_slotUsed (s : State) (c : BitVec 16) (info : Nat) : (s.report c info).slotUsed = s.slotUsed := rfl
@[simp] theorem State.report_session (s : State) (c : BitVec 16) (info : Nat) : (s.report c info).session = s.session := rfl
@[simp] theorem State.report_spdmOut (s : State) (c : BitVec 16) (info : Nat) : (s.report c info).spdmOut = s.spdmOut := rfl
@[simp] theorem State.report_identity (s : State) (c : BitVec 16) (info : Nat) : (s.report c info).identity = s.identity := rfl
@[simp] theorem State.report_irqs (s : State) (c : BitVec 16) (info : Nat) : (s.report c info).irqs = s.irqs := rfl
@[simp] theorem State.report_msix (s : State) (c : BitVec 16) (info : Nat) : (s.report c info).msix = s.msix := rfl
@[simp] theorem State.report_msixPend (s : State) (c : BitVec 16) (info : Nat) : (s.report c info).msixPend = s.msixPend := rfl
@[simp] theorem State.report_bgStatus (s : State) (c : BitVec 16) (info : Nat) : (s.report c info).bgStatus = s.bgStatus := rfl
@[simp] theorem State.report_hostData (s : State) (c : BitVec 16) (info : Nat) : (s.report c info).hostData = s.hostData := rfl
@[simp] theorem State.report_mbox (s : State) (c : BitVec 16) (info : Nat) : (s.report c info).mbox = s.mbox := rfl
@[simp] theorem State.report_mboxBusy (s : State) (c : BitVec 16) (info : Nat) : (s.report c info).mboxBusy = s.mboxBusy := rfl
@[simp] theorem State.report_powerLimit (s : State) (c : BitVec 16) (info : Nat) : (s.report c info).powerLimit = s.powerLimit := rfl
@[simp] theorem State.report_mhz (s : State) (c : BitVec 16) (info : Nat) : (s.report c info).mhz = s.mhz := rfl
@[simp] theorem State.report_thermal (s : State) (c : BitVec 16) (info : Nat) : (s.report c info).thermal = s.thermal := rfl

@[simp] theorem State.send_ct (s : State) (m : Msg) (op : Instr) (t : TileNo) : (s.send m op t).ct = s.ct := rfl
@[simp] theorem State.send_cs (s : State) (m : Msg) (op : Instr) (t : TileNo) : (s.send m op t).cs = s.cs := rfl
@[simp] theorem State.send_ev (s : State) (m : Msg) (op : Instr) (t : TileNo) : (s.send m op t).ev = s.ev := rfl
@[simp] theorem State.send_agenda (s : State) (m : Msg) (op : Instr) (t : TileNo) : (s.send m op t).agenda = s.agenda := rfl
@[simp] theorem State.send_slots (s : State) (m : Msg) (op : Instr) (t : TileNo) : (s.send m op t).slots = s.slots := rfl
@[simp] theorem State.send_late (s : State) (m : Msg) (op : Instr) (t : TileNo) : (s.send m op t).late = s.late := rfl
@[simp] theorem State.send_lateQ (s : State) (m : Msg) (op : Instr) (t : TileNo) : (s.send m op t).lateQ = s.lateQ := rfl
@[simp] theorem State.send_queueQ (s : State) (m : Msg) (op : Instr) (t : TileNo) : (s.send m op t).queueQ = s.queueQ := rfl
@[simp] theorem State.send_steals (s : State) (m : Msg) (op : Instr) (t : TileNo) : (s.send m op t).steals = s.steals := rfl
@[simp] theorem State.send_waiters (s : State) (m : Msg) (op : Instr) (t : TileNo) : (s.send m op t).waiters = s.waiters := rfl
@[simp] theorem State.send_clock (s : State) (m : Msg) (op : Instr) (t : TileNo) : (s.send m op t).clock = s.clock := rfl
@[simp] theorem State.send_fabric (s : State) (m : Msg) (op : Instr) (t : TileNo) : (s.send m op t).fabric = s.fabric := rfl
@[simp] theorem State.send_fabFrac (s : State) (m : Msg) (op : Instr) (t : TileNo) : (s.send m op t).fabFrac = s.fabFrac := rfl
@[simp] theorem State.send_mem (s : State) (m : Msg) (op : Instr) (t : TileNo) : (s.send m op t).mem = s.mem := rfl
@[simp] theorem State.send_ecc (s : State) (m : Msg) (op : Instr) (t : TileNo) : (s.send m op t).ecc = s.ecc := rfl
@[simp] theorem State.send_bankUse (s : State) (m : Msg) (op : Instr) (t : TileNo) : (s.send m op t).bankUse = s.bankUse := rfl
@[simp] theorem State.send_bankWon (s : State) (m : Msg) (op : Instr) (t : TileNo) : (s.send m op t).bankWon = s.bankWon := rfl
@[simp] theorem State.send_tiles (s : State) (m : Msg) (op : Instr) (t : TileNo) : (s.send m op t).tiles = s.tiles := rfl
@[simp] theorem State.send_routers (s : State) (m : Msg) (op : Instr) (t : TileNo) : (s.send m op t).routers = s.routers := rfl
@[simp] theorem State.send_tags (s : State) (m : Msg) (op : Instr) (t : TileNo) : (s.send m op t).tags = s.tags := rfl
@[simp] theorem State.send_buses (s : State) (m : Msg) (op : Instr) (t : TileNo) : (s.send m op t).buses = s.buses := rfl
@[simp] theorem State.send_launches (s : State) (m : Msg) (op : Instr) (t : TileNo) : (s.send m op t).launches = s.launches := rfl
@[simp] theorem State.send_nextLaunch (s : State) (m : Msg) (op : Instr) (t : TileNo) : (s.send m op t).nextLaunch = s.nextLaunch := rfl
@[simp] theorem State.send_graphs (s : State) (m : Msg) (op : Instr) (t : TileNo) : (s.send m op t).graphs = s.graphs := rfl
@[simp] theorem State.send_phases (s : State) (m : Msg) (op : Instr) (t : TileNo) : (s.send m op t).phases = s.phases := rfl
@[simp] theorem State.send_jobs (s : State) (m : Msg) (op : Instr) (t : TileNo) : (s.send m op t).jobs = s.jobs := rfl
@[simp] theorem State.send_nextLevel (s : State) (m : Msg) (op : Instr) (t : TileNo) : (s.send m op t).nextLevel = s.nextLevel := rfl
@[simp] theorem State.send_hostQs (s : State) (m : Msg) (op : Instr) (t : TileNo) : (s.send m op t).hostQs = s.hostQs := rfl
@[simp] theorem State.send_kickmap (s : State) (m : Msg) (op : Instr) (t : TileNo) : (s.send m op t).kickmap = s.kickmap := rfl
@[simp] theorem State.send_poolFree (s : State) (m : Msg) (op : Instr) (t : TileNo) : (s.send m op t).poolFree = s.poolFree := rfl
@[simp] theorem State.send_admitCtr (s : State) (m : Msg) (op : Instr) (t : TileNo) : (s.send m op t).admitCtr = s.admitCtr := rfl
@[simp] theorem State.send_saved (s : State) (m : Msg) (op : Instr) (t : TileNo) : (s.send m op t).saved = s.saved := rfl
@[simp] theorem State.send_takeovers (s : State) (m : Msg) (op : Instr) (t : TileNo) : (s.send m op t).takeovers = s.takeovers := rfl
@[simp] theorem State.send_gate (s : State) (m : Msg) (op : Instr) (t : TileNo) : (s.send m op t).gate = s.gate := rfl
@[simp] theorem State.send_active (s : State) (m : Msg) (op : Instr) (t : TileNo) : (s.send m op t).active = s.active := rfl
@[simp] theorem State.send_standby (s : State) (m : Msg) (op : Instr) (t : TileNo) : (s.send m op t).standby = s.standby := rfl
@[simp] theorem State.send_halted0 (s : State) (m : Msg) (op : Instr) (t : TileNo) : (s.send m op t).halted0 = s.halted0 := rfl
@[simp] theorem State.send_halted1 (s : State) (m : Msg) (op : Instr) (t : TileNo) : (s.send m op t).halted1 = s.halted1 := rfl
@[simp] theorem State.send_heldWords (s : State) (m : Msg) (op : Instr) (t : TileNo) : (s.send m op t).heldWords = s.heldWords := rfl
@[simp] theorem State.send_journal (s : State) (m : Msg) (op : Instr) (t : TileNo) : (s.send m op t).journal = s.journal := rfl
@[simp] theorem State.send_checkpoint (s : State) (m : Msg) (op : Instr) (t : TileNo) : (s.send m op t).checkpoint = s.checkpoint := rfl
@[simp] theorem State.send_tables (s : State) (m : Msg) (op : Instr) (t : TileNo) : (s.send m op t).tables = s.tables := rfl
@[simp] theorem State.send_coreMem0 (s : State) (m : Msg) (op : Instr) (t : TileNo) : (s.send m op t).coreMem0 = s.coreMem0 := rfl
@[simp] theorem State.send_coreMem1 (s : State) (m : Msg) (op : Instr) (t : TileNo) : (s.send m op t).coreMem1 = s.coreMem1 := rfl
@[simp] theorem State.send_coreBad (s : State) (m : Msg) (op : Instr) (t : TileNo) : (s.send m op t).coreBad = s.coreBad := rfl
@[simp] theorem State.send_parts (s : State) (m : Msg) (op : Instr) (t : TileNo) : (s.send m op t).parts = s.parts := rfl
@[simp] theorem State.send_ctxs (s : State) (m : Msg) (op : Instr) (t : TileNo) : (s.send m op t).ctxs = s.ctxs := rfl
@[simp] theorem State.send_hubTlbs (s : State) (m : Msg) (op : Instr) (t : TileNo) : (s.send m op t).hubTlbs = s.hubTlbs := rfl
@[simp] theorem State.send_invals (s : State) (m : Msg) (op : Instr) (t : TileNo) : (s.send m op t).invals = s.invals := rfl
@[simp] theorem State.send_bias (s : State) (m : Msg) (op : Instr) (t : TileNo) : (s.send m op t).bias = s.bias := rfl
@[simp] theorem State.send_ttimeout (s : State) (m : Msg) (op : Instr) (t : TileNo) : (s.send m op t).ttimeout = s.ttimeout := rfl
@[simp] theorem State.send_txTags (s : State) (m : Msg) (op : Instr) (t : TileNo) : (s.send m op t).txTags = s.txTags := rfl
@[simp] theorem State.send_keys (s : State) (m : Msg) (op : Instr) (t : TileNo) : (s.send m op t).keys = s.keys := rfl
@[simp] theorem State.send_routes (s : State) (m : Msg) (op : Instr) (t : TileNo) : (s.send m op t).routes = s.routes := rfl
@[simp] theorem State.send_flitRetries (s : State) (m : Msg) (op : Instr) (t : TileNo) : (s.send m op t).flitRetries = s.flitRetries := rfl
@[simp] theorem State.send_outReplies (s : State) (m : Msg) (op : Instr) (t : TileNo) : (s.send m op t).outReplies = s.outReplies := rfl
@[simp] theorem State.send_portLanes (s : State) (m : Msg) (op : Instr) (t : TileNo) : (s.send m op t).portLanes = s.portLanes := rfl
@[simp] theorem State.send_fenced (s : State) (m : Msg) (op : Instr) (t : TileNo) : (s.send m op t).fenced = s.fenced := rfl
@[simp] theorem State.send_pchFenced (s : State) (m : Msg) (op : Instr) (t : TileNo) : (s.send m op t).pchFenced = s.pchFenced := rfl
@[simp] theorem State.send_fuses (s : State) (m : Msg) (op : Instr) (t : TileNo) : (s.send m op t).fuses = s.fuses := rfl
@[simp] theorem State.send_inReset (s : State) (m : Msg) (op : Instr) (t : TileNo) : (s.send m op t).inReset = s.inReset := rfl
@[simp] theorem State.send_recovery (s : State) (m : Msg) (op : Instr) (t : TileNo) : (s.send m op t).recovery = s.recovery := rfl
@[simp] theorem State.send_ide (s : State) (m : Msg) (op : Instr) (t : TileNo) : (s.send m op t).ide = s.ide := rfl
@[simp] theorem State.send_measure (s : State) (m : Msg) (op : Instr) (t : TileNo) : (s.send m op t).measure = s.measure := rfl
@[simp] theorem State.send_slotUsed (s : State) (m : Msg) (op : Instr) (t : TileNo) : (s.send m op t).slotUsed = s.slotUsed := rfl
@[simp] theorem State.send_session (s : State) (m : Msg) (op : Instr) (t : TileNo) : (s.send m op t).session = s.session := rfl
@[simp] theorem State.send_spdmOut (s : State) (m : Msg) (op : Instr) (t : TileNo) : (s.send m op t).spdmOut = s.spdmOut := rfl
@[simp] theorem State.send_identity (s : State) (m : Msg) (op : Instr) (t : TileNo) : (s.send m op t).identity = s.identity := rfl
@[simp] theorem State.send_irqs (s : State) (m : Msg) (op : Instr) (t : TileNo) : (s.send m op t).irqs = s.irqs := rfl
@[simp] theorem State.send_msix (s : State) (m : Msg) (op : Instr) (t : TileNo) : (s.send m op t).msix = s.msix := rfl
@[simp] theorem State.send_msixPend (s : State) (m : Msg) (op : Instr) (t : TileNo) : (s.send m op t).msixPend = s.msixPend := rfl
@[simp] theorem State.send_bgStatus (s : State) (m : Msg) (op : Instr) (t : TileNo) : (s.send m op t).bgStatus = s.bgStatus := rfl
@[simp] theorem State.send_hostData (s : State) (m : Msg) (op : Instr) (t : TileNo) : (s.send m op t).hostData = s.hostData := rfl
@[simp] theorem State.send_reports (s : State) (m : Msg) (op : Instr) (t : TileNo) : (s.send m op t).reports = s.reports := rfl
@[simp] theorem State.send_mbox (s : State) (m : Msg) (op : Instr) (t : TileNo) : (s.send m op t).mbox = s.mbox := rfl
@[simp] theorem State.send_mboxBusy (s : State) (m : Msg) (op : Instr) (t : TileNo) : (s.send m op t).mboxBusy = s.mboxBusy := rfl
@[simp] theorem State.send_powerLimit (s : State) (m : Msg) (op : Instr) (t : TileNo) : (s.send m op t).powerLimit = s.powerLimit := rfl
@[simp] theorem State.send_mhz (s : State) (m : Msg) (op : Instr) (t : TileNo) : (s.send m op t).mhz = s.mhz := rfl
@[simp] theorem State.send_thermal (s : State) (m : Msg) (op : Instr) (t : TileNo) : (s.send m op t).thermal = s.thermal := rfl

@[simp] theorem State.unsend_ct (s : State) (n : Nat) : (s.unsend n).ct = s.ct := rfl
@[simp] theorem State.unsend_cs (s : State) (n : Nat) : (s.unsend n).cs = s.cs := rfl
@[simp] theorem State.unsend_ev (s : State) (n : Nat) : (s.unsend n).ev = s.ev := rfl
@[simp] theorem State.unsend_agenda (s : State) (n : Nat) : (s.unsend n).agenda = s.agenda := rfl
@[simp] theorem State.unsend_slots (s : State) (n : Nat) : (s.unsend n).slots = s.slots := rfl
@[simp] theorem State.unsend_late (s : State) (n : Nat) : (s.unsend n).late = s.late := rfl
@[simp] theorem State.unsend_lateQ (s : State) (n : Nat) : (s.unsend n).lateQ = s.lateQ := rfl
@[simp] theorem State.unsend_queueQ (s : State) (n : Nat) : (s.unsend n).queueQ = s.queueQ := rfl
@[simp] theorem State.unsend_steals (s : State) (n : Nat) : (s.unsend n).steals = s.steals := rfl
@[simp] theorem State.unsend_timers (s : State) (n : Nat) : (s.unsend n).timers = s.timers := rfl
@[simp] theorem State.unsend_waiters (s : State) (n : Nat) : (s.unsend n).waiters = s.waiters := rfl
@[simp] theorem State.unsend_clock (s : State) (n : Nat) : (s.unsend n).clock = s.clock := rfl
@[simp] theorem State.unsend_fabric (s : State) (n : Nat) : (s.unsend n).fabric = s.fabric := rfl
@[simp] theorem State.unsend_fabFrac (s : State) (n : Nat) : (s.unsend n).fabFrac = s.fabFrac := rfl
@[simp] theorem State.unsend_fresh (s : State) (n : Nat) : (s.unsend n).fresh = s.fresh := rfl
@[simp] theorem State.unsend_nextId (s : State) (n : Nat) : (s.unsend n).nextId = s.nextId := rfl
@[simp] theorem State.unsend_mem (s : State) (n : Nat) : (s.unsend n).mem = s.mem := rfl
@[simp] theorem State.unsend_ecc (s : State) (n : Nat) : (s.unsend n).ecc = s.ecc := rfl
@[simp] theorem State.unsend_bankUse (s : State) (n : Nat) : (s.unsend n).bankUse = s.bankUse := rfl
@[simp] theorem State.unsend_bankWon (s : State) (n : Nat) : (s.unsend n).bankWon = s.bankWon := rfl
@[simp] theorem State.unsend_tiles (s : State) (n : Nat) : (s.unsend n).tiles = s.tiles := rfl
@[simp] theorem State.unsend_routers (s : State) (n : Nat) : (s.unsend n).routers = s.routers := rfl
@[simp] theorem State.unsend_tags (s : State) (n : Nat) : (s.unsend n).tags = s.tags := rfl
@[simp] theorem State.unsend_buses (s : State) (n : Nat) : (s.unsend n).buses = s.buses := rfl
@[simp] theorem State.unsend_launches (s : State) (n : Nat) : (s.unsend n).launches = s.launches := rfl
@[simp] theorem State.unsend_nextLaunch (s : State) (n : Nat) : (s.unsend n).nextLaunch = s.nextLaunch := rfl
@[simp] theorem State.unsend_graphs (s : State) (n : Nat) : (s.unsend n).graphs = s.graphs := rfl
@[simp] theorem State.unsend_phases (s : State) (n : Nat) : (s.unsend n).phases = s.phases := rfl
@[simp] theorem State.unsend_jobs (s : State) (n : Nat) : (s.unsend n).jobs = s.jobs := rfl
@[simp] theorem State.unsend_nextLevel (s : State) (n : Nat) : (s.unsend n).nextLevel = s.nextLevel := rfl
@[simp] theorem State.unsend_hostQs (s : State) (n : Nat) : (s.unsend n).hostQs = s.hostQs := rfl
@[simp] theorem State.unsend_kickmap (s : State) (n : Nat) : (s.unsend n).kickmap = s.kickmap := rfl
@[simp] theorem State.unsend_poolFree (s : State) (n : Nat) : (s.unsend n).poolFree = s.poolFree := rfl
@[simp] theorem State.unsend_admitCtr (s : State) (n : Nat) : (s.unsend n).admitCtr = s.admitCtr := rfl
@[simp] theorem State.unsend_saved (s : State) (n : Nat) : (s.unsend n).saved = s.saved := rfl
@[simp] theorem State.unsend_takeovers (s : State) (n : Nat) : (s.unsend n).takeovers = s.takeovers := rfl
@[simp] theorem State.unsend_gate (s : State) (n : Nat) : (s.unsend n).gate = s.gate := rfl
@[simp] theorem State.unsend_active (s : State) (n : Nat) : (s.unsend n).active = s.active := rfl
@[simp] theorem State.unsend_standby (s : State) (n : Nat) : (s.unsend n).standby = s.standby := rfl
@[simp] theorem State.unsend_halted0 (s : State) (n : Nat) : (s.unsend n).halted0 = s.halted0 := rfl
@[simp] theorem State.unsend_halted1 (s : State) (n : Nat) : (s.unsend n).halted1 = s.halted1 := rfl
@[simp] theorem State.unsend_heldWords (s : State) (n : Nat) : (s.unsend n).heldWords = s.heldWords := rfl
@[simp] theorem State.unsend_journal (s : State) (n : Nat) : (s.unsend n).journal = s.journal := rfl
@[simp] theorem State.unsend_checkpoint (s : State) (n : Nat) : (s.unsend n).checkpoint = s.checkpoint := rfl
@[simp] theorem State.unsend_tables (s : State) (n : Nat) : (s.unsend n).tables = s.tables := rfl
@[simp] theorem State.unsend_coreMem0 (s : State) (n : Nat) : (s.unsend n).coreMem0 = s.coreMem0 := rfl
@[simp] theorem State.unsend_coreMem1 (s : State) (n : Nat) : (s.unsend n).coreMem1 = s.coreMem1 := rfl
@[simp] theorem State.unsend_coreBad (s : State) (n : Nat) : (s.unsend n).coreBad = s.coreBad := rfl
@[simp] theorem State.unsend_parts (s : State) (n : Nat) : (s.unsend n).parts = s.parts := rfl
@[simp] theorem State.unsend_ctxs (s : State) (n : Nat) : (s.unsend n).ctxs = s.ctxs := rfl
@[simp] theorem State.unsend_hubTlbs (s : State) (n : Nat) : (s.unsend n).hubTlbs = s.hubTlbs := rfl
@[simp] theorem State.unsend_invals (s : State) (n : Nat) : (s.unsend n).invals = s.invals := rfl
@[simp] theorem State.unsend_bias (s : State) (n : Nat) : (s.unsend n).bias = s.bias := rfl
@[simp] theorem State.unsend_ttimeout (s : State) (n : Nat) : (s.unsend n).ttimeout = s.ttimeout := rfl
@[simp] theorem State.unsend_txTags (s : State) (n : Nat) : (s.unsend n).txTags = s.txTags := rfl
@[simp] theorem State.unsend_keys (s : State) (n : Nat) : (s.unsend n).keys = s.keys := rfl
@[simp] theorem State.unsend_routes (s : State) (n : Nat) : (s.unsend n).routes = s.routes := rfl
@[simp] theorem State.unsend_flitRetries (s : State) (n : Nat) : (s.unsend n).flitRetries = s.flitRetries := rfl
@[simp] theorem State.unsend_outReplies (s : State) (n : Nat) : (s.unsend n).outReplies = s.outReplies := rfl
@[simp] theorem State.unsend_portLanes (s : State) (n : Nat) : (s.unsend n).portLanes = s.portLanes := rfl
@[simp] theorem State.unsend_fenced (s : State) (n : Nat) : (s.unsend n).fenced = s.fenced := rfl
@[simp] theorem State.unsend_pchFenced (s : State) (n : Nat) : (s.unsend n).pchFenced = s.pchFenced := rfl
@[simp] theorem State.unsend_fuses (s : State) (n : Nat) : (s.unsend n).fuses = s.fuses := rfl
@[simp] theorem State.unsend_inReset (s : State) (n : Nat) : (s.unsend n).inReset = s.inReset := rfl
@[simp] theorem State.unsend_recovery (s : State) (n : Nat) : (s.unsend n).recovery = s.recovery := rfl
@[simp] theorem State.unsend_ide (s : State) (n : Nat) : (s.unsend n).ide = s.ide := rfl
@[simp] theorem State.unsend_measure (s : State) (n : Nat) : (s.unsend n).measure = s.measure := rfl
@[simp] theorem State.unsend_slotUsed (s : State) (n : Nat) : (s.unsend n).slotUsed = s.slotUsed := rfl
@[simp] theorem State.unsend_session (s : State) (n : Nat) : (s.unsend n).session = s.session := rfl
@[simp] theorem State.unsend_spdmOut (s : State) (n : Nat) : (s.unsend n).spdmOut = s.spdmOut := rfl
@[simp] theorem State.unsend_identity (s : State) (n : Nat) : (s.unsend n).identity = s.identity := rfl
@[simp] theorem State.unsend_irqs (s : State) (n : Nat) : (s.unsend n).irqs = s.irqs := rfl
@[simp] theorem State.unsend_msix (s : State) (n : Nat) : (s.unsend n).msix = s.msix := rfl
@[simp] theorem State.unsend_msixPend (s : State) (n : Nat) : (s.unsend n).msixPend = s.msixPend := rfl
@[simp] theorem State.unsend_bgStatus (s : State) (n : Nat) : (s.unsend n).bgStatus = s.bgStatus := rfl
@[simp] theorem State.unsend_hostData (s : State) (n : Nat) : (s.unsend n).hostData = s.hostData := rfl
@[simp] theorem State.unsend_reports (s : State) (n : Nat) : (s.unsend n).reports = s.reports := rfl
@[simp] theorem State.unsend_mbox (s : State) (n : Nat) : (s.unsend n).mbox = s.mbox := rfl
@[simp] theorem State.unsend_mboxBusy (s : State) (n : Nat) : (s.unsend n).mboxBusy = s.mboxBusy := rfl
@[simp] theorem State.unsend_powerLimit (s : State) (n : Nat) : (s.unsend n).powerLimit = s.powerLimit := rfl
@[simp] theorem State.unsend_mhz (s : State) (n : Nat) : (s.unsend n).mhz = s.mhz := rfl
@[simp] theorem State.unsend_thermal (s : State) (n : Nat) : (s.unsend n).thermal = s.thermal := rfl

@[simp] theorem State.advance_ct (s : State) : (s.advance).ct = s.ct := rfl
@[simp] theorem State.advance_cs (s : State) : (s.advance).cs = s.cs := rfl
@[simp] theorem State.advance_ev (s : State) : (s.advance).ev = s.ev := rfl
@[simp] theorem State.advance_agenda (s : State) : (s.advance).agenda = s.agenda := rfl
@[simp] theorem State.advance_slots (s : State) : (s.advance).slots = s.slots := rfl
@[simp] theorem State.advance_late (s : State) : (s.advance).late = s.late := rfl
@[simp] theorem State.advance_lateQ (s : State) : (s.advance).lateQ = s.lateQ := rfl
@[simp] theorem State.advance_queueQ (s : State) : (s.advance).queueQ = s.queueQ := rfl
@[simp] theorem State.advance_steals (s : State) : (s.advance).steals = s.steals := rfl
@[simp] theorem State.advance_timers (s : State) : (s.advance).timers = s.timers := rfl
@[simp] theorem State.advance_waiters (s : State) : (s.advance).waiters = s.waiters := rfl
@[simp] theorem State.advance_clock (s : State) : (s.advance).clock = s.clock := rfl
@[simp] theorem State.advance_fabric (s : State) : (s.advance).fabric = s.fabric := rfl
@[simp] theorem State.advance_fabFrac (s : State) : (s.advance).fabFrac = s.fabFrac := rfl
@[simp] theorem State.advance_fresh (s : State) : (s.advance).fresh = s.fresh := rfl
@[simp] theorem State.advance_nextId (s : State) : (s.advance).nextId = s.nextId := rfl
@[simp] theorem State.advance_mem (s : State) : (s.advance).mem = s.mem := rfl
@[simp] theorem State.advance_ecc (s : State) : (s.advance).ecc = s.ecc := rfl
@[simp] theorem State.advance_bankUse (s : State) : (s.advance).bankUse = s.bankUse := rfl
@[simp] theorem State.advance_bankWon (s : State) : (s.advance).bankWon = s.bankWon := rfl
@[simp] theorem State.advance_routers (s : State) : (s.advance).routers = s.routers := rfl
@[simp] theorem State.advance_tags (s : State) : (s.advance).tags = s.tags := rfl
@[simp] theorem State.advance_buses (s : State) : (s.advance).buses = s.buses := rfl
@[simp] theorem State.advance_msgs (s : State) : (s.advance).msgs = s.msgs := rfl
@[simp] theorem State.advance_launches (s : State) : (s.advance).launches = s.launches := rfl
@[simp] theorem State.advance_nextLaunch (s : State) : (s.advance).nextLaunch = s.nextLaunch := rfl
@[simp] theorem State.advance_graphs (s : State) : (s.advance).graphs = s.graphs := rfl
@[simp] theorem State.advance_phases (s : State) : (s.advance).phases = s.phases := rfl
@[simp] theorem State.advance_jobs (s : State) : (s.advance).jobs = s.jobs := rfl
@[simp] theorem State.advance_nextLevel (s : State) : (s.advance).nextLevel = s.nextLevel := rfl
@[simp] theorem State.advance_hostQs (s : State) : (s.advance).hostQs = s.hostQs := rfl
@[simp] theorem State.advance_kickmap (s : State) : (s.advance).kickmap = s.kickmap := rfl
@[simp] theorem State.advance_poolFree (s : State) : (s.advance).poolFree = s.poolFree := rfl
@[simp] theorem State.advance_admitCtr (s : State) : (s.advance).admitCtr = s.admitCtr := rfl
@[simp] theorem State.advance_saved (s : State) : (s.advance).saved = s.saved := rfl
@[simp] theorem State.advance_takeovers (s : State) : (s.advance).takeovers = s.takeovers := rfl
@[simp] theorem State.advance_gate (s : State) : (s.advance).gate = s.gate := rfl
@[simp] theorem State.advance_active (s : State) : (s.advance).active = s.active := rfl
@[simp] theorem State.advance_standby (s : State) : (s.advance).standby = s.standby := rfl
@[simp] theorem State.advance_halted0 (s : State) : (s.advance).halted0 = s.halted0 := rfl
@[simp] theorem State.advance_halted1 (s : State) : (s.advance).halted1 = s.halted1 := rfl
@[simp] theorem State.advance_heldWords (s : State) : (s.advance).heldWords = s.heldWords := rfl
@[simp] theorem State.advance_journal (s : State) : (s.advance).journal = s.journal := rfl
@[simp] theorem State.advance_checkpoint (s : State) : (s.advance).checkpoint = s.checkpoint := rfl
@[simp] theorem State.advance_tables (s : State) : (s.advance).tables = s.tables := rfl
@[simp] theorem State.advance_coreMem0 (s : State) : (s.advance).coreMem0 = s.coreMem0 := rfl
@[simp] theorem State.advance_coreMem1 (s : State) : (s.advance).coreMem1 = s.coreMem1 := rfl
@[simp] theorem State.advance_coreBad (s : State) : (s.advance).coreBad = s.coreBad := rfl
@[simp] theorem State.advance_parts (s : State) : (s.advance).parts = s.parts := rfl
@[simp] theorem State.advance_ctxs (s : State) : (s.advance).ctxs = s.ctxs := rfl
@[simp] theorem State.advance_hubTlbs (s : State) : (s.advance).hubTlbs = s.hubTlbs := rfl
@[simp] theorem State.advance_invals (s : State) : (s.advance).invals = s.invals := rfl
@[simp] theorem State.advance_bias (s : State) : (s.advance).bias = s.bias := rfl
@[simp] theorem State.advance_ttimeout (s : State) : (s.advance).ttimeout = s.ttimeout := rfl
@[simp] theorem State.advance_txTags (s : State) : (s.advance).txTags = s.txTags := rfl
@[simp] theorem State.advance_keys (s : State) : (s.advance).keys = s.keys := rfl
@[simp] theorem State.advance_routes (s : State) : (s.advance).routes = s.routes := rfl
@[simp] theorem State.advance_flitRetries (s : State) : (s.advance).flitRetries = s.flitRetries := rfl
@[simp] theorem State.advance_outReplies (s : State) : (s.advance).outReplies = s.outReplies := rfl
@[simp] theorem State.advance_portLanes (s : State) : (s.advance).portLanes = s.portLanes := rfl
@[simp] theorem State.advance_fenced (s : State) : (s.advance).fenced = s.fenced := rfl
@[simp] theorem State.advance_pchFenced (s : State) : (s.advance).pchFenced = s.pchFenced := rfl
@[simp] theorem State.advance_fuses (s : State) : (s.advance).fuses = s.fuses := rfl
@[simp] theorem State.advance_inReset (s : State) : (s.advance).inReset = s.inReset := rfl
@[simp] theorem State.advance_recovery (s : State) : (s.advance).recovery = s.recovery := rfl
@[simp] theorem State.advance_ide (s : State) : (s.advance).ide = s.ide := rfl
@[simp] theorem State.advance_measure (s : State) : (s.advance).measure = s.measure := rfl
@[simp] theorem State.advance_slotUsed (s : State) : (s.advance).slotUsed = s.slotUsed := rfl
@[simp] theorem State.advance_session (s : State) : (s.advance).session = s.session := rfl
@[simp] theorem State.advance_spdmOut (s : State) : (s.advance).spdmOut = s.spdmOut := rfl
@[simp] theorem State.advance_identity (s : State) : (s.advance).identity = s.identity := rfl
@[simp] theorem State.advance_irqs (s : State) : (s.advance).irqs = s.irqs := rfl
@[simp] theorem State.advance_msix (s : State) : (s.advance).msix = s.msix := rfl
@[simp] theorem State.advance_msixPend (s : State) : (s.advance).msixPend = s.msixPend := rfl
@[simp] theorem State.advance_bgStatus (s : State) : (s.advance).bgStatus = s.bgStatus := rfl
@[simp] theorem State.advance_hostData (s : State) : (s.advance).hostData = s.hostData := rfl
@[simp] theorem State.advance_reports (s : State) : (s.advance).reports = s.reports := rfl
@[simp] theorem State.advance_mbox (s : State) : (s.advance).mbox = s.mbox := rfl
@[simp] theorem State.advance_mboxBusy (s : State) : (s.advance).mboxBusy = s.mboxBusy := rfl
@[simp] theorem State.advance_powerLimit (s : State) : (s.advance).powerLimit = s.powerLimit := rfl
@[simp] theorem State.advance_mhz (s : State) : (s.advance).mhz = s.mhz := rfl
@[simp] theorem State.advance_thermal (s : State) : (s.advance).thermal = s.thermal := rfl

/-! ## What an update of a stream of a tile leaves unchanged -/

@[simp] theorem Tile.setStrm_ttick (u : Tile) (st : Stream) (z : Strm) : (u.setStrm st z).ttick = u.ttick := by cases st <;> rfl
@[simp] theorem Tile.setStrm_ecc (u : Tile) (st : Stream) (z : Strm) : (u.setStrm st z).ecc = u.ecc := by cases st <;> rfl
@[simp] theorem Tile.setStrm_eclk (u : Tile) (st : Stream) (z : Strm) : (u.setStrm st z).eclk = u.eclk := by cases st <;> rfl
@[simp] theorem Tile.setStrm_stretched (u : Tile) (st : Stream) (z : Strm) : (u.setStrm st z).stretched = u.stretched := by cases st <;> rfl
@[simp] theorem Tile.setStrm_stretchOver (u : Tile) (st : Stream) (z : Strm) : (u.setStrm st z).stretchOver = u.stretchOver := by cases st <;> rfl
@[simp] theorem Tile.setStrm_frozen (u : Tile) (st : Stream) (z : Strm) : (u.setStrm st z).frozen = u.frozen := by cases st <;> rfl
@[simp] theorem Tile.setStrm_haltBrk (u : Tile) (st : Stream) (z : Strm) : (u.setStrm st z).haltBrk = u.haltBrk := by cases st <;> rfl
@[simp] theorem Tile.setStrm_freezeReq (u : Tile) (st : Stream) (z : Strm) : (u.setStrm st z).freezeReq = u.freezeReq := by cases st <;> rfl
@[simp] theorem Tile.setStrm_unit (u : Tile) (st : Stream) (z : Strm) : (u.setStrm st z).unit = u.unit := by cases st <;> rfl
@[simp] theorem Tile.setStrm_zeroed (u : Tile) (st : Stream) (z : Strm) : (u.setStrm st z).zeroed = u.zeroed := by cases st <;> rfl
@[simp] theorem Tile.setStrm_fetchQ (u : Tile) (st : Stream) (z : Strm) : (u.setStrm st z).fetchQ = u.fetchQ := by cases st <;> rfl
@[simp] theorem Tile.setStrm_fetchedAt (u : Tile) (st : Stream) (z : Strm) : (u.setStrm st z).fetchedAt = u.fetchedAt := by cases st <;> rfl
@[simp] theorem Tile.setStrm_imem (u : Tile) (st : Stream) (z : Strm) : (u.setStrm st z).imem = u.imem := by cases st <;> rfl
@[simp] theorem Tile.setStrm_cbank (u : Tile) (st : Stream) (z : Strm) : (u.setStrm st z).cbank = u.cbank := by cases st <;> rfl
@[simp] theorem Tile.setStrm_spill (u : Tile) (st : Stream) (z : Strm) : (u.setStrm st z).spill = u.spill := by cases st <;> rfl
@[simp] theorem Tile.setStrm_spillPend (u : Tile) (st : Stream) (z : Strm) : (u.setStrm st z).spillPend = u.spillPend := by cases st <;> rfl
@[simp] theorem Tile.setStrm_emptyGr (u : Tile) (st : Stream) (z : Strm) : (u.setStrm st z).emptyGr = u.emptyGr := by cases st <;> rfl
@[simp] theorem Tile.setStrm_acc (u : Tile) (st : Stream) (z : Strm) : (u.setStrm st z).acc = u.acc := by cases st <;> rfl
@[simp] theorem Tile.setStrm_claim0 (u : Tile) (st : Stream) (z : Strm) : (u.setStrm st z).claim0 = u.claim0 := by cases st <;> rfl
@[simp] theorem Tile.setStrm_claim1 (u : Tile) (st : Stream) (z : Strm) : (u.setStrm st z).claim1 = u.claim1 := by cases st <;> rfl
@[simp] theorem Tile.setStrm_vtype (u : Tile) (st : Stream) (z : Strm) : (u.setStrm st z).vtype = u.vtype := by cases st <;> rfl
@[simp] theorem Tile.setStrm_vwbase (u : Tile) (st : Stream) (z : Strm) : (u.setStrm st z).vwbase = u.vwbase := by cases st <;> rfl
@[simp] theorem Tile.setStrm_masks (u : Tile) (st : Stream) (z : Strm) : (u.setStrm st z).masks = u.masks := by cases st <;> rfl
@[simp] theorem Tile.setStrm_pats (u : Tile) (st : Stream) (z : Strm) : (u.setStrm st z).pats = u.pats := by cases st <;> rfl
@[simp] theorem Tile.setStrm_cbs0 (u : Tile) (st : Stream) (z : Strm) : (u.setStrm st z).cbs0 = u.cbs0 := by cases st <;> rfl
@[simp] theorem Tile.setStrm_cbs (u : Tile) (st : Stream) (z : Strm) : (u.setStrm st z).cbs = u.cbs := by cases st <;> rfl
@[simp] theorem Tile.setStrm_bars (u : Tile) (st : Stream) (z : Strm) : (u.setStrm st z).bars = u.bars := by cases st <;> rfl
@[simp] theorem Tile.setStrm_barQ (u : Tile) (st : Stream) (z : Strm) : (u.setStrm st z).barQ = u.barQ := by cases st <;> rfl
@[simp] theorem Tile.setStrm_plane (u : Tile) (st : Stream) (z : Strm) : (u.setStrm st z).plane = u.plane := by cases st <;> rfl
@[simp] theorem Tile.setStrm_plane2 (u : Tile) (st : Stream) (z : Strm) : (u.setStrm st z).plane2 = u.plane2 := by cases st <;> rfl
@[simp] theorem Tile.setStrm_planeEnd (u : Tile) (st : Stream) (z : Strm) : (u.setStrm st z).planeEnd = u.planeEnd := by cases st <;> rfl
@[simp] theorem Tile.setStrm_handles (u : Tile) (st : Stream) (z : Strm) : (u.setStrm st z).handles = u.handles := by cases st <;> rfl
@[simp] theorem Tile.setStrm_pool (u : Tile) (st : Stream) (z : Strm) : (u.setStrm st z).pool = u.pool := by cases st <;> rfl
@[simp] theorem Tile.setStrm_window (u : Tile) (st : Stream) (z : Strm) : (u.setStrm st z).window = u.window := by cases st <;> rfl
@[simp] theorem Tile.setStrm_posts (u : Tile) (st : Stream) (z : Strm) : (u.setStrm st z).posts = u.posts := by cases st <;> rfl
@[simp] theorem Tile.setStrm_remoteQ (u : Tile) (st : Stream) (z : Strm) : (u.setStrm st z).remoteQ = u.remoteQ := by cases st <;> rfl
@[simp] theorem Tile.setStrm_seqCtr (u : Tile) (st : Stream) (z : Strm) : (u.setStrm st z).seqCtr = u.seqCtr := by cases st <;> rfl
@[simp] theorem Tile.setStrm_accCtr (u : Tile) (st : Stream) (z : Strm) : (u.setStrm st z).accCtr = u.accCtr := by cases st <;> rfl
@[simp] theorem Tile.setStrm_done (u : Tile) (st : Stream) (z : Strm) : (u.setStrm st z).done = u.done := by cases st <;> rfl
@[simp] theorem Tile.setStrm_firstBad (u : Tile) (st : Stream) (z : Strm) : (u.setStrm st z).firstBad = u.firstBad := by cases st <;> rfl
@[simp] theorem Tile.setStrm_drainedV (u : Tile) (st : Stream) (z : Strm) : (u.setStrm st z).drainedV = u.drainedV := by cases st <;> rfl
@[simp] theorem Tile.setStrm_drainedS (u : Tile) (st : Stream) (z : Strm) : (u.setStrm st z).drainedS = u.drainedS := by cases st <;> rfl
@[simp] theorem Tile.setStrm_planeA (u : Tile) (st : Stream) (z : Strm) : (u.setStrm st z).planeA = u.planeA := by cases st <;> rfl
@[simp] theorem Tile.setStrm_planeS (u : Tile) (st : Stream) (z : Strm) : (u.setStrm st z).planeS = u.planeS := by cases st <;> rfl
@[simp] theorem Tile.setStrm_shadowFull (u : Tile) (st : Stream) (z : Strm) : (u.setStrm st z).shadowFull = u.shadowFull := by cases st <;> rfl
@[simp] theorem Tile.setStrm_wload (u : Tile) (st : Stream) (z : Strm) : (u.setStrm st z).wload = u.wload := by cases st <;> rfl
@[simp] theorem Tile.setStrm_mat (u : Tile) (st : Stream) (z : Strm) : (u.setStrm st z).mat = u.mat := by cases st <;> rfl
@[simp] theorem Tile.setStrm_topk (u : Tile) (st : Stream) (z : Strm) : (u.setStrm st z).topk = u.topk := by cases st <;> rfl
@[simp] theorem Tile.setStrm_roll (u : Tile) (st : Stream) (z : Strm) : (u.setStrm st z).roll = u.roll := by cases st <;> rfl
@[simp] theorem Tile.setStrm_epochs (u : Tile) (st : Stream) (z : Strm) : (u.setStrm st z).epochs = u.epochs := by cases st <;> rfl
@[simp] theorem Tile.setStrm_demandQ (u : Tile) (st : Stream) (z : Strm) : (u.setStrm st z).demandQ = u.demandQ := by cases st <;> rfl
@[simp] theorem Tile.setStrm_softAt (u : Tile) (st : Stream) (z : Strm) : (u.setStrm st z).softAt = u.softAt := by cases st <;> rfl
@[simp] theorem Tile.setStrm_dequeEmpty (u : Tile) (st : Stream) (z : Strm) : (u.setStrm st z).dequeEmpty = u.dequeEmpty := by cases st <;> rfl
@[simp] theorem Tile.setStrm_deque (u : Tile) (st : Stream) (z : Strm) : (u.setStrm st z).deque = u.deque := by cases st <;> rfl
@[simp] theorem Tile.setStrm_condQ (u : Tile) (st : Stream) (z : Strm) : (u.setStrm st z).condQ = u.condQ := by cases st <;> rfl
@[simp] theorem Tile.setStrm_shots (u : Tile) (st : Stream) (z : Strm) : (u.setStrm st z).shots = u.shots := by cases st <;> rfl
@[simp] theorem Tile.setStrm_delivQ (u : Tile) (st : Stream) (z : Strm) : (u.setStrm st z).delivQ = u.delivQ := by cases st <;> rfl
@[simp] theorem Tile.setStrm_edgeWait (u : Tile) (st : Stream) (z : Strm) : (u.setStrm st z).edgeWait = u.edgeWait := by cases st <;> rfl
@[simp] theorem Tile.setStrm_parked (u : Tile) (st : Stream) (z : Strm) : (u.setStrm st z).parked = u.parked := by cases st <;> rfl
@[simp] theorem Tile.setStrm_pealQ (u : Tile) (st : Stream) (z : Strm) : (u.setStrm st z).pealQ = u.pealQ := by cases st <;> rfl
@[simp] theorem Tile.setStrm_chans (u : Tile) (st : Stream) (z : Strm) : (u.setStrm st z).chans = u.chans := by cases st <;> rfl
@[simp] theorem Tile.setStrm_tsel (u : Tile) (st : Stream) (z : Strm) : (u.setStrm st z).tsel = u.tsel := by cases st <;> rfl
@[simp] theorem Tile.setStrm_tvec (u : Tile) (st : Stream) (z : Strm) : (u.setStrm st z).tvec = u.tvec := by cases st <;> rfl
@[simp] theorem Tile.setStrm_handling (u : Tile) (st : Stream) (z : Strm) : (u.setStrm st z).handling = u.handling := by cases st <;> rfl
@[simp] theorem Tile.setStrm_woken (u : Tile) (st : Stream) (z : Strm) : (u.setStrm st z).woken = u.woken := by cases st <;> rfl
@[simp] theorem Tile.setStrm_queueAdded (u : Tile) (st : Stream) (z : Strm) : (u.setStrm st z).queueAdded = u.queueAdded := by cases st <;> rfl
@[simp] theorem Tile.setStrm_idleUntil (u : Tile) (st : Stream) (z : Strm) : (u.setStrm st z).idleUntil = u.idleUntil := by cases st <;> rfl
@[simp] theorem Tile.setStrm_idleTimer (u : Tile) (st : Stream) (z : Strm) : (u.setStrm st z).idleTimer = u.idleTimer := by cases st <;> rfl
@[simp] theorem Tile.setStrm_tlb (u : Tile) (st : Stream) (z : Strm) : (u.setStrm st z).tlb = u.tlb := by cases st <;> rfl
@[simp] theorem Tile.setStrm_held (u : Tile) (st : Stream) (z : Strm) : (u.setStrm st z).held = u.held := by cases st <;> rfl
@[simp] theorem Tile.setStrm_preemptAsk (u : Tile) (st : Stream) (z : Strm) : (u.setStrm st z).preemptAsk = u.preemptAsk := by cases st <;> rfl
@[simp] theorem Tile.setStrm_preemptFor (u : Tile) (st : Stream) (z : Strm) : (u.setStrm st z).preemptFor = u.preemptFor := by cases st <;> rfl
@[simp] theorem Tile.setStrm_preemptReq (u : Tile) (st : Stream) (z : Strm) : (u.setStrm st z).preemptReq = u.preemptReq := by cases st <;> rfl
@[simp] theorem Tile.setStrm_stopAt (u : Tile) (st : Stream) (z : Strm) : (u.setStrm st z).stopAt = u.stopAt := by cases st <;> rfl
@[simp] theorem Tile.setStrm_placing (u : Tile) (st : Stream) (z : Strm) : (u.setStrm st z).placing = u.placing := by cases st <;> rfl
@[simp] theorem Tile.setStrm_flipped (u : Tile) (st : Stream) (z : Strm) : (u.setStrm st z).flipped = u.flipped := by cases st <;> rfl

@[simp] theorem Tile.modStrm_ttick (u : Tile) (st : Stream) (g : Strm → Strm) : (u.modStrm st g).ttick = u.ttick := by cases st <;> rfl
@[simp] theorem Tile.modStrm_ecc (u : Tile) (st : Stream) (g : Strm → Strm) : (u.modStrm st g).ecc = u.ecc := by cases st <;> rfl
@[simp] theorem Tile.modStrm_eclk (u : Tile) (st : Stream) (g : Strm → Strm) : (u.modStrm st g).eclk = u.eclk := by cases st <;> rfl
@[simp] theorem Tile.modStrm_stretched (u : Tile) (st : Stream) (g : Strm → Strm) : (u.modStrm st g).stretched = u.stretched := by cases st <;> rfl
@[simp] theorem Tile.modStrm_stretchOver (u : Tile) (st : Stream) (g : Strm → Strm) : (u.modStrm st g).stretchOver = u.stretchOver := by cases st <;> rfl
@[simp] theorem Tile.modStrm_frozen (u : Tile) (st : Stream) (g : Strm → Strm) : (u.modStrm st g).frozen = u.frozen := by cases st <;> rfl
@[simp] theorem Tile.modStrm_haltBrk (u : Tile) (st : Stream) (g : Strm → Strm) : (u.modStrm st g).haltBrk = u.haltBrk := by cases st <;> rfl
@[simp] theorem Tile.modStrm_freezeReq (u : Tile) (st : Stream) (g : Strm → Strm) : (u.modStrm st g).freezeReq = u.freezeReq := by cases st <;> rfl
@[simp] theorem Tile.modStrm_unit (u : Tile) (st : Stream) (g : Strm → Strm) : (u.modStrm st g).unit = u.unit := by cases st <;> rfl
@[simp] theorem Tile.modStrm_zeroed (u : Tile) (st : Stream) (g : Strm → Strm) : (u.modStrm st g).zeroed = u.zeroed := by cases st <;> rfl
@[simp] theorem Tile.modStrm_fetchQ (u : Tile) (st : Stream) (g : Strm → Strm) : (u.modStrm st g).fetchQ = u.fetchQ := by cases st <;> rfl
@[simp] theorem Tile.modStrm_fetchedAt (u : Tile) (st : Stream) (g : Strm → Strm) : (u.modStrm st g).fetchedAt = u.fetchedAt := by cases st <;> rfl
@[simp] theorem Tile.modStrm_imem (u : Tile) (st : Stream) (g : Strm → Strm) : (u.modStrm st g).imem = u.imem := by cases st <;> rfl
@[simp] theorem Tile.modStrm_cbank (u : Tile) (st : Stream) (g : Strm → Strm) : (u.modStrm st g).cbank = u.cbank := by cases st <;> rfl
@[simp] theorem Tile.modStrm_spill (u : Tile) (st : Stream) (g : Strm → Strm) : (u.modStrm st g).spill = u.spill := by cases st <;> rfl
@[simp] theorem Tile.modStrm_spillPend (u : Tile) (st : Stream) (g : Strm → Strm) : (u.modStrm st g).spillPend = u.spillPend := by cases st <;> rfl
@[simp] theorem Tile.modStrm_emptyGr (u : Tile) (st : Stream) (g : Strm → Strm) : (u.modStrm st g).emptyGr = u.emptyGr := by cases st <;> rfl
@[simp] theorem Tile.modStrm_acc (u : Tile) (st : Stream) (g : Strm → Strm) : (u.modStrm st g).acc = u.acc := by cases st <;> rfl
@[simp] theorem Tile.modStrm_claim0 (u : Tile) (st : Stream) (g : Strm → Strm) : (u.modStrm st g).claim0 = u.claim0 := by cases st <;> rfl
@[simp] theorem Tile.modStrm_claim1 (u : Tile) (st : Stream) (g : Strm → Strm) : (u.modStrm st g).claim1 = u.claim1 := by cases st <;> rfl
@[simp] theorem Tile.modStrm_vtype (u : Tile) (st : Stream) (g : Strm → Strm) : (u.modStrm st g).vtype = u.vtype := by cases st <;> rfl
@[simp] theorem Tile.modStrm_vwbase (u : Tile) (st : Stream) (g : Strm → Strm) : (u.modStrm st g).vwbase = u.vwbase := by cases st <;> rfl
@[simp] theorem Tile.modStrm_masks (u : Tile) (st : Stream) (g : Strm → Strm) : (u.modStrm st g).masks = u.masks := by cases st <;> rfl
@[simp] theorem Tile.modStrm_pats (u : Tile) (st : Stream) (g : Strm → Strm) : (u.modStrm st g).pats = u.pats := by cases st <;> rfl
@[simp] theorem Tile.modStrm_cbs0 (u : Tile) (st : Stream) (g : Strm → Strm) : (u.modStrm st g).cbs0 = u.cbs0 := by cases st <;> rfl
@[simp] theorem Tile.modStrm_cbs (u : Tile) (st : Stream) (g : Strm → Strm) : (u.modStrm st g).cbs = u.cbs := by cases st <;> rfl
@[simp] theorem Tile.modStrm_bars (u : Tile) (st : Stream) (g : Strm → Strm) : (u.modStrm st g).bars = u.bars := by cases st <;> rfl
@[simp] theorem Tile.modStrm_barQ (u : Tile) (st : Stream) (g : Strm → Strm) : (u.modStrm st g).barQ = u.barQ := by cases st <;> rfl
@[simp] theorem Tile.modStrm_plane (u : Tile) (st : Stream) (g : Strm → Strm) : (u.modStrm st g).plane = u.plane := by cases st <;> rfl
@[simp] theorem Tile.modStrm_plane2 (u : Tile) (st : Stream) (g : Strm → Strm) : (u.modStrm st g).plane2 = u.plane2 := by cases st <;> rfl
@[simp] theorem Tile.modStrm_planeEnd (u : Tile) (st : Stream) (g : Strm → Strm) : (u.modStrm st g).planeEnd = u.planeEnd := by cases st <;> rfl
@[simp] theorem Tile.modStrm_handles (u : Tile) (st : Stream) (g : Strm → Strm) : (u.modStrm st g).handles = u.handles := by cases st <;> rfl
@[simp] theorem Tile.modStrm_pool (u : Tile) (st : Stream) (g : Strm → Strm) : (u.modStrm st g).pool = u.pool := by cases st <;> rfl
@[simp] theorem Tile.modStrm_window (u : Tile) (st : Stream) (g : Strm → Strm) : (u.modStrm st g).window = u.window := by cases st <;> rfl
@[simp] theorem Tile.modStrm_posts (u : Tile) (st : Stream) (g : Strm → Strm) : (u.modStrm st g).posts = u.posts := by cases st <;> rfl
@[simp] theorem Tile.modStrm_remoteQ (u : Tile) (st : Stream) (g : Strm → Strm) : (u.modStrm st g).remoteQ = u.remoteQ := by cases st <;> rfl
@[simp] theorem Tile.modStrm_seqCtr (u : Tile) (st : Stream) (g : Strm → Strm) : (u.modStrm st g).seqCtr = u.seqCtr := by cases st <;> rfl
@[simp] theorem Tile.modStrm_accCtr (u : Tile) (st : Stream) (g : Strm → Strm) : (u.modStrm st g).accCtr = u.accCtr := by cases st <;> rfl
@[simp] theorem Tile.modStrm_done (u : Tile) (st : Stream) (g : Strm → Strm) : (u.modStrm st g).done = u.done := by cases st <;> rfl
@[simp] theorem Tile.modStrm_firstBad (u : Tile) (st : Stream) (g : Strm → Strm) : (u.modStrm st g).firstBad = u.firstBad := by cases st <;> rfl
@[simp] theorem Tile.modStrm_drainedV (u : Tile) (st : Stream) (g : Strm → Strm) : (u.modStrm st g).drainedV = u.drainedV := by cases st <;> rfl
@[simp] theorem Tile.modStrm_drainedS (u : Tile) (st : Stream) (g : Strm → Strm) : (u.modStrm st g).drainedS = u.drainedS := by cases st <;> rfl
@[simp] theorem Tile.modStrm_planeA (u : Tile) (st : Stream) (g : Strm → Strm) : (u.modStrm st g).planeA = u.planeA := by cases st <;> rfl
@[simp] theorem Tile.modStrm_planeS (u : Tile) (st : Stream) (g : Strm → Strm) : (u.modStrm st g).planeS = u.planeS := by cases st <;> rfl
@[simp] theorem Tile.modStrm_shadowFull (u : Tile) (st : Stream) (g : Strm → Strm) : (u.modStrm st g).shadowFull = u.shadowFull := by cases st <;> rfl
@[simp] theorem Tile.modStrm_wload (u : Tile) (st : Stream) (g : Strm → Strm) : (u.modStrm st g).wload = u.wload := by cases st <;> rfl
@[simp] theorem Tile.modStrm_mat (u : Tile) (st : Stream) (g : Strm → Strm) : (u.modStrm st g).mat = u.mat := by cases st <;> rfl
@[simp] theorem Tile.modStrm_topk (u : Tile) (st : Stream) (g : Strm → Strm) : (u.modStrm st g).topk = u.topk := by cases st <;> rfl
@[simp] theorem Tile.modStrm_roll (u : Tile) (st : Stream) (g : Strm → Strm) : (u.modStrm st g).roll = u.roll := by cases st <;> rfl
@[simp] theorem Tile.modStrm_epochs (u : Tile) (st : Stream) (g : Strm → Strm) : (u.modStrm st g).epochs = u.epochs := by cases st <;> rfl
@[simp] theorem Tile.modStrm_demandQ (u : Tile) (st : Stream) (g : Strm → Strm) : (u.modStrm st g).demandQ = u.demandQ := by cases st <;> rfl
@[simp] theorem Tile.modStrm_softAt (u : Tile) (st : Stream) (g : Strm → Strm) : (u.modStrm st g).softAt = u.softAt := by cases st <;> rfl
@[simp] theorem Tile.modStrm_dequeEmpty (u : Tile) (st : Stream) (g : Strm → Strm) : (u.modStrm st g).dequeEmpty = u.dequeEmpty := by cases st <;> rfl
@[simp] theorem Tile.modStrm_deque (u : Tile) (st : Stream) (g : Strm → Strm) : (u.modStrm st g).deque = u.deque := by cases st <;> rfl
@[simp] theorem Tile.modStrm_condQ (u : Tile) (st : Stream) (g : Strm → Strm) : (u.modStrm st g).condQ = u.condQ := by cases st <;> rfl
@[simp] theorem Tile.modStrm_shots (u : Tile) (st : Stream) (g : Strm → Strm) : (u.modStrm st g).shots = u.shots := by cases st <;> rfl
@[simp] theorem Tile.modStrm_delivQ (u : Tile) (st : Stream) (g : Strm → Strm) : (u.modStrm st g).delivQ = u.delivQ := by cases st <;> rfl
@[simp] theorem Tile.modStrm_edgeWait (u : Tile) (st : Stream) (g : Strm → Strm) : (u.modStrm st g).edgeWait = u.edgeWait := by cases st <;> rfl
@[simp] theorem Tile.modStrm_parked (u : Tile) (st : Stream) (g : Strm → Strm) : (u.modStrm st g).parked = u.parked := by cases st <;> rfl
@[simp] theorem Tile.modStrm_pealQ (u : Tile) (st : Stream) (g : Strm → Strm) : (u.modStrm st g).pealQ = u.pealQ := by cases st <;> rfl
@[simp] theorem Tile.modStrm_chans (u : Tile) (st : Stream) (g : Strm → Strm) : (u.modStrm st g).chans = u.chans := by cases st <;> rfl
@[simp] theorem Tile.modStrm_tsel (u : Tile) (st : Stream) (g : Strm → Strm) : (u.modStrm st g).tsel = u.tsel := by cases st <;> rfl
@[simp] theorem Tile.modStrm_tvec (u : Tile) (st : Stream) (g : Strm → Strm) : (u.modStrm st g).tvec = u.tvec := by cases st <;> rfl
@[simp] theorem Tile.modStrm_handling (u : Tile) (st : Stream) (g : Strm → Strm) : (u.modStrm st g).handling = u.handling := by cases st <;> rfl
@[simp] theorem Tile.modStrm_woken (u : Tile) (st : Stream) (g : Strm → Strm) : (u.modStrm st g).woken = u.woken := by cases st <;> rfl
@[simp] theorem Tile.modStrm_queueAdded (u : Tile) (st : Stream) (g : Strm → Strm) : (u.modStrm st g).queueAdded = u.queueAdded := by cases st <;> rfl
@[simp] theorem Tile.modStrm_idleUntil (u : Tile) (st : Stream) (g : Strm → Strm) : (u.modStrm st g).idleUntil = u.idleUntil := by cases st <;> rfl
@[simp] theorem Tile.modStrm_idleTimer (u : Tile) (st : Stream) (g : Strm → Strm) : (u.modStrm st g).idleTimer = u.idleTimer := by cases st <;> rfl
@[simp] theorem Tile.modStrm_tlb (u : Tile) (st : Stream) (g : Strm → Strm) : (u.modStrm st g).tlb = u.tlb := by cases st <;> rfl
@[simp] theorem Tile.modStrm_held (u : Tile) (st : Stream) (g : Strm → Strm) : (u.modStrm st g).held = u.held := by cases st <;> rfl
@[simp] theorem Tile.modStrm_preemptAsk (u : Tile) (st : Stream) (g : Strm → Strm) : (u.modStrm st g).preemptAsk = u.preemptAsk := by cases st <;> rfl
@[simp] theorem Tile.modStrm_preemptFor (u : Tile) (st : Stream) (g : Strm → Strm) : (u.modStrm st g).preemptFor = u.preemptFor := by cases st <;> rfl
@[simp] theorem Tile.modStrm_preemptReq (u : Tile) (st : Stream) (g : Strm → Strm) : (u.modStrm st g).preemptReq = u.preemptReq := by cases st <;> rfl
@[simp] theorem Tile.modStrm_stopAt (u : Tile) (st : Stream) (g : Strm → Strm) : (u.modStrm st g).stopAt = u.stopAt := by cases st <;> rfl
@[simp] theorem Tile.modStrm_placing (u : Tile) (st : Stream) (g : Strm → Strm) : (u.modStrm st g).placing = u.placing := by cases st <;> rfl
@[simp] theorem Tile.modStrm_flipped (u : Tile) (st : Stream) (g : Strm → Strm) : (u.modStrm st g).flipped = u.flipped := by cases st <;> rfl

@[simp] theorem Tile.modAll_ttick (u : Tile) (g : Strm → Strm) : (u.modAll g).ttick = u.ttick := rfl
@[simp] theorem Tile.modAll_ecc (u : Tile) (g : Strm → Strm) : (u.modAll g).ecc = u.ecc := rfl
@[simp] theorem Tile.modAll_eclk (u : Tile) (g : Strm → Strm) : (u.modAll g).eclk = u.eclk := rfl
@[simp] theorem Tile.modAll_stretched (u : Tile) (g : Strm → Strm) : (u.modAll g).stretched = u.stretched := rfl
@[simp] theorem Tile.modAll_stretchOver (u : Tile) (g : Strm → Strm) : (u.modAll g).stretchOver = u.stretchOver := rfl
@[simp] theorem Tile.modAll_frozen (u : Tile) (g : Strm → Strm) : (u.modAll g).frozen = u.frozen := rfl
@[simp] theorem Tile.modAll_haltBrk (u : Tile) (g : Strm → Strm) : (u.modAll g).haltBrk = u.haltBrk := rfl
@[simp] theorem Tile.modAll_freezeReq (u : Tile) (g : Strm → Strm) : (u.modAll g).freezeReq = u.freezeReq := rfl
@[simp] theorem Tile.modAll_unit (u : Tile) (g : Strm → Strm) : (u.modAll g).unit = u.unit := rfl
@[simp] theorem Tile.modAll_zeroed (u : Tile) (g : Strm → Strm) : (u.modAll g).zeroed = u.zeroed := rfl
@[simp] theorem Tile.modAll_fetchQ (u : Tile) (g : Strm → Strm) : (u.modAll g).fetchQ = u.fetchQ := rfl
@[simp] theorem Tile.modAll_fetchedAt (u : Tile) (g : Strm → Strm) : (u.modAll g).fetchedAt = u.fetchedAt := rfl
@[simp] theorem Tile.modAll_imem (u : Tile) (g : Strm → Strm) : (u.modAll g).imem = u.imem := rfl
@[simp] theorem Tile.modAll_cbank (u : Tile) (g : Strm → Strm) : (u.modAll g).cbank = u.cbank := rfl
@[simp] theorem Tile.modAll_spill (u : Tile) (g : Strm → Strm) : (u.modAll g).spill = u.spill := rfl
@[simp] theorem Tile.modAll_spillPend (u : Tile) (g : Strm → Strm) : (u.modAll g).spillPend = u.spillPend := rfl
@[simp] theorem Tile.modAll_emptyGr (u : Tile) (g : Strm → Strm) : (u.modAll g).emptyGr = u.emptyGr := rfl
@[simp] theorem Tile.modAll_acc (u : Tile) (g : Strm → Strm) : (u.modAll g).acc = u.acc := rfl
@[simp] theorem Tile.modAll_claim0 (u : Tile) (g : Strm → Strm) : (u.modAll g).claim0 = u.claim0 := rfl
@[simp] theorem Tile.modAll_claim1 (u : Tile) (g : Strm → Strm) : (u.modAll g).claim1 = u.claim1 := rfl
@[simp] theorem Tile.modAll_vtype (u : Tile) (g : Strm → Strm) : (u.modAll g).vtype = u.vtype := rfl
@[simp] theorem Tile.modAll_vwbase (u : Tile) (g : Strm → Strm) : (u.modAll g).vwbase = u.vwbase := rfl
@[simp] theorem Tile.modAll_masks (u : Tile) (g : Strm → Strm) : (u.modAll g).masks = u.masks := rfl
@[simp] theorem Tile.modAll_pats (u : Tile) (g : Strm → Strm) : (u.modAll g).pats = u.pats := rfl
@[simp] theorem Tile.modAll_cbs0 (u : Tile) (g : Strm → Strm) : (u.modAll g).cbs0 = u.cbs0 := rfl
@[simp] theorem Tile.modAll_cbs (u : Tile) (g : Strm → Strm) : (u.modAll g).cbs = u.cbs := rfl
@[simp] theorem Tile.modAll_bars (u : Tile) (g : Strm → Strm) : (u.modAll g).bars = u.bars := rfl
@[simp] theorem Tile.modAll_barQ (u : Tile) (g : Strm → Strm) : (u.modAll g).barQ = u.barQ := rfl
@[simp] theorem Tile.modAll_plane (u : Tile) (g : Strm → Strm) : (u.modAll g).plane = u.plane := rfl
@[simp] theorem Tile.modAll_plane2 (u : Tile) (g : Strm → Strm) : (u.modAll g).plane2 = u.plane2 := rfl
@[simp] theorem Tile.modAll_planeEnd (u : Tile) (g : Strm → Strm) : (u.modAll g).planeEnd = u.planeEnd := rfl
@[simp] theorem Tile.modAll_handles (u : Tile) (g : Strm → Strm) : (u.modAll g).handles = u.handles := rfl
@[simp] theorem Tile.modAll_pool (u : Tile) (g : Strm → Strm) : (u.modAll g).pool = u.pool := rfl
@[simp] theorem Tile.modAll_window (u : Tile) (g : Strm → Strm) : (u.modAll g).window = u.window := rfl
@[simp] theorem Tile.modAll_posts (u : Tile) (g : Strm → Strm) : (u.modAll g).posts = u.posts := rfl
@[simp] theorem Tile.modAll_remoteQ (u : Tile) (g : Strm → Strm) : (u.modAll g).remoteQ = u.remoteQ := rfl
@[simp] theorem Tile.modAll_seqCtr (u : Tile) (g : Strm → Strm) : (u.modAll g).seqCtr = u.seqCtr := rfl
@[simp] theorem Tile.modAll_accCtr (u : Tile) (g : Strm → Strm) : (u.modAll g).accCtr = u.accCtr := rfl
@[simp] theorem Tile.modAll_done (u : Tile) (g : Strm → Strm) : (u.modAll g).done = u.done := rfl
@[simp] theorem Tile.modAll_firstBad (u : Tile) (g : Strm → Strm) : (u.modAll g).firstBad = u.firstBad := rfl
@[simp] theorem Tile.modAll_drainedV (u : Tile) (g : Strm → Strm) : (u.modAll g).drainedV = u.drainedV := rfl
@[simp] theorem Tile.modAll_drainedS (u : Tile) (g : Strm → Strm) : (u.modAll g).drainedS = u.drainedS := rfl
@[simp] theorem Tile.modAll_planeA (u : Tile) (g : Strm → Strm) : (u.modAll g).planeA = u.planeA := rfl
@[simp] theorem Tile.modAll_planeS (u : Tile) (g : Strm → Strm) : (u.modAll g).planeS = u.planeS := rfl
@[simp] theorem Tile.modAll_shadowFull (u : Tile) (g : Strm → Strm) : (u.modAll g).shadowFull = u.shadowFull := rfl
@[simp] theorem Tile.modAll_wload (u : Tile) (g : Strm → Strm) : (u.modAll g).wload = u.wload := rfl
@[simp] theorem Tile.modAll_mat (u : Tile) (g : Strm → Strm) : (u.modAll g).mat = u.mat := rfl
@[simp] theorem Tile.modAll_topk (u : Tile) (g : Strm → Strm) : (u.modAll g).topk = u.topk := rfl
@[simp] theorem Tile.modAll_roll (u : Tile) (g : Strm → Strm) : (u.modAll g).roll = u.roll := rfl
@[simp] theorem Tile.modAll_epochs (u : Tile) (g : Strm → Strm) : (u.modAll g).epochs = u.epochs := rfl
@[simp] theorem Tile.modAll_demandQ (u : Tile) (g : Strm → Strm) : (u.modAll g).demandQ = u.demandQ := rfl
@[simp] theorem Tile.modAll_softAt (u : Tile) (g : Strm → Strm) : (u.modAll g).softAt = u.softAt := rfl
@[simp] theorem Tile.modAll_dequeEmpty (u : Tile) (g : Strm → Strm) : (u.modAll g).dequeEmpty = u.dequeEmpty := rfl
@[simp] theorem Tile.modAll_deque (u : Tile) (g : Strm → Strm) : (u.modAll g).deque = u.deque := rfl
@[simp] theorem Tile.modAll_condQ (u : Tile) (g : Strm → Strm) : (u.modAll g).condQ = u.condQ := rfl
@[simp] theorem Tile.modAll_shots (u : Tile) (g : Strm → Strm) : (u.modAll g).shots = u.shots := rfl
@[simp] theorem Tile.modAll_delivQ (u : Tile) (g : Strm → Strm) : (u.modAll g).delivQ = u.delivQ := rfl
@[simp] theorem Tile.modAll_edgeWait (u : Tile) (g : Strm → Strm) : (u.modAll g).edgeWait = u.edgeWait := rfl
@[simp] theorem Tile.modAll_parked (u : Tile) (g : Strm → Strm) : (u.modAll g).parked = u.parked := rfl
@[simp] theorem Tile.modAll_pealQ (u : Tile) (g : Strm → Strm) : (u.modAll g).pealQ = u.pealQ := rfl
@[simp] theorem Tile.modAll_chans (u : Tile) (g : Strm → Strm) : (u.modAll g).chans = u.chans := rfl
@[simp] theorem Tile.modAll_tsel (u : Tile) (g : Strm → Strm) : (u.modAll g).tsel = u.tsel := rfl
@[simp] theorem Tile.modAll_tvec (u : Tile) (g : Strm → Strm) : (u.modAll g).tvec = u.tvec := rfl
@[simp] theorem Tile.modAll_handling (u : Tile) (g : Strm → Strm) : (u.modAll g).handling = u.handling := rfl
@[simp] theorem Tile.modAll_woken (u : Tile) (g : Strm → Strm) : (u.modAll g).woken = u.woken := rfl
@[simp] theorem Tile.modAll_queueAdded (u : Tile) (g : Strm → Strm) : (u.modAll g).queueAdded = u.queueAdded := rfl
@[simp] theorem Tile.modAll_idleUntil (u : Tile) (g : Strm → Strm) : (u.modAll g).idleUntil = u.idleUntil := rfl
@[simp] theorem Tile.modAll_idleTimer (u : Tile) (g : Strm → Strm) : (u.modAll g).idleTimer = u.idleTimer := rfl
@[simp] theorem Tile.modAll_tlb (u : Tile) (g : Strm → Strm) : (u.modAll g).tlb = u.tlb := rfl
@[simp] theorem Tile.modAll_held (u : Tile) (g : Strm → Strm) : (u.modAll g).held = u.held := rfl
@[simp] theorem Tile.modAll_preemptAsk (u : Tile) (g : Strm → Strm) : (u.modAll g).preemptAsk = u.preemptAsk := rfl
@[simp] theorem Tile.modAll_preemptFor (u : Tile) (g : Strm → Strm) : (u.modAll g).preemptFor = u.preemptFor := rfl
@[simp] theorem Tile.modAll_preemptReq (u : Tile) (g : Strm → Strm) : (u.modAll g).preemptReq = u.preemptReq := rfl
@[simp] theorem Tile.modAll_stopAt (u : Tile) (g : Strm → Strm) : (u.modAll g).stopAt = u.stopAt := rfl
@[simp] theorem Tile.modAll_placing (u : Tile) (g : Strm → Strm) : (u.modAll g).placing = u.placing := rfl
@[simp] theorem Tile.modAll_flipped (u : Tile) (g : Strm → Strm) : (u.modAll g).flipped = u.flipped := rfl

end Sys2Proof.Machine
end

