-- ==== Sys2Proof/Laws/Mem.lean ====
section
/-! SUPPORT. Reading after writing: maps, memory bytes, tiles and streams; every memory operation keeps the canonical form. -/
namespace Sys2Proof.Machine

/-! ## Maps -/

@[simp] theorem Map.get_nil {α : Type} (d : α) (n : Nat) : Map.get d [] n = d := rfl
theorem Map.get_set {α : Type} (d : α) (m : Map α) (n k : Nat) (v : α) : Map.get d (Map.set m n v) k = if n = k then v else Map.get d m k := by
  induction m with
  | nil => simp [Map.set, Map.get]
  | cons p rest ih =>
    obtain ⟨a, w⟩ := p
    unfold Map.set
    split
    · simp [Map.get]
    · split
      · rename_i h; subst h; simp only [Map.get]; split <;> rfl
      · rename_i h1 h2
        simp only [Map.get, ih]
        by_cases ha : a = k
        · subst ha; simp [h2]
        · simp [ha]
@[simp] theorem Map.get_set_same {α : Type} (d : α) (m : Map α) (n : Nat) (v : α) : Map.get d (Map.set m n v) n = v := by simp [Map.get_set]
theorem Map.get_set_ne {α : Type} (d : α) (m : Map α) {n k : Nat} (v : α) (h : n ≠ k) : Map.get d (Map.set m n v) k = Map.get d m k := by
  simp [Map.get_set, h]
theorem Map.find_set {α : Type} (m : Map α) (n k : Nat) (v : α) : Map.find (Map.set m n v) k = if n = k then some v else Map.find m k := by
  induction m with
  | nil => simp [Map.set, Map.find]
  | cons p rest ih =>
    obtain ⟨a, w⟩ := p
    unfold Map.set
    split
    · simp [Map.find]
    · split
      · rename_i h; subst h; simp only [Map.find]; split <;> rfl
      · rename_i h1 h2
        simp only [Map.find, ih]
        by_cases ha : a = k
        · subst ha; simp [h2]
        · simp [ha]
@[simp] theorem Map.find_set_same {α : Type} (m : Map α) (n : Nat) (v : α) : Map.find (Map.set m n v) n = some v := by simp [Map.find_set]

/-! ## Tiles and streams -/

theorem State.tile_setTile (s : State) (t k : TileNo) (u : Tile) : (s.setTile t u).tile k = if t = k then u else s.tile k := by
  simp [State.setTile, State.tile, Map.get_set, BitVec.toNat_inj]
@[simp] theorem State.tile_setTile_same (s : State) (t : TileNo) (u : Tile) : (s.setTile t u).tile t = u := by simp [State.tile_setTile]
theorem State.tile_modTile (s : State) (t k : TileNo) (g : Tile → Tile) : (s.modTile t g).tile k = if t = k then g (s.tile t) else s.tile k := by
  simp [State.modTile, State.tile_setTile]
@[simp] theorem State.tile_modTile_same (s : State) (t : TileNo) (g : Tile → Tile) : (s.modTile t g).tile t = g (s.tile t) := by simp [State.tile_modTile]
@[simp] theorem Tile.strm_setStrm_same (u : Tile) (st : Stream) (z : Strm) : (u.setStrm st z).strm st = z := by cases st <;> rfl
theorem Tile.strm_setStrm (u : Tile) (st k : Stream) (z : Strm) : (u.setStrm st z).strm k = if st = k then z else u.strm k := by cases st <;> cases k <;> rfl
@[simp] theorem Tile.strm_modStrm_same (u : Tile) (st : Stream) (g : Strm → Strm) : (u.modStrm st g).strm st = g (u.strm st) := by cases st <;> rfl
theorem Tile.strm_modStrm (u : Tile) (st k : Stream) (g : Strm → Strm) : (u.modStrm st g).strm k = if st = k then g (u.strm st) else u.strm k := by
  cases st <;> cases k <;> rfl
@[simp] theorem Tile.strm_modAll (u : Tile) (st : Stream) (g : Strm → Strm) : (u.modAll g).strm st = g (u.strm st) := by cases st <;> rfl
@[simp] theorem State.me_modMe (s : State) (g : Tile → Tile) : (s.modMe g).me = g s.me := by simp [State.me, State.modMe]
theorem State.tile_modMe (s : State) (k : TileNo) (g : Tile → Tile) : (s.modMe g).tile k = if s.ct = k then g (s.tile s.ct) else s.tile k := by
  simp [State.modMe, State.tile_modTile]
@[simp] theorem State.strmOf_modStrmOf (s : State) (t : TileNo) (st : Stream) (g : Strm → Strm) : (s.modStrmOf t st g).strmOf t st = g (s.strmOf t st) := by
  simp [State.strmOf, State.modStrmOf]
theorem State.tile_modStrmOf (s : State) (t k : TileNo) (st : Stream) (g : Strm → Strm) :
    (s.modStrmOf t st g).tile k = if t = k then (s.tile t).modStrm st g else s.tile k := by simp [State.modStrmOf, State.tile_modTile]
@[simp] theorem State.tile_modStrmOf_same (s : State) (t : TileNo) (st : Stream) (g : Strm → Strm) :
    (s.modStrmOf t st g).tile t = (s.tile t).modStrm st g := by simp [State.tile_modStrmOf]
@[simp] theorem State.cur_modCur (s : State) (g : Strm → Strm) : (s.modCur g).cur = g s.cur := by
  simp [State.cur, State.me, State.modCur]
theorem State.me_modCur (s : State) (g : Strm → Strm) : (s.modCur g).me = s.me.modStrm s.cs g := by simp [State.me, State.modCur]
theorem State.tile_modCur (s : State) (k : TileNo) (g : Strm → Strm) :
    (s.modCur g).tile k = if s.ct = k then (s.tile s.ct).modStrm s.cs g else s.tile k := by simp [State.modCur, State.tile_modStrmOf]

/-! ## What reads the tiles only -/

@[simp] theorem State.tile_bump (s : State) (t : TileNo) : s.bump.tile t = s.tile t := rfl
@[simp] theorem State.tile_post (s : State) (a : Act) (t : TileNo) : (s.post a).tile t = s.tile t := rfl
@[simp] theorem State.tile_postLate (s : State) (a : Act) (t : TileNo) : (s.postLate a).tile t = s.tile t := rfl
@[simp] theorem State.tile_later (s : State) (a : Act) (t : TileNo) : (s.later a).tile t = s.tile t := rfl
@[simp] theorem State.tile_atClock (s : State) (c : Nat) (a : Act) (t : TileNo) : (s.atClock c a).tile t = s.tile t := rfl
@[simp] theorem State.tile_retry (s : State) (op : Instr) (t : TileNo) : (s.retry op).tile t = s.tile t := rfl
@[simp] theorem State.tile_unsend (s : State) (n : Nat) (t : TileNo) : (s.unsend n).tile t = s.tile t := rfl
@[simp] theorem State.tile_send (s : State) (m : Msg) (op : Instr) (d t : TileNo) : (s.send m op d).tile t = s.tile t := rfl
@[simp] theorem State.tile_modPart (s : State) (p : Nat) (g : Part → Part) (t : TileNo) : (s.modPart p g).tile t = s.tile t := rfl
@[simp] theorem State.cur_bump (s : State) : s.bump.cur = s.cur := rfl
@[simp] theorem State.cur_later (s : State) (a : Act) : (s.later a).cur = s.cur := rfl
@[simp] theorem State.cur_post (s : State) (a : Act) : (s.post a).cur = s.cur := rfl
@[simp] theorem State.me_bump (s : State) : s.bump.me = s.me := rfl
@[simp] theorem State.me_later (s : State) (a : Act) : (s.later a).me = s.me := rfl
@[simp] theorem State.me_post (s : State) (a : Act) : (s.post a).me = s.me := rfl

/-! ## Memory -/

theorem Mem.wfFrom_mono {lo hi : Nat} (h : lo ≤ hi) {m : List Host.Cell} (w : Mem.wfFrom hi m = true) : Mem.wfFrom lo m = true := by
  cases m with
  | nil => rfl
  | cons c rest =>
    obtain ⟨a, b⟩ := c
    simp only [Mem.wfFrom, Bool.and_eq_true, decide_eq_true_eq, bne_iff_ne] at w ⊢
    exact ⟨⟨Nat.le_trans h w.1.1, w.1.2⟩, w.2⟩
theorem Mem.wfFrom_write (m : List Host.Cell) : ∀ lo n v, lo ≤ n → Mem.wfFrom lo m = true → Mem.wfFrom lo (Mem.write m n v) = true := by
  induction m with
  | nil =>
    intro lo n v h _
    unfold Mem.write
    split
    · rfl
    · rename_i hv; simp [Mem.wfFrom, h, hv]
  | cons c rest ih =>
    obtain ⟨a, b⟩ := c
    intro lo n v h w
    have w' := w
    simp only [Mem.wfFrom, Bool.and_eq_true, decide_eq_true_eq, bne_iff_ne] at w
    obtain ⟨⟨hlo, hb⟩, hr⟩ := w
    unfold Mem.write
    split
    · split
      · exact w'
      · rename_i hn hv
        simp only [Mem.wfFrom, Bool.and_eq_true, decide_eq_true_eq, bne_iff_ne]
        exact ⟨⟨h, hv⟩, ⟨hn, hb⟩, hr⟩
    · split
      · rename_i h1 h2
        subst h2
        split
        · exact Mem.wfFrom_mono (by omega) hr
        · rename_i hv
          simp only [Mem.wfFrom, Bool.and_eq_true, decide_eq_true_eq, bne_iff_ne]
          exact ⟨⟨h, hv⟩, hr⟩
      · rename_i h1 h2
        simp only [Mem.wfFrom, Bool.and_eq_true, decide_eq_true_eq, bne_iff_ne]
        exact ⟨⟨hlo, hb⟩, ih _ _ _ (by omega) hr⟩
/-- Writing a byte keeps the canonical form. -/
theorem Mem.wf_write {m : List Host.Cell} (h : Mem.wf m = true) (n : Nat) (v : Byte) : Mem.wf (Mem.write m n v) = true :=
  Mem.wfFrom_write m 0 n v (Nat.zero_le n) h
/-- Writing bytes keeps the canonical form. -/
theorem Mem.wf_writeN {m : List Host.Cell} (h : Mem.wf m = true) (a v n : Nat) : Mem.wf (Mem.writeN m a v n) = true := by
  induction n generalizing m a v with
  | zero => exact h
  | succ n ih => exact ih (Mem.wf_write h _ _) _ _
/-- Writing a row keeps the canonical form. -/
theorem Mem.wf_setRow {m : List Host.Cell} (h : Mem.wf m = true) (a : Nat) (r : Row) : Mem.wf (Mem.setRow m a r) = true := Mem.wf_writeN h _ _ _
theorem Mem.wfFrom_filter (p : Host.Cell → Bool) (m : List Host.Cell) : ∀ lo, Mem.wfFrom lo m = true → Mem.wfFrom lo (m.filter p) = true := by
  induction m with
  | nil => intro lo _; rfl
  | cons c rest ih =>
    obtain ⟨a, b⟩ := c
    intro lo w
    simp only [Mem.wfFrom, Bool.and_eq_true, decide_eq_true_eq, bne_iff_ne] at w
    simp only [List.filter_cons]
    split
    · simp only [Mem.wfFrom, Bool.and_eq_true, decide_eq_true_eq, bne_iff_ne]
      exact ⟨w.1, ih _ w.2⟩
    · exact Mem.wfFrom_mono (by omega) (ih _ w.2)
/-- Dropping bytes keeps the canonical form. -/
theorem Mem.wf_filter {m : List Host.Cell} (h : Mem.wf m = true) (p : Host.Cell → Bool) : Mem.wf (m.filter p) = true := Mem.wfFrom_filter p m 0 h
/-- Zeroing a range keeps the canonical form. -/
theorem Mem.wf_clear {m : List Host.Cell} (h : Mem.wf m = true) (a n : Nat) : Mem.wf (Mem.clear m a n) = true := Mem.wf_filter h _
/-- A fold of operations that keep the canonical form keeps it. -/
theorem Mem.wf_foldl {β : Type} {f : List Host.Cell → β → List Host.Cell} (hf : ∀ m b, Mem.wf m = true → Mem.wf (f m b) = true) (l : List β) :
    ∀ {m : List Host.Cell}, Mem.wf m = true → Mem.wf (l.foldl f m) = true := by
  induction l with
  | nil => intro m h; exact h
  | cons b l ih => intro m h; exact ih (hf _ _ h)
/-- A byte of a canonical memory below its lowest bound reads as the default. -/
theorem Mem.read_of_lt (m : List Host.Cell) : ∀ lo n, n < lo → Mem.wfFrom lo m = true → Mem.read m n = memDefault := by
  induction m with
  | nil => intro _ _ _ _; rfl
  | cons c rest ih =>
    obtain ⟨a, b⟩ := c
    intro lo n h w
    simp only [Mem.wfFrom, Bool.and_eq_true, decide_eq_true_eq, bne_iff_ne] at w
    unfold Mem.read
    rw [if_neg (by omega), if_pos (by omega)]
theorem Mem.read_writeFrom (m : List Host.Cell) : ∀ lo n v k, Mem.wfFrom lo m = true →
    Mem.read (Mem.write m n v) k = if n = k then v else Mem.read m k := by
  induction m with
  | nil =>
    intro _ n v k _
    unfold Mem.write
    by_cases hv : v = memDefault
    · subst hv; simp [Mem.read]
    · simp only [if_neg hv, Mem.read]
      by_cases hn : n = k
      · simp [hn]
      · simp [hn]
  | cons c rest ih =>
    obtain ⟨a, b⟩ := c
    intro lo n v k w
    simp only [Mem.wfFrom, Bool.and_eq_true, decide_eq_true_eq, bne_iff_ne] at w
    obtain ⟨⟨hlo, hb⟩, hr⟩ := w
    unfold Mem.write
    split
    · rename_i hna
      split
      · rename_i hv
        subst hv
        by_cases hn : n = k
        · subst hn
          rw [if_pos rfl]
          unfold Mem.read
          rw [if_neg (by omega), if_pos hna]
        · rw [if_neg hn]
      · by_cases hn : n = k
        · subst hn; rw [if_pos rfl]; unfold Mem.read; rw [if_pos rfl]
        · rw [if_neg hn]
          conv => lhs; unfold Mem.read
          rw [if_neg hn]
          split
          · unfold Mem.read
            rw [if_neg (by omega), if_pos (by omega)]
          · rfl
    · split
      · rename_i h1 h2
        subst h2
        split
        · rename_i hv
          subst hv
          by_cases hn : n = k
          · subst hn; rw [if_pos rfl]; exact Mem.read_of_lt rest _ _ (Nat.lt_succ_self _) hr
          · rw [if_neg hn]
            conv => rhs; unfold Mem.read
            rw [if_neg hn]
            split
            · exact Mem.read_of_lt rest _ _ (by omega) hr
            · rfl
        · by_cases hn : n = k
          · subst hn; rw [if_pos rfl]; unfold Mem.read; rw [if_pos rfl]
          · rw [if_neg hn]; unfold Mem.read; rw [if_neg hn, if_neg hn]
      · rename_i h1 h2
        conv => lhs; unfold Mem.read
        conv => rhs; unfold Mem.read
        by_cases ha : a = k
        · subst ha; simp [h2]
        · rw [if_neg ha, if_neg ha, ih _ _ _ _ hr]
          by_cases hn : n = k
          · subst hn; simp [h1]
          · simp [hn]
/-- Reading after writing a byte of a canonical memory. -/
theorem Mem.read_write {m : List Host.Cell} (h : Mem.wf m = true) (n k : Nat) (v : Byte) :
    Mem.read (Mem.write m n v) k = if n = k then v else Mem.read m k := Mem.read_writeFrom m 0 n v k h
/-- Bytes outside those written read as before. -/
theorem Mem.read_writeN_of_out {m : List Host.Cell} (h : Mem.wf m = true) (a v n k : Nat) (hk : k < a ∨ a + n ≤ k) :
    Mem.read (Mem.writeN m a v n) k = Mem.read m k := by
  induction n generalizing m a v with
  | zero => rfl
  | succ n ih =>
    show Mem.read (Mem.writeN _ _ _ n) k = _
    rw [ih (Mem.wf_write h _ _) _ _ (by omega), Mem.read_write h, if_neg (by omega)]
/-- Bytes outside a written row read as before. -/
theorem Mem.read_setRow_of_out {m : List Host.Cell} (h : Mem.wf m = true) (a k : Nat) (r : Row) (hk : k < a ∨ a + 64 ≤ k) :
    Mem.read (Mem.setRow m a r) k = Mem.read m k := Mem.read_writeN_of_out h _ _ _ _ hk
/-- The bytes written are read back. -/
theorem Mem.readN_writeN {m : List Host.Cell} (h : Mem.wf m = true) (a v n : Nat) : Mem.readN (Mem.writeN m a v n) a n = v % 256 ^ n := by
  induction n generalizing m a v with
  | zero => simp [Mem.readN, Nat.mod_one]
  | succ n ih =>
    show (Mem.read (Mem.writeN _ _ _ n) a).toNat + 256 * Mem.readN (Mem.writeN _ _ _ n) (a + 1) n = _
    rw [ih (Mem.wf_write h _ _), Mem.read_writeN_of_out (Mem.wf_write h _ _) _ _ _ _ (by omega), Mem.read_write h, if_pos rfl]
    rw [Nat.pow_succ', Nat.mod_mul]
    simp
/-- The row written is read back. -/
theorem Mem.row_setRow {m : List Host.Cell} (h : Mem.wf m = true) (a : Nat) (r : Row) : Mem.row (Mem.setRow m a r) a = r := by
  unfold Mem.row Mem.setRow
  rw [Mem.readN_writeN h]
  apply BitVec.eq_of_toNat_eq
  rw [BitVec.toNat_ofNat]
  have hr := r.isLt
  have e : ∀ n, n = 512 → (256 : Nat) ^ 64 = 2 ^ n := by
    intro n hn
    rw [show n = 8 * 64 from hn, Nat.pow_mul]
  rw [e 512 rfl, Nat.mod_mod, Nat.mod_eq_of_lt hr]

end Sys2Proof.Machine
end

