-- ==== Sys2Proof/Laws/Ops.lean ====
section
/-! SUPPORT. What each shared operation of a meaning can do, said once: the checks before an instruction acts, results, waits and traps. -/
namespace Sys2Proof.Machine

/-! ## The checks: where they let an instruction act -/

theorem State.guard_run {s : State} {legal : Stream → Bool} {names : List Dest} (h : s.mayIssue legal names = true) (k : State → Out) :
    s.guard legal names k = k s := by
  simp only [State.mayIssue, Bool.and_eq_true, Bool.not_eq_true'] at h
  simp [State.guard, h.1, h.2]
/-- Where no accumulator row holds a soft error, none that an instruction reads does (R363). -/
theorem State.accErrors_sound {s : State} (h : s.accsSound) (reads : List Dest) : s.accErrors reads = [] := by
  simp only [State.accErrors, List.filterMap_eq_nil_iff]
  intro d _
  cases d <;> simp [h _]
/-- Without a soft error among the rows it reads, an instruction runs (R363). -/
theorem State.readingAccs_run {s : State} {reads : List Dest} (h : s.accErrors reads = []) (k : State → Out) : s.readingAccs reads k = k s := by
  simp only [State.readingAccs, h]
theorem State.guardR_run {s : State} {legal : Stream → Bool} {names reads : List Dest} (h : s.mayIssue legal names = true)
    (r : s.hasRoom (names.headD .none) = true) (e : s.accErrors reads = []) (k : State → Out) : s.guardR legal names reads k = k s := by
  simp only [State.guardR, State.guard_run h]
  simp only [State.hasRoom, Bool.or_eq_true, decide_eq_true_eq] at r
  have : (decide (16 ≤ s.cur.flights.length) && !(names.headD .none).discards) = false := by
    rcases r with r | r
    · rw [r]; simp
    · simp only [Bool.and_eq_false_iff, decide_eq_false_iff_not]; left; omega
  rw [this]; exact State.readingAccs_run e k
theorem State.guardX_run {s : State} {legal : Stream → Bool} {names : List Dest} (h : s.mayIssue legal names = true)
    (r : s.hasRoom (names.headD .none) = true) (e : s.accErrors names.tail = []) (k : State → Out) : s.guardX legal names k = k s :=
  State.guardR_run h r e k
theorem State.guardI_run {s : State} {legal : Stream → Bool} {names dsts : List Dest} (h : s.mayIssue legal (names ++ dsts) = true)
    (r : s.clearOf dsts = true) (k : State → Out) : s.guardI legal names dsts k = k s := by
  simp only [State.guardI, State.guard_run h]
  simp only [State.clearOf, Bool.not_eq_true'] at r
  simp [r]
theorem State.guardP_run {s : State} {names dsts : List Dest} (p : s.mayPrivileged = true) (h : s.mayIssue onC (names ++ dsts) = true)
    (r : s.clearOf dsts = true) (k : State → Out) : s.guardP names dsts k = k s := by
  simp only [State.mayPrivileged, Bool.and_eq_true, bne_iff_ne, ne_eq] at p
  simp only [State.guardP, p.1, Bool.not_true, if_neg p.2, State.guardI_run h r]
  rfl

/-! ## The checks: everything they can answer -/

theorem State.guard_cases {s t : State} {legal : Stream → Bool} {names : List Dest} {k : State → Out} (h : s.guard legal names k = .next t) :
    (legal s.cs = false ∧ t = s.takeTrap s.ct s.cs cILLEGAL_STREAM s.cur.pc (zext64 s.cur.pc) 0 false false)
      ∨ (∃ r, t = s.modCur (fun z => { z with stall := r })) ∨ k s = .next t := by
  unfold State.guard at h
  split at h
  · rename_i hl; left; refine ⟨by simpa using hl, ?_⟩; simpa [State.trap, State.trapWith] using h.symm
  · split at h
    · right; left; exact ⟨_, by simpa [State.stall] using h.symm⟩
    · right; right; exact h
theorem State.guardR_cases {s t : State} {legal : Stream → Bool} {names reads : List Dest} {k : State → Out} (h : s.guardR legal names reads k = .next t) :
    (legal s.cs = false ∧ t = s.takeTrap s.ct s.cs cILLEGAL_STREAM s.cur.pc (zext64 s.cur.pc) 0 false false)
      ∨ (∃ r, t = s.modCur (fun z => { z with stall := r })) ∨ s.readingAccs reads k = .next t := by
  rcases State.guard_cases h with h | h | h
  · exact .inl h
  · exact .inr (.inl h)
  · split at h
    · right; left; exact ⟨_, by simpa [State.stall] using h.symm⟩
    · exact .inr (.inr h)
theorem State.guardX_cases {s t : State} {legal : Stream → Bool} {names : List Dest} {k : State → Out} (h : s.guardX legal names k = .next t) :
    (legal s.cs = false ∧ t = s.takeTrap s.ct s.cs cILLEGAL_STREAM s.cur.pc (zext64 s.cur.pc) 0 false false)
      ∨ (∃ r, t = s.modCur (fun z => { z with stall := r })) ∨ s.readingAccs names.tail k = .next t :=
  State.guardR_cases h
theorem State.guardI_cases {s t : State} {legal : Stream → Bool} {names dsts : List Dest} {k : State → Out} (h : s.guardI legal names dsts k = .next t) :
    (legal s.cs = false ∧ t = s.takeTrap s.ct s.cs cILLEGAL_STREAM s.cur.pc (zext64 s.cur.pc) 0 false false)
      ∨ (∃ r, t = s.modCur (fun z => { z with stall := r })) ∨ k s = .next t := by
  rcases State.guard_cases h with h | h | h
  · exact .inl h
  · exact .inr (.inl h)
  · split at h
    · right; left; exact ⟨_, by simpa [State.stall] using h.symm⟩
    · exact .inr (.inr h)
theorem State.guardP_cases {s t : State} {names dsts : List Dest} {k : State → Out} (h : s.guardP names dsts k = .next t) :
    (∃ c, (c = cILLEGAL_STREAM ∨ c = cPRIVILEGE) ∧ t = s.takeTrap s.ct s.cs c s.cur.pc (zext64 s.cur.pc) 0 false false)
      ∨ (∃ r, t = s.modCur (fun z => { z with stall := r })) ∨ k s = .next t := by
  unfold State.guardP at h
  split at h
  · left; exact ⟨_, .inl rfl, by simpa [State.trap, State.trapWith] using h.symm⟩
  · split at h
    · left; exact ⟨_, .inr rfl, by simpa [State.trap, State.trapWith] using h.symm⟩
    · rcases State.guardI_cases h with ⟨_, h⟩ | h | h
      · exact .inl ⟨_, .inl rfl, h⟩
      · exact .inr (.inl h)
      · exact .inr (.inr h)

/-! ## Results, and what reads them -/

theorem State.result_discard {s : State} {d : Dest} (h : d.discards = true) (lat : Nat) (data bits : VRow) (fl : Flags) :
    s.result d lat data bits fl = s.bump := by simp [State.result, h]
theorem State.result_flight {s : State} {d : Dest} (h : d.discards = false) (lat : Nat) (data bits : VRow) (fl : Flags) :
    s.result d lat data bits fl = (s.modCur fun z =>
      { z with flights := z.flights ++ [{ id := s.nextId, dest := d, data := data, bits := bits, land := s.now + lat, flags := fl, lane := z.pc }] }).bump := by
  simp [State.result, h]
theorem Dest.discards_x (n : Reg) : (Dest.x n).discards = decide (n = 0) := by
  unfold Dest.discards
  by_cases h : n = 0 <;> simp [h]
theorem Dest.discards_q (n : QReg) : (Dest.q n).discards = false := by simp [Dest.discards]
theorem Dest.discards_acc (n : Nat) : (Dest.acc n).discards = false := by simp [Dest.discards]

end Sys2Proof.Machine
end

