-- ==== Sys2Proof/Tests/Slice0.lean ====
section
/-! SUPPORT. Tests: words of the spec's examples, ill-formed terms, one step each on small states, and a witness for the hypotheses of each statement. -/
open Sys2Proof Sys2Proof.Machine
namespace Sys2Proof.Tests
set_option maxRecDepth 100000
set_option exponentiation.threshold 5000

/-! ## Small states -/

/-- A line with an instruction of C in lane 1 and of F in lane 3, the rest empty. -/
def line0 : List Lane := [0x03333230, 0x2029_0040, 0, 0x4020_8002, 0, 0, 0, 0]
/-- A stream at lane 1 with the line in its buffer: x2 the most negative word, x3 1, x4 all ones, x5 a row of the own slice, x6 7, x7 one of tile 1, x8 one
of tile 8, x9 and x10 G-space pages of HBM and of the host, x11 2^40, x12 lane 1. -/
def st0 : Strm :=
  { mode := .running, pc := 1, buf := some (0, line0), priv := 0
    x := [(2, BitVec.intMin 64), (3, 1), (4, BitVec.allOnes 64), (5, 0x1000), (6, 7), (7, 0x801000), (8, 0x4001000), (9, 0x40), (10, 0x20000040), (11, 0x10000000000), (12, 1)] }
/-- A running unit on tile 0 with two cached pages. -/
def tile0 : Tile :=
  { c := st0, v := st0, f := st0, tvec := 8, unit := some { launch := 1, idx := 0 }, zeroed := true, imem := [(0, line0)], ttick := 100
    tlb := [{ ctx := 0, va := 0, log2 := 29, leaf := 0x1B }, { ctx := 0, va := 0x20000000, log2 := 29, leaf := 0x2000003B }] }
/-- One partition over the whole package, with one launch and context 0, and the link to the host. -/
def pkg (st : Stream) (u : Tile) : State :=
  { State.reset with
    cs := st, tiles := [(0, u)], parts := [(0, { formed := true, clusters := BitVec.allOnes 32, groups := BitVec.allOnes 32, ctxs := 1, cred := 7 })]
    launches := [(1, { part := 0, ctx := 0, nunits := 1, unitsLeft := 1, admitted := true, share := 4 })]
    ctxs := [(0, { enable := true })], ide := true }
/-- Tile 0 runs; stream `st` issues. -/
def run (st : Stream) : State := pkg st tile0
/-- As `run`, with the issuing stream changed. -/
def runWith (st : Stream) (f : Strm → Strm) : State := pkg st (tile0.modStrm st f)
/-- C at supervisor privilege. -/
def sup : State := runWith .C fun z => { z with priv := 1 }
/-- A step with particulars on the running tile. -/
def stepOn (e : EvArgs) (u : Tile) : State := { pkg .C u with ev := e }

/-! ## Words of the spec's examples (R104 to R106) and terms that are not well formed (R107) -/

theorem test_words : Obligations.DecodeWords := by
  unfold Obligations.DecodeWords
  repeat' (first | exact rfl | apply And.intro)
/-- The header of the line of the example under R125. -/
theorem test_header : headerOk [0x0334_0210] = true ∧ (List.range 7).map (fun i => nibble [0x0334_0210] (i + 1)) = [0, 1, 2, 0, 4, 3, 3] := by decide
theorem test_illformed : ([.loop 0 1, .lit 1 true 0 (some 0), .ldq 1 4 0 0 none, .ldq 1 3 16 0 none, .ldq 1 0 0 0 (some ⟨.release, 1⟩), .stq 1 0 0 0 (some ⟨.acquire, 1⟩),
    .ldqW 1 0 0 0 (some ⟨.acquire, 7⟩), .ldqWc 1 5 0 0 none, .ldg 1 0 0 (some ⟨.release, 1⟩), .stg 1 0 0 (some ⟨.acqrel, 1⟩), .lds 1 0x2000, .sts 1 0x2000,
    .amo 1 0 0 0 9 true 1 none, .amo 1 5 0 0 0 true 1 none, .cas 1 5 0 0 1 1 none, .cbwaitf 0 256, .cbwaite 0 256, .fence 7, .barinit 1 7 0, .bararr 1 false 0,
    .barwait 1 1 false 0, .csrr 1 0x2000, .csrw 1 0x2000, .evt 1 0x2000, .rldq 1 0 0 (some ⟨.release, 1⟩), .rstq 1 0 0 (some ⟨.acquire, 1⟩),
    .rstqNa 1 0 0 (some ⟨.acquire, 1⟩), .ramo 1 1 1 9 true 1, .tacq 9 2, .tacq 3 3, .cancel 1 5, .cwait 1 1 5, .cread 1 1 5, .rollstat 1 1 5, .tagstat 1 1 7,
    .srr 1 0x2000, .srw 1 0x2000, .vcmp 1 1 (.xreg 1) 0 0 false 7, .vcvt 1 1 0 0 2 0 0 1, .vcvt 1 1 0 0 0 0 6 0, .vquant 1 1 0 0 3 6, .vdeq 1 1 0 0 0 3,
    .vscan 1 1 false 3 0 0, .vbcast 1 (.vreg 1) 0, .vext 1 1 (.vreg 1) 0, .vins 1 1 (.vreg 1), .vlds 1 128, .vsts 1 128, .vsett 6, .vpat 1 1 0 0, .vpat 1 0 2 1,
    .vpat 1 0 6 0, .illegalOpcode 0x01000000] : List Instr).all (fun i => !i.wellFormed) = true := by decide
/-- R107: an unused field that is not zero is refused; R110: a word of zeros is no instruction. -/
theorem test_refused : decode 0x01000001 [] = .error .reservedField ∧ decode 0x0100_0000 [1] = .error .literalCount ∧ decode 0x4C600000 [] ≠ .error .reservedField
    ∧ decode 0 [] = .ok (.illegalOpcode 0) ∧ decode 0xB4184003 [] = .error .reservedCode := by
  refine ⟨rfl, rfl, ?_, rfl, rfl⟩; intro h; cases h
/-- A word of each remaining family, written out field by field from the entry of its instruction. -/
theorem test_fields : decode (0x1D#8 ++ 1#5 ++ 2#5 ++ 3#5 ++ 4#5 ++ 0#4) [] = .ok (.mad 1 2 3 4) ∧ decode (0x36#8 ++ 0xFFFFFF#24) [] = .ok (.j 0xFFFFFF)
    ∧ decode (0x4D#8 ++ 5#3 ++ 4#3 ++ 6#5 ++ 7#13) [0x0000FF11] = .ok (.amo 5 4 6 7 1 true 0xFF none) ∧ decode (0xE0#8 ++ 1#5 ++ 2#5 ++ 3#14) [] = .ok (.vld 1 2 3)
    ∧ decode (0xC0#8 ++ 0#2 ++ 1#3 ++ 2#5 ++ 3#5 ++ 4#4 ++ 5#3 ++ 0#2) [0x9] = .ok (.vcmp 1 2 (.vreg 3) 4 5 true 1) ∧ decode (0x54#8 ++ 0#21 ++ 4#3) [] = .ok (.fence 4)
    ∧ decode (0x99#8 ++ 3#5 ++ 0#5 ++ 0x41#14) [] = .ok (.srr 3 0x41) ∧ decode (0x80#8 ++ 0#5 ++ 0#19) [] = decode 0x80000000 [] := by
  repeat' (first | exact rfl | apply And.intro)
/-- R270: the meeting routers of tags 5 and 6. R398: the example of DEVCNT. -/
theorem test_hash : meetingRouter 5 = 0x18 ∧ meetingRouter 6 = 0x83 := by decide
/-- A row address as an option, which a decision can compare. -/
def addrOf (r : AddrRes) : Option Nat := match r with | .ok a => some a | .error _ => none
theorem addr_ok {r : AddrRes} {a : Nat} (h : addrOf r = some a) : r = .ok a := by
  cases r with
  | ok b => simp only [addrOf, Option.some.injEq] at h; rw [h]
  | error e => simp [addrOf] at h

/-- R398's example. -/
theorem test_devcnt : ({ State.reset with fenced := [0x13, 0x9A], pchFenced := [1, 2, 3], portLanes := [(7, 1)] } : State).devcnt = 0x00000189FD9000FE := by decide

/-! ## Witnesses: for each statement states and operands that meet the hypotheses of its clauses -/

theorem test_witness_ScalarArithmetic (st : Stream) : (run st).mayIssue onAll [.x 1, .x 2, .x 3, .x 4] = true ∧ (run st).hasRoom (.x 1) = true := by cases st <;> decide
theorem test_witness_DivisionCountsAndFields :
    (run .C).mayIssue onAll [.x 1, .x 2, .x 0, .x 4] = true ∧ (run .C).hasRoom (.x 1) = true ∧ (run .C).x 0 = 0
      ∧ ((run .C).x 2 = BitVec.intMin 64 ∧ (run .C).x 4 = BitVec.allOnes 64) ∧ ((run .C).x 6 ≠ 0 ∧ ¬((run .C).x 6 = BitVec.intMin 64 ∧ (run .C).x 3 = BitVec.allOnes 64)) := by decide
/-- ResultAndAdvance has hypotheses on REP alone: none, before the last repetition, at it. -/
theorem test_witness_ResultAndAdvance : (run .C).cur.rep = none ∧ (runWith .C fun z => { z with rep := some { count := 2 } }).cur.rep = some { count := 2 }
    ∧ (runWith .C fun z => { z with rep := some { count := 2, idx := 1 } }).cur.rep = some { count := 2, idx := 1 } := by decide
theorem test_witness_ConditionalBranches : (run .C).mayIssue onAll [.x 3, .x 4] = true ∧ (run .C).x 3 ≠ (run .C).x 4 ∧ (run .C).targetBad ((run .C).cur.pc + 0) = none
    ∧ (run .C).targetBad ((run .C).cur.pc + 2) = some cBRANCH_TO_FOREIGN ∧ (run .C).targetBad ((run .C).cur.pc + 8) = none
    ∧ (run .C).targetBad ((run .C).cur.pc + (0x3FFF#14).signExtend 16) = some cBRANCH_TO_HEADER := by decide
theorem test_witness_JumpsAndLoops : (run .C).mayIssue onAll [.x 31] = true ∧ (run .C).hasRoom (.x 31) = true ∧ (run .C).mayIssue onAll [.x 12] = true
    ∧ (run .C).targetBad (((run .C).x 12).setWidth 16) = none ∧ (run .C).x 6 ≠ 1 ∧ (run .C).x 3 = 1 ∧ (run .C).targetBad ((run .C).cur.pc + 8) = none := by decide
theorem test_witness_RepNopTrapAndBreak : (run .C).mayIssue onAll [.x 6] = true ∧ ((run .C).x 6).toNat ≤ 65535 ∧ 65535 < ((run .C).x 4).toNat
    ∧ (run .C).me.haltBrk = false ∧ (pkg .C { tile0 with haltBrk := true }).me.haltBrk = true ∧ (pkg .C { tile0 with haltBrk := true }).mayIssue onAll [] = true := by decide
theorem test_witness_TrapTaken : ¬(Stream.V = .C ∧ ((run .V).strmOf 0 .V).priv ≠ 0) ∧ ((run .V).tile 0).tvec ≠ 0xFFFF ∧ ((run .V).tile 0).c.mode = .running
    ∧ (sup.strmOf 0 .C).priv ≠ 0 ∧ ((pkg .V { tile0 with tvec := 0xFFFF }).tile 0).tvec = 0xFFFF ∧ ((runWith .C fun z => { z with mode := .ended }).tile 0).c.mode = .ended := by decide
/-- V's trap of an earlier tick waits for C; C's own trap; C handles V's trap and returns. -/
def heldV : Tile := { tile0 with v := { st0 with mode := .held, heldAt := 90, frame := { valid := true, tpc := 1 } } }
def inHandler : Tile := { heldV with handling := some .V, c := { st0 with priv := 1, frame := { valid := true, cause := cENTRY, tpc := 1 } } }
theorem test_witness_HandlerEntryAndReturn : ((pkg .C heldV).tile (pkg .C heldV).ev.tile).mayEnter = some .V
    ∧ ((pkg .C { tile0 with c := { st0 with mode := .held, heldAt := 90 } }).tile 0).mayEnter = some .C
    ∧ (pkg .C inHandler).mayPrivileged = true ∧ (pkg .C inHandler).me.handling = some .V
    ∧ targetFault ((pkg .C { inHandler with v := { inHandler.v with pc := 1, frame := { valid := true, tpc := 9 } } }).me.line 1) .V 9 ≠ none
    ∧ headerOk ((pkg .C { inHandler with v := { inHandler.v with frame := { valid := true, tpc := 9 } } }).me.line 1) = false := by decide
theorem test_witness_SupervisorAndTrapSteps : sup.mayPrivileged = true ∧ sup.mayIssue onC [.x 3, .x 1] = true ∧ sup.clearOf [.x 1] = true ∧ sup.sreg 0 = some 1
    ∧ (sup.sreg 0x43).isSome = true ∧ sup.tileFault sup.ct ((sup.x 3).setWidth 8) = none ∧ (pkg .C inHandler).me.handling ≠ none
    ∧ (sup.x 3 ≠ 0 ∧ (sup.x 3).toNat ≤ sup.now) ∧ (pkg .C { tile0 with c := { st0 with priv := 1 }, woken := true }).me.woken = true
    ∧ ((run .C).cs = .C ∧ (run .C).cur.priv = 0)
    ∧ ((runWith .C fun z => { z with asyncs := [{ due := 3 }] }).strmOf 0 .C).asyncs.find? (fun x => x.due ≤ 100) = some { due := 3 }
    ∧ (({ tile0 with idleUntil := 50, c := { st0 with waitN := some idleMark } } : Tile).c.waitN = some idleMark) := by decide
theorem test_witness_RowRegistersSpillAndFences : (run .F).mayIssue onCF [.x 1, .q 2, .q 3, .q 4, .x 5, .x 6] = true ∧ (run .F).hasRoom (.x 1) = true ∧ (run .F).hasRoom (.q 2) = true
    ∧ (0 ≤ ((run .F).x 6 + (16376#14).signExtend 64).toInt ∨ ((run .F).x 6 + (16376#14).signExtend 64).toInt < 0)
    ∧ ((run .F).x 0 + (8191#14).signExtend 64).toInt = 8191 ∧ (runWith .F fun z => { z with x := [(1, 16383)] }).x 1 = 16383 ∧ 16383 < ((run .F).x 11).toInt
    ∧ (run .F).mayIssue onAll [] = true ∧ (run .F).cur.accs.all Access.markOk = true ∧ (runWith .F fun z => { z with accs := [{ isLoad := true }] }).cur.accs.all Access.markOk = false
    ∧ ((runWith .F fun z => { z with accs := [{ isLoad := true }] }).cur.accs.all fun e => e.fenceOk 0 1) = false ∧ ((run .F).cur.naOut = [] ∧ (run .F).cur.remoteOut = []) := by decide
theorem test_witness_RowLoads : (run .F).mayIssue onCF (.q 1 :: baseNames 0 5) = true ∧ (run .F).rowAddr 0 5 2 = .ok 0x1080 ∧ (run .F).chanGate 0x1080 = .free
    ∧ keyTile 0x1080 = (run .F).ct ∧ (run .F).cur.flights.length < 16 ∧ (run .F).mayNow 4 { key := 0x1080, ownDie := true, addr := 0x1080 } = true
    ∧ (run .F).rowAddr 0 7 0 = .ok 0x801000 ∧ keyTile 0x801000 ≠ (run .F).ct ∧ clusterOf (keyTile 0x801000) = clusterOf (run .F).ct
    ∧ (run .F).rowAddr 0 8 0 = .ok 0x4001000 ∧ clusterOf (keyTile 0x4001000) ≠ clusterOf (run .F).ct ∧ (run .F).cur.issuedWait = none ∧ (run .F).clearOf [.q 1] = true
    ∧ (runWith .F fun z => { z with issuedWait := some 20 }).cur.issuedWait = some 20 ∧ (runWith .F fun z => { z with issuedWait := some 20, accs := [{ id := 20 }] }).cur.accs = [{ id := 20 }] := by
  and_intros <;> decide
theorem test_witness_StoresAndGlobal : (run .F).mayIssue onCF (.q 1 :: baseNames 0 5) = true ∧ (run .F).rowAddr 0 5 2 = .ok 0x1080 ∧ (run .F).mayIssue onCF [.q 1, .x 9] = true
    ∧ (run .F).gResolve ((run .F).addrG 9 0) false true = .ok ⟨keyHbm 0x40, false⟩ ∧ (run .F).gResolve ((run .F).addrG 9 0) true false = .ok ⟨keyHbm 0x40, false⟩
    ∧ (run .F).mayIssue onCF [.x 9, .q 1] = true ∧ (run .F).clearOf [.q 1] = true := by
  and_intros <;> decide
theorem test_witness_Atomics : (run .F).mayIssue onCF (.q 2 :: baseNames 0 5 ++ [.q 1]) = true ∧ (run .F).mayIssue onCF (.q 2 :: baseNames 4 9 ++ [.q 1]) = true
    ∧ (run .F).clearOf [.q 1] = true ∧ (run .F).rowAddr 0 5 2 = .ok 0x1080 ∧ (run .F).chanGate 0x1080 = .free
    ∧ (run .F).gResolve ((run .F).addrG 9 0) true true = .ok ⟨keyHbm 0x40, false⟩ ∧ (run .F).gResolve ((run .F).addrG 10 0) true true = .ok ⟨keyHost 0x20000040, true⟩
    ∧ (8#4).toNat ≤ 8 ∧ (1#8 ≠ 0 ∧ ∃ j, j < 8 ∧ (1#8).getLsbD j = true ∧ rowWord 0 j ≠ rowWord 1 j) ∧ (0#8 : BitVec 8) = 0 := by
  and_intros <;> first | decide | exact ⟨0, by decide⟩

/-- V's states: the vector registers by type. -/
def vec (e : BitVec 3) : State := pkg .V { tile0 with vtype := e, condQ := [1, 2] }
/-- F with one access in its queue and the event of its performance. -/
def accS (a : Access) : State := { runWith .F fun z => { z with accs := [{ a with id := 3 }] } with ev := { st := .F, id := 3 } }
theorem test_witness_StorePerformed : (accS { isLoad := false, isStore := true, key := 0x1040 }).Inv
    ∧ (accS { key := 0x1040 }).accOf = some { key := 0x1040, id := 3 } ∧ (accS { key := 0x1040 }).accMay { key := 0x1040, id := 3 } = true
    ∧ (accS { ownDie := false }).accOf = some { ownDie := false, id := 3 } ∧ (accS { ownDie := false }).accMay { ownDie := false, id := 3 } = true
    ∧ (accS { bridged := true, arrive := some {} }).accOf = some { bridged := true, arrive := some {}, id := 3 }
    ∧ (accS { bridged := true, arrive := some {} }).accMay { bridged := true, arrive := some {}, id := 3 } = true
    ∧ (keyIsS 0x1040 = true ∧ 0x1040 % 64 = 0) := by
  and_intros <;> first | decide | (unfold State.Inv; decide)
/-- A row load into q1, with its result in flight and, for an interlocked one, outstanding. -/
def loadS (r : Option Rmw) : State :=
  { runWith .F fun z => { z with accs := [{ id := 3, key := 0x1040, sink := some 2, rmw := r }], flights := [{ id := 2, dest := .q 1, loads := [3] }]
                                 awaits := [{ id := 2, dests := [.q 1], loads := [3] }] } with ev := { st := .F, id := 3 } }
theorem test_witness_LoadPerformed : (loadS none).Inv ∧ (loadS none).ev.num = 0 ∧ (loadS none).accOf = some { id := 3, key := 0x1040, sink := some 2 }
    ∧ (loadS none).accMay { id := 3, key := 0x1040, sink := some 2 } = true ∧ (loadS none).rowFull 0x1040 = true
    ∧ (loadS (some (.amo 1 true 1 1))).accOf = some { id := 3, key := 0x1040, sink := some 2, rmw := some (.amo 1 true 1 1) }
    ∧ (loadS (some (.amo 1 true 1 1))).accMay { id := 3, key := 0x1040, sink := some 2, rmw := some (.amo 1 true 1 1) } = true
    ∧ ((loadS none).strmOf 0 .F).flights = [{ id := 2, dest := .q 1, loads := [3] }] ∧ ((loadS none).strmOf 0 .F).awaits = [{ id := 2, dests := [.q 1], loads := [3] }] := by
  and_intros <;> first | decide | (unfold State.Inv; decide)
/-- A result due at this tick beside one that is not, and an interlocked result. -/
def landS (ls : List Nat) : State :=
  { runWith .F fun z => { z with flights := [{ id := 1, dest := .x 4, data := 9, land := 100, flags := 3 }, { id := 2, dest := .x 5, land := 101 }]
                                 awaits := [{ id := 3, dests := [.x 6], vals := [7], loads := ls, minLand := 100 }] } with ev := { st := .F, id := 3 } }
theorem test_witness_ResultsLand :
    (((landS []).strmOf 0 .F).flights.filter (fun f => f.land ≤ ((landS []).tile 0).ttick) = [{ id := 1, dest := .x 4, data := 9, land := 100, flags := 3 }])
    ∧ ((landS []).strmOf 0 .F).awaits.find? (fun w => w.id = 3) = some { id := 3, dests := [.x 6], vals := [7], loads := [], minLand := 100 }
    ∧ 100 ≤ ((landS []).tile 0).ttick ∧ ((landS [8]).strmOf 0 .F).awaits.find? (fun w => w.id = 3) = some { id := 3, dests := [.x 6], vals := [7], loads := [8], minLand := 100 } := by
  and_intros <;> decide
theorem test_witness_VectorFloat (e : BitVec 3) : (vec e).mayIssue onV (.mask 0 :: (vec e).vNames 1 2 (.vreg 3) 4) = true ∧ (vec e).cur.flights.length < 16
    ∧ (vec e).mayIssue onV [.acc ((vec e).accRow 1), .acc ((vec e).accRow 2), .mask 1] = true ∧ etypeFmt 0 = some fp32 ∧ etypeFmt 3 = none := by
  refine ⟨rfl, Nat.succ_pos 15, rfl, rfl, rfl⟩
theorem test_witness_VectorInteger (e : BitVec 3) : (vec e).mayIssue onV ((vec e).vNames 1 2 (.lit 5) 4) = true ∧ (vec e).cur.flights.length < 16
    ∧ etypeFmt 4 = none ∧ (etypeFmt 1).isSome = true := by
  refine ⟨rfl, Nat.succ_pos 15, rfl, rfl⟩
theorem test_witness_CompareAndMove (e : BitVec 3) : (vec e).mayIssue onV (.mask 2 :: .x 3 :: .x 4 :: (vec e).vNames 3 4 (.xreg 5) 1) = true
    ∧ (vec e).cur.flights.length < 16 ∧ (etypeFmt 0).isSome = true ∧ ¬(true = true ∧ (etypeFmt 5).isSome = true) := by
  refine ⟨rfl, Nat.succ_pos 15, rfl, by decide⟩
theorem test_witness_Conversions (e : BitVec 3) : (vec e).mayIssue onV [.acc ((vec e).accRow 1), .acc ((vec e).accRow 2), .mask 1] = true ∧ (vec e).cur.flights.length < 16
    ∧ vcvtOk 1 1 0 = true ∧ vcvtOk 1 0 1 = true ∧ vcvtOk 0 3 3 = true ∧ quantOk 0 6 = true ∧ quantOk 3 5 = true ∧ (vec 0).me.vtype = 0 ∧ (vec 1).me.vtype ≠ 0 := by
  refine ⟨rfl, Nat.succ_pos 15, ?_⟩; decide
theorem test_witness_Reductions (e : BitVec 3) : (vec e).mayIssue onV [.acc ((vec e).accRow 1), .acc ((vec e).accRow 2), .mask 1] = true
    ∧ (vec e).cur.flights.length < 16 ∧ (vec 5).me.vtype.toNat ≤ 5 ∧ (vec 2).me.vtype.toNat ≤ 5 := by
  refine ⟨rfl, Nat.succ_pos 15, by decide, by decide⟩
/-- Eight rows of the own slice from offset 1000H, and of tile 1's. -/
theorem test_witness_VectorMemory : (run .V).mayIssue onV [.acc ((run .V).accRow 1), .x 5] = true ∧ (run .V).cur.flights.length < 16
    ∧ (∀ k, k < 8 → (run .V).sFault (run .V).ct (0x1000 + 64 * k) = none ∧ (run .V).chanGate (0x1000 + 64 * k) = .free)
    ∧ (∀ k, k < 8 → keyTile (0x1000 + 64 * k) = (run .V).ct
        ∧ (run .V).mayNow 6 { key := 0x1000 + 64 * k, ownDie := (run .V).ownDie (0x1000 + 64 * k), part := k, addr := BitVec.ofNat 64 (0x1000 + 64 * k) } = true)
    ∧ (∀ k, k < 8 → (run .V).vRows 5 0 = (List.range 8).map fun k => 0x1000 + 64 * k)
    ∧ (∀ k, k < 8 → (run .V).sFault (run .V).ct (0x801000 + 64 * k) = none ∧ (run .V).chanGate (0x801000 + 64 * k) = .free) ∧ keyTile 0x801000 ≠ (run .V).ct := by
  and_intros <;> decide
theorem test_witness_VectorStateAndQueue : (run .V).mayIssue onV ([.x 1, .x 2, .mask 1, .mask 2, .mask 3, .vtype, .vwbase, .pat 1]
      ++ (List.range 32).map fun n => .acc (((run .V).accRow 1 + n) % 256)) = true ∧ (run .V).cur.flights.length < 16
    ∧ (vec 0).mayIssue onV [.x 1, .x 2, .acc ((vec 0).accRow 2), .acc ((vec 0).accRow 1), .mask 1, .mask 2] = true ∧ (vec 0).clearOf [.acc ((vec 0).accRow 1), .mask 2, .x 1] = true
    ∧ (vec 3).me.vtype = 3 ∧ ((vec 0).me.condQ.length + 128 ≤ 1024) ∧ 1024 < (pkg .V { tile0 with condQ := List.replicate 897 0 }).me.condQ.length + 128
    ∧ (runWith .V fun z => { z with waitN := some balDone }).cur.waitN = some balDone := by
  and_intros <;> decide
/-- A buffer of two slots with one filled; with both filled; with none. x6 7 makes no buffer, `cbW` names two slots of four rows. -/
def cbW : Word := BitVec.ofNat 64 (2 ^ 46 * 2 + 2 ^ 37 * 2 + 4 * 96)
def cbS (p c : BitVec 9) : State :=
  pkg .C { tile0 with c := { st0 with x := [(1, cbW)] }, cbs := [(1, { slotRows := 4, nSlots := 2, prod := p, cons := c, valid := true })] }
theorem test_witness_CircularBuffers : (cbS 1 0).mayIssue onAll [.x 1] = true ∧ ((cbS 1 0).x 1).toNat / 2 ^ 37 % 2 ^ 8 ≠ 0
    ∧ ((cbS 1 0).x 1).toNat / 4 % 2 ^ 17 + ((cbS 1 0).x 1).toNat / 2 ^ 37 % 2 ^ 8 * (((cbS 1 0).x 1).toNat / 2 ^ 45 % 2 ^ 8) ≤ 98304 ∧ (cbS 1 0).me.cbWaited 1 = false
    ∧ ((run .C).x 6).toNat / 2 ^ 37 % 2 ^ 8 = 0 ∧ (Map.get {} (cbS 1 0).me.cbs 1 : CircBuf).valid = true ∧ (Map.get {} (cbS 1 0).me.cbs 0 : CircBuf).valid = false
    ∧ (1#14).toNat ≤ (1 + 2 * 2 - 0) % (2 * 2) ∧ (1#14).toNat ≤ 2 - (1 + 2 * 2 - 0) % (2 * 2) ∧ (1 + 2 * 2 - 0) % (2 * 2) < (2#14).toNat ∧ (1 + 4) % 4 + (1#8).toNat ≤ 2
    ∧ (1#8).toNat ≤ (1 + 4) % 4 ∧ (cbS 1 0).cur.accs = [] := by decide
/-- A barrier in phase 3 that expects two arrivals and has one. -/
def barS (v : Bool) : State := pkg .C { tile0 with bars := [(5, { valid := v, scope := 1, expect := 2, count := 1, phase := 3 })] }
def arrS (u : Tile) : State := { pkg .C u with msgs := [(9, .arrival { home := 0, idx := 5, launch := 1, tile := 0 })], ev := { id := 9 } }
theorem test_witness_Barriers : (barS true).mayIssue onAll [.x 6, .x 3] = true ∧ (1 ≤ ((barS true).x 6).toNat ∧ ((barS true).x 6).toNat ≤ 65535)
    ∧ (Map.get {} (barS true).me.bars 4 : Barrier).valid = false ∧ (((barS true).x 0).toNat = 0 ∧ 65535 < ((barS true).x 4).toNat)
    ∧ ((Map.get {} (barS true).me.bars 5 : Barrier).valid = true ∧ (Map.get {} (barS true).me.bars 5 : Barrier).count ≠ 0)
    ∧ ({ barS true with fenced := [7] } : State).tileFault (barS true).ct 7 = some cTILE_FENCED ∧ (barS true).tileFault (barS true).ct 7 = none
    ∧ (barS true).tileFault (barS true).ct (barS true).ct = none
    ∧ (Map.get {} (barS true).me.bars 5 : Barrier).phase ≠ ((barS true).x 6).setWidth 16 ∧ (Map.get {} (barS false).me.bars 5 : Barrier).valid = false := by decide
theorem test_witness_BarrierArrival : Map.find (arrS (barS true).me).msgs (arrS (barS true).me).ev.id = some (.arrival { home := 0, idx := 5, launch := 1, tile := 0 })
    ∧ (barS true).me.unit = some { launch := 1, idx := 0 } ∧ (barS true).me.qTakes 4 1 = true
    ∧ ({ tile0 with barQ := List.replicate 2048 {} } : Tile).qTakes 4 1 = false ∧ ({ tile0 with unit := none } : Tile).unit = none
    ∧ (Map.get {} (barS true).me.bars 5 : Barrier).count + 1 = (Map.get {} (barS true).me.bars 5 : Barrier).expect := by decide
theorem test_witness_StatusRegisters : (run .C).mayIssue onAll [.x 1, .x 2] = true ∧ (run .C).hasRoom (.x 1) = true ∧ ((run .C).csr 0x3FFF).isNone = true
    ∧ ((run .C).csr 0).isSome = true ∧ ((run .C).csr 2).isSome = true ∧ (0x20 ≤ (0x20#14).toNat ∧ (0x37#14).toNat ≤ 0x37)
    ∧ (0x100 ≤ (0x100#14).toNat ∧ (0x17F#14).toNat ≤ 0x17F) ∧ (0x10 ≤ (0x10#14).toNat ∧ (0x17#14).toNat ≤ 0x17) := by decide
/-- C with a live handle 7 (x6), no handle 1 (x3), and a record row at 1000H (x5). -/
def shapeS : State := pkg .C { tile0 with handles := [(7, { cur := 0x2000 })] }
theorem test_witness_Shapes : shapeS.mayIssue onC [.x 3, .x 5, .x 1] = true ∧ shapeS.mayIssue onC [.x 6, .x 5, .x 1] = true ∧ shapeS.clearOf [.x 1] = true
    ∧ ((shapeS.x 3).toNat % 2 ^ 12 = 1 ∧ (shapeS.x 6).toNat % 2 ^ 12 = 7 ∧ (shapeS.x 5).toNat % 2 ^ 32 = 0x1000)
    ∧ shapeS.sFault shapeS.ct 0x1000 = none ∧ keyTile 0x1000 = shapeS.ct ∧ shapeS.ownRow 0x1000 = some 0 ∧ Map.has shapeS.me.handles 7 = true
    ∧ shapeS.me.handle 1 = none ∧ (shapeS.me.handle 7).isSome = true ∧ shapeS.me.handleUsed 7 = false
    ∧ ({ tile0 with handles := [(7, { cur := 0x2000 })], window := [{ record := { boxes := [some { handle := 7 }] } }] } : Tile).handleUsed 7 = true := by
  and_intros <;> decide

/-- A SOFT task with no boxes, and one of the copy engine. -/
def softRec : TaskRec := { eng := 4, boxes := [none, none, none, none] }
def copyRec : TaskRec := { eng := 1, boxes := [none, none, none, none] }
/-- C with the rows of a SOFT record at 1000H (x5); zeros stand at 2000H (x6): no record that R168 admits. -/
def postS (n : Nat) : State :=
  { pkg .C { tile0 with c := { st0 with x := [(5, 0x1000), (6, 0x2000)] }, window := List.replicate n { acc := 1 } } with mem := [(0x1001, 4)] }
theorem test_witness_Post : (postS 0).mayIssue onC [.x 5, .x 1] = true ∧ (postS 0).clearOf [.x 1] = true
    ∧ (∀ i, i < 3 → (postS 0).sFault (postS 0).ct (0x1000 + 64 * i) = none) ∧ (keyTile 0x1000 = (postS 0).ct ∧ keyTile 0x1080 = (postS 0).ct)
    ∧ (postS 0).ownRow 0x1000 = some 0x400 ∧ (postS 0).ownRow 0x1040 = some 0 ∧ (postS 0).ownRow 0x1080 = some 0 ∧ (postS 0).ownRow 0x2000 = some 0
    ∧ (postS 0).me.window.length + (postS 0).me.posts.length < (postS 0).me.winlim ∧ (postS 0).me.malformed 0x400 0 0 false = false
    ∧ (postS 0).me.malformed 0 0 0 false = true ∧ (postS 64).me.winlim ≤ (postS 64).me.window.length + (postS 64).me.posts.length := by
  and_intros <;> decide
def acceptS (n : Nat) (ps : List PendingPost) (rs : List RemotePost) : State := stepOn { num := n } { tile0 with eclk := 50, posts := ps, remoteQ := rs }
theorem test_witness_TaskAccepted : ((acceptS 0 [] []).tile 0).unit.isSome = true ∧ ((acceptS 0 [] []).tile 0).preemptReq = false
    ∧ ((acceptS 0 [{ due := 50, record := softRec }] []).tile 0).posts = [{ due := 50, record := softRec }] ∧ tile0.poisoned softRec = false
    ∧ ((acceptS 1 [] [{ record := softRec }]).tile 0).posts = [] ∧ ((acceptS 1 [] [{ record := softRec }]).tile 0).remoteQ = [{ record := softRec }]
    ∧ ((acceptS 1 [] []).tile 0).window.length < ((acceptS 1 [] []).tile 0).winlim := by
  and_intros <;> decide
/-- A window with one task. -/
def winS (k : Task) : State := stepOn { id := 1, num := k.record.eng } { tile0 with eclk := 50, window := [k], handles := [(3, { shape := { rename := true, ext0 := 4 } })] }
/-- A task of one write box of handle 3, with a WAR edge. -/
def boxRec : TaskRec := { eng := 4, boxes := [some { handle := 3, write := true, iv := { h0 := 4 } }, none, none, none] }
def warTask : Task := { acc := 1, record := boxRec, edges := [{ older := 1, kind := .war, box := 0 }] }
theorem test_witness_TaskEnds :
    ((winS { acc := 1, st := 2, ended := some 0 }).tile 0).task 1 = some { acc := 1, st := 2, ended := some 0 } ∧ 0 ≤ ((winS { acc := 1 }).tile 0).eclk
    ∧ ((winS { acc := 1, st := 2, ended := some 0, newVer := [(0, 64)] }).tile 0).task 1 = some { acc := 1, st := 2, ended := some 0, newVer := [(0, 64)] }
    ∧ ((winS { acc := 1, st := 2, ended := some 7 }).tile 0).task 1 = some { acc := 1, st := 2, ended := some 7 } ∧ (7#16 ≠ 0)
    ∧ ((winS { acc := 1, st := 3, record := boxRec, newVer := [(0, 64)] }).tile 0).mayPublish { acc := 1, st := 3, record := boxRec, newVer := [(0, 64)] } = true
    ∧ (boxRec.box 0).isSome = true ∧ (((winS {}).tile 0).handle 3).isSome = true
    ∧ ((winS warTask).tile 0).window = [warTask] ∧ (((winS warTask).tile 0).boxesOf warTask.record).length = 1
    ∧ (winS warTask).renames 0 warTask 0 { handle := 3, write := true, iv := { h0 := 4 } } { shape := { rename := true, ext0 := 4 } } = true
    ∧ ((winS warTask).renamePlace 0 3 { shape := { rename := true, ext0 := 4 }, inPool := true }).isSome = true := by
  and_intros <;> decide
theorem test_witness_TaskReleases : ((winS { acc := 1, record := copyRec }).tile 0).unit.isSome = true ∧ ((winS {}).tile 0).preemptReq = false
    ∧ (winS { acc := 1, record := copyRec }).pickReady 0 1 ((winS { acc := 1, record := copyRec }).executorFree 0) = some { acc := 1, record := copyRec }
    ∧ ((winS { acc := 1, record := copyRec }).releaseTask 0 { acc := 1, record := copyRec }).2 = true
    ∧ ((winS { acc := 1, record := copyRec }).tile 0).boxesOf copyRec = []
    ∧ ((winS { acc := 1, st := 2, cancel := true, record := copyRec }).tile 0).task 1 = some { acc := 1, st := 2, cancel := true, record := copyRec } := by
  and_intros <;> decide
/-- A box whose extent is read from a row outside the tile's cluster fails at release. -/
theorem test_witness_releaseFails : ((winS { acc := 1, record := { boxRec with boxes := [some { handle := 3, idim := 1, iaddr := 0x4001000 }, none, none, none] } }).releaseTask 0
    { acc := 1, record := { boxRec with boxes := [some { handle := 3, idim := 1, iaddr := 0x4001000 }, none, none, none] } }).2 = false := by decide
def taskS (k : Task) : State := pkg .C { tile0 with accCtr := 9, window := [k] }
theorem test_witness_TaskInstructions : (taskS { acc := 9, seq := 9 }).mayIssue onC [.x 6, .x 9] = true ∧ (taskS {}).clearOf [.x 9] = true ∧ (taskS {}).cur.waitN = none
    ∧ (taskS {}).me.accOf (((taskS {}).x 6).toNat % 2 ^ 32) = some 7 ∧ (∀ o, o ∈ (taskS { acc := 9 }).me.window → 7 < o.acc) ∧ (taskS { acc := 7 }).me.window = [{ acc := 7 }]
    ∧ (taskS {}).me.firstBad = none ∧ (taskS {}).mayIssue onAll (tacqDests 9) = true ∧ (taskS {}).clearOf (tacqDests 9) = true ∧ 8 < (9#5).toNat
    ∧ (taskS {}).cur.heldTask = none ∧ (taskS {}).me.softAt ≠ some (taskS {}).me.eclk
    ∧ (taskS { acc := 1, record := softRec }).pickReady 0 4 (fun _ => true) = some { acc := 1, record := softRec }
    ∧ ((taskS { acc := 1, record := softRec }).releaseTask 0 { acc := 1, record := softRec }).2 = true
    ∧ (taskS { acc := 1 }).pickReady 0 4 (fun _ => true) = none ∧ ({ tile0 with c := { st0 with mode := .ended } } : Tile).drained 4 = true ∧ tile0.drained 4 = false
    ∧ (runWith .F fun z => { z with heldTask := some 1 }).cur.heldTask = some 1 ∧ (runWith .F fun z => { z with heldTask := some 1 }).cur.fenced 0 4 = true := by
  and_intros <;> decide
def deqS (d : List Word) : State := pkg .C { tile0 with deque := d }
theorem test_witness_DequeAndLevels : (deqS []).mayIssue onC [.x 6, .x 9] = true ∧ (deqS []).clearOf [.x 9] = true ∧ ((deqS []).x 6).getLsbD 63 = false
    ∧ ((deqS []).x 2).getLsbD 63 = true ∧ (deqS []).me.qTakes 0 1 = true ∧ ({ tile0 with deque := List.replicate 2048 0 } : Tile).qTakes 0 1 = false
    ∧ (deqS [1, 2]).me.deque = [1] ++ [2] ∧ (deqS []).me.deque = [] ∧ (deqS []).tileFault (deqS []).ct (((deqS []).x 6).setWidth 8) = none
    ∧ (((deqS [5]).tile 0).unit.map UnitRes.launch).isSome = true ∧ ((deqS [5]).tile 0).deque = 5 :: []
    ∧ (deqS []).mayIssue onAll [] = true ∧ (deqS []).cur.heldTask = none ∧ (deqS []).levelMember 1 0 = some 1 ∧ (deqS []).mayIssue onC [.x 0] = true := by
  and_intros <;> decide
/-- A child launch 7 (x6) of the tile's launch: running, then over. -/
def childS (st : BitVec 3) : State := { run .C with launches := [(1, { ctx := 0 }), (7, { parent := some 1, status := st })] }
theorem test_witness_children : (childS 0).levelMember 1 ((childS 0).x 6) = some 7 ∧ ((childS 0).x 6).toNat % 2 ^ 32 ≠ 0 ∧ ((childS 0).launch 7).status = 0
    ∧ ((childS 1).launch 7).status ≠ 0 ∧ ((childS 0).x 0).toNat % 2 ^ 32 = 0 ∧ (childS 0).mayIssue onC [.x 6, .x 1] = true := by decide
def overTile : Tile := { tile0 with c := { st0 with mode := .ended }, v := { st0 with mode := .noEntry }, f := { st0 with mode := .ended } }
theorem test_witness_UnitStopsAndRetires : ((stepOn {} tile0).tile 0).unit = some { launch := 1, idx := 0 } ∧ (stepOn {} tile0).ev.num = 0
    ∧ ((stepOn {} overTile).tile 0).unit = some { launch := 1, idx := 0 } ∧ ((stepOn {} overTile).tile 0).unitOver = true := by decide

/-! ### Remote instructions, channels -/

theorem nat_peer (p c : Nat) (h : p < 1058) (_ : c < 2 ^ 200) : ((p * 2 ^ 24 + 481 + c * 2 ^ 35) % 2 ^ 256) / 2 ^ 24 % 2 ^ 11 = p := by omega
/-- Its fields above PEER: LIMIT 1000H, tiles 0 to 255. -/
def ownHi : Nat := 0xFF * 2 ^ 157 + 0x1000 * 2 ^ 93
/-- A window entry of this package in context 0: valid, loads, stores, atomics and posts, 1000H bytes, tiles 0 to 255. -/
def ownEntry : BitVec 256 := BitVec.ofNat 256 (Config.packageNumber.val * 2 ^ 24 + 481 + ownHi * 2 ^ 35)
theorem wPeer_eq (e : BitVec 256) : wPeer e = e.toNat / 2 ^ 24 % 2 ^ 11 := by
  unfold wPeer bits; rw [Nat.shiftRight_eq_div_pow]
theorem own_hc : ownHi < 2 ^ 200 := by decide
theorem toNat_word256 (n : Nat) : (BitVec.ofNat 256 n).toNat = n % 2 ^ 256 := BitVec.toNat_ofNat n 256
theorem own_toNat : ownEntry.toNat = (Config.packageNumber.val * 2 ^ 24 + 481 + ownHi * 2 ^ 35) % 2 ^ 256 := toNat_word256 _
theorem own_p : Config.packageNumber.val < 1058 := Config.packageNumber.isLt
theorem own_q : ((Config.packageNumber.val * 2 ^ 24 + 481 + ownHi * 2 ^ 35) % 2 ^ 256) / 2 ^ 24 % 2 ^ 11 = Config.packageNumber.val := nat_peer _ _ own_p own_hc
theorem own_peer : wPeer ownEntry = Config.packageNumber.val := by
  rw [wPeer_eq, own_toNat, own_q]
theorem own_lo (p c i : Nat) (hi : i < 24) : Nat.testBit ((p * 2 ^ 24 + 481 + c * 2 ^ 35) % 2 ^ 256) i = Nat.testBit 481 i := by
  have e : (p * 2 ^ 24 + 481 + c * 2 ^ 35) % 2 ^ 256 % 2 ^ 24 = 481 := by omega
  have q := Nat.testBit_mod_two_pow ((p * 2 ^ 24 + 481 + c * 2 ^ 35) % 2 ^ 256) 24 i
  rw [e] at q; rw [q]; simp only [hi, decide_true, Bool.true_and]
theorem own_hi (p c : Nat) (h : p < 1058) (hc : c < 2 ^ 200) : ((p * 2 ^ 24 + 481 + c * 2 ^ 35) % 2 ^ 256) / 2 ^ 35 = c := by omega
theorem field_above (e : BitVec 256) (c hi lo : Nat) (h : e.toNat / 2 ^ 35 = c) : bits e hi (35 + lo) = c / 2 ^ lo % 2 ^ (hi + 1 - (35 + lo)) := by
  unfold bits; rw [Nat.shiftRight_eq_div_pow, Nat.pow_add, ← Nat.div_div_eq_div_mul, h]
theorem own_top : ownEntry.toNat / 2 ^ 35 = ownHi := own_toNat.symm ▸ own_hi _ _ own_p own_hc
theorem own_k (hi lo : Nat) : bits ownEntry hi (35 + lo) = ownHi / 2 ^ lo % 2 ^ (hi + 1 - (35 + lo)) := field_above _ _ hi lo own_top
theorem own_b0 : bitAt ownEntry 0 = true := by
  unfold bitAt BitVec.getLsbD; rw [own_toNat, own_lo _ _ 0 (by decide)]; decide
theorem own_b8 : bitAt ownEntry 8 = true := by
  unfold bitAt BitVec.getLsbD; rw [own_toNat, own_lo _ _ 8 (by decide)]; decide
theorem own_f1 : bits ownEntry 191 184 = 0 := (own_k 191 149).trans (by decide)
theorem own_f2 : bits ownEntry 199 192 = 0xFF := (own_k 199 157).trans (by decide)
theorem own_f3 : wCtx ownEntry = 0 := (own_k 47 5).trans (by decide)
theorem own_bits : bitAt ownEntry 0 = true ∧ bitAt ownEntry 8 = true ∧ bits ownEntry 191 184 = 0 ∧ bits ownEntry 199 192 = 0xFF ∧ wCtx ownEntry = 0 :=
  ⟨own_b0, own_b8, own_f1, own_f2, own_f3⟩
/-- A window table of one entry in HBM: package 0, valid, permissions 5 to 8, 1000H bytes. -/
def winTile : Tile := { tile0 with plane := [(0x118, 0x00018000_00000000), (0x119, 0x100)] }
def winT (st : Stream) (f : Strm → Strm) : State :=
  { pkg st (winTile.modStrm st f) with mem := [(keyHbm 0x100, 0xE1), (keyHbm 0x101, 1), (keyHbm 0x111, 0x10), (keyHbm 0x118, 0xFF)] }
theorem test_witness_RemoteInstructions : (winT .F id).freeTx = some 0 ∧ (winT .F id).mayIssue onCF [.x 0, .q 1] = true ∧ (winT .F id).clearOf [.q 1] = true
    ∧ ((winT .F id).winCheck 0 5).toOption.isSome = true ∧ ((winT .F id).winCheck 0 6).toOption.isSome = true ∧ ((winT .F id).winCheck 0 7).toOption.isSome = true
    ∧ ((winT .F id).winCheck 0x1000 5).toOption.isSome = false ∧ (winT .F id).winAddr 0 0 = 0 ∧ (winT .F id).cur.naOut.length < 64
    ∧ 64 ≤ (winT .F fun z => { z with naOut := List.range 64 }).cur.naOut.length ∧ (winT .F id).cur.waitN = none ∧ (winOff 0 % 8 = 0 ∧ winOff ((winT .F id).x 6) % 8 ≠ 0)
    ∧ ((winT .F id).winCheck ((winT .F id).x 6) 7).toOption.isSome = true
    ∧ (winT .F fun z => { z with waitN := some 4 }).cur.waitN = some 4 ∧ (winT .F fun z => { z with waitN := some 4 }).cur.awaits = []
    ∧ (winT .C id).mayIssue onC [.x 5, .x 0, .x 1] = true ∧ ((winT .C id).winEntry 0 0).any (fun e => e.toOption.isSome) = true
    ∧ (∀ j, j < 3 → (winT .C id).sFault 0 (0x1000 + 64 * j) = none) ∧ ((winT .C id).ownRow 0x1000).isSome = true := by
  and_intros <;> decide
/-- RENQ with a node at 64 and RCHASE from 64: their operands meet the checks. -/
theorem test_witness_RemoteChains : winOff 64 ≠ 0 ∧ winOff 64 % 8 = 0 ∧ ((winT .F id).winCheck 64 5).toOption.any (fun e => winOff 64 + 8 ≤ wLimit e) = true
    ∧ (let k : Word := 0x10008; k.extractLsb' 4 4 = 0 ∧ k.getLsbD 11 = false ∧ k.getLsbD 15 = false ∧ k.toNat < 2 ^ 17)
    ∧ (let ws : List Word := [0, 8, 16]; ws.all (fun u => winHandle u = 0 && winOff u % 8 = 0 && (winOff u) % 2 ^ 56 / 2 ^ 16 = 0) = true ∧ (ws.map winOff).Nodup) := by
  and_intros <;> decide
def reqS (r : Request) : State :=
  { winT .F id with msgs := [(9, .request r)], ev := { id := 9 }, hubTlbs := [(hubMem, [{ ctx := 0, va := 0, log2 := 29, leaf := 0x1B }])] }
/-- A request to a peer that its target lets act: the row lies at the window's key of the peer. One whose target refuses it. -/
def peerReq (k : RemoteKind) : Request := { kind := k, path := some { port := 0, hops := 0, via := none }, entry := BitVec.ofNat 256 ((if Config.packageNumber.val = 0 then 1 else 0) * 2 ^ 24 + 0xE1 + 0x1000 * 2 ^ 128) }
theorem test_witness_RemoteEffects (k : RemoteKind) : Map.find (reqS (peerReq k)).msgs (reqS (peerReq k)).ev.id = some (.request (peerReq k))
    ∧ (reqS (peerReq k)).aged (peerReq k).time = false ∧ (reqS (peerReq k)).requestMay (peerReq k) (reqS (peerReq k)).ev.id = true
    ∧ (reqS (peerReq k)).refusal (peerReq k) = 0 ∧ (reqS { peerReq k with fate := 1 }).refusal { peerReq k with fate := 1 } = 1
    ∧ ∀ o, (reqS (peerReq k)).requestTarget (peerReq k) o = .ok (winKey (peerReq k).entry o) := by
  have hp : wPeer (peerReq k).entry ≠ Config.packageNumber.val := by
    simp only [wPeer, bits, peerReq, BitVec.toNat_ofNat, Nat.shiftRight_eq_div_pow]; split <;> omega
  have hs : wSealed (peerReq k).entry = false := by
    simp only [wSealed, bitAt, peerReq, BitVec.getLsbD, BitVec.toNat_ofNat, Nat.testBit_eq_decide_div_mod_eq, decide_eq_false_iff_not]; split <;> omega
  have ho : wOrdered (peerReq k).entry = false := by
    simp only [wOrdered, bitAt, peerReq, BitVec.getLsbD, BitVec.toNat_ofNat, Nat.testBit_eq_decide_div_mod_eq, decide_eq_false_iff_not]; split <;> omega
  refine ⟨rfl, rfl, ?_, ?_, ?_, ?_⟩
  · simp only [State.requestMay, ho, Bool.false_and, Bool.not_false, Bool.and_true]; rfl
  · simp only [State.refusal, hs, show (peerReq k).path.isNone = false from rfl, Bool.and_false]; rfl
  · simp only [State.refusal, show wSealed ({ peerReq k with fate := 1 } : Request).entry = false from hs, show ({ peerReq k with fate := 1 } : Request).path.isNone = false from rfl, Bool.and_false]; rfl
  · intro o; simp only [State.requestTarget, if_pos hp]
/-- A remote post to tile 1, which holds a unit of context 0 and room; without a unit it is refused. -/
def postReq : Request := { kind := .rpost, entry := ownEntry, target := 1, rows := [0x400, 0, 0] }
def postTo (u : Option UnitRes) : State := { winT .C id with tiles := [(0, winTile), (1, { tile0 with unit := u })], msgs := [(9, .request postReq)], ev := { id := 9 } }
theorem test_witness_RemotePost : Map.find (postTo none).msgs 9 = some (.request postReq) ∧ (postTo none).aged postReq.time = false ∧ wPeer postReq.entry = Config.packageNumber.val
    ∧ (postTo (some { launch := 1, idx := 1 })).postRefusal postReq = none ∧ (postTo none).postRefusal postReq = some 3 := by
  obtain ⟨h0, h8, hl, hh, hc⟩ := own_bits
  refine ⟨rfl, by decide, own_peer, ?_, ?_⟩
  · simp only [State.postRefusal, Request.postBarred, show postReq.entry = ownEntry from rfl, h0, h8, hl, hh, hc]; decide
  · simp only [State.postRefusal, Request.postBarred, show postReq.entry = ownEntry from rfl, h0, h8, hl, hh, hc]; decide
/-- A reply, of the tag's generation and of an older one, and the same request without a reply. -/
def rldqReq : Request := { kind := .rldq, launch := 1, await := 5 }
def replyS (g : BitVec 4) (st : BitVec 3) : State :=
  { run .C with msgs := [(9, .reply { req := rldqReq, status := st })], txTags := [(0, { gen := g, busy := some rldqReq })], ev := { id := 9 } }
theorem test_witness_RequestEnds : (replyS 0 0).ev.num ≠ 2 ∧ Map.find (replyS 0 0).msgs 9 = some (.reply { req := rldqReq, status := 0 }) ∧ (replyS 0 0).aged 0 = false
    ∧ (Map.get {} (replyS 0 0).txTags 0 : TxTag) = { gen := 0, busy := some rldqReq } ∧ (Map.get {} (replyS 1 0).txTags 0 : TxTag).gen ≠ rldqReq.gen
    ∧ (replyS 0 2).unitTile 0 1 0 = some ((replyS 0 2).tile 0) ∧ ((replyS 0 2).strmOf 0 .C).isOver = false
    ∧ rldqReq.time + (replyS 0 0).tt * 1000 ≤ ({ replyS 0 0 with fabric := 200000 } : State).fabric
    ∧ ({ reqS rldqReq with fabric := 400000 } : State).aged 0 = true := by
  and_intros <;> decide
/-- A copy of 4 elements of FP32 from handle 1 to handle 2. -/
def cpyRec : TaskRec := { eng := 1, boxes := [some { handle := 1, iv := { h0 := 4, h1 := 1, h2 := 1 } }, some { handle := 2, write := true, iv := { h0 := 4, h1 := 1, h2 := 1 } }, none, none] }
def working (k : Task) : State :=
  stepOn { id := 1 } { tile0 with eclk := 50, window := [k], handles := [(1, { shape := { ext0 := 4, dims := 1, base := 0x1000 }, cur := 0x1000 }),
    (2, { shape := { ext0 := 4, dims := 1, base := 0x2000 }, cur := 0x2000 })] }
def cpyTask (n : Nat) : Task := { acc := 1, st := 2, record := cpyRec, blkDone := n, bases := [0x1000, 0x2000], ivs := [{ h0 := 4, h1 := 1, h2 := 1 }, { h0 := 4, h1 := 1, h2 := 1 }] }
theorem test_witness_CopySteps : ((working (cpyTask 0)).tile 0).working 1 = some (cpyTask 0) ∧ (working (cpyTask 0)).partOf 0 = some 0
    ∧ ((working (cpyTask 9)).tile 0).slices (cpyTask 9) ≤ 9 ∧ 0 < ((working (cpyTask 0)).tile 0).slices (cpyTask 0) := by
  and_intros <;> decide
/-- A row on its way to channel 2 of tile 0: open for four rows at 4000H; with the row filled already; poisoned. -/
def chRow : ChanRow := { chan := 2, index := 1, total := 4, data := 7, srcTile := 3, srcAcc := 1 }
def chanS (c : Channel) : State := { stepOn { id := 9 } { tile0 with chans := [(2, c)] } with msgs := [(9, .chanRow chRow)] }
theorem test_witness_Channels : (chanS {}).Inv ∧ Map.find (chanS {}).msgs 9 = some (.chanRow chRow)
    ∧ ((chanS { state := 1, wm := 4, start := 0x4000, rows := 4 }).tile 0).chanAnswer chRow = 0 ∧ ((chanS {}).tile 0).chanAnswer chRow = 1
    ∧ ((chanS { state := 2, sender := some chRow.sender }).tile 0).chanAnswer chRow = 3 := by
  and_intros <;> first | decide | (unfold State.Inv; decide)
def sendTask (w : List Nat) : Task := { acc := 1, uid := 6, st := 2, record := { cpyRec with eng := 0, op := 2, p0 := 0x100 }, written := w }
def ackS (w : List Nat) (out : Nat) : State :=
  { stepOn { id := 9, num := 3 } { tile0 with window := [sendTask w] } with msgs := [(9, .chanAck { chan := 2, index := 1, srcTile := 0, srcAcc := 6 } out)] }
theorem test_witness_Acks : Map.find (ackS [] 0).msgs 9 = some (.chanAck { chan := 2, index := 1, srcTile := 0, srcAcc := 6 } 0)
    ∧ ((ackS [] 0).tile 0).sending 6 = some (sendTask []) ∧ ((ackS [] 0).tile 0).task 1 = some (sendTask []) ∧ (sendTask [1]).written.contains 3 = false
    ∧ bitAt (sendTask []).record.p0 8 = true := by
  and_intros <;> decide
/-- What a slice comes to: 0 an error, 1 a failure, 2 rows to write. -/
def sliceKind (s : State) (k : Task) : Option Nat :=
  let f := s.fetchSlice 0 1 0
  let v := f.1.view (((f.1.tile 0).task 1).getD k)
  if f.2 then none else
  match v.sliceStep 0 k 0 with
  | .error _ => some 0
  | .ok (.fail _) => some 1
  | .ok (.write o _) => match (f.1.dueRows 0 k 0 o)[0]? with
    | some r => match v.rowBytes 0 k 0 o r with
      | .ok w => if (f.1.keyWrites 0 (f.1.side 0 k (copyDst k.record)).h w.1).toOption.isSome then some 2 else none
      | .error _ => none
    | none => none
  | .ok .skip => none
def sliceS (e o : Nat) (sp b : Nat) : Option Nat :=
  let iv : Ivl := { h0 := 32, h1 := 1, h2 := 1 }
  let k : Task := { acc := 1, st := 2, bases := [b, 0x2000, 0x2000], ivs := [iv, if o = 1 then { h0 := 4, h1 := 0, h2 := 1 } else iv, iv]
                    record := { eng := e, op := o, boxes := [some { handle := 1, iv := iv }, some { handle := 2, iv := iv }, some { handle := 2, iv := iv }, none] } }
  sliceKind (stepOn { id := 1 } { tile0 with window := [k], handles := [(1, { shape := { space := sp, ext0 := 32, base := b, fmt := 1 }, cur := b }),
    (2, { shape := { ext0 := 32, base := 0x2000, fmt := 1 }, cur := 0x2000 })] }) k
theorem test_witness_CopySlices : sliceS 1 0 0 0x1000 = some 2 ∧ sliceS 1 0 1 0x1000000000 = some 0 ∧ sliceS 0 0 1 0x1000000000 = some 0 ∧ sliceS 0 1 0 0x1000 = some 1 := by
  and_intros <;> decide

/-! ### Rimshot and collectives -/

/-- The tag word of tag 5 at generation 0; its binding: rows to 3000H of tile 0, sum of FP32, one row, a timeout of 256 clocks. -/
def bind5 : Word := BitVec.ofNat 64 (2 ^ 32 + 0x3000)
/-- F with tag 5 live for launch 1; x13 names the tag, x14 the binding, x15 the rows at 1000H. -/
def tagS (g : Tag) (f : Tile → Tile) : State :=
  { pkg .F (f { tile0 with f := { st0 with x := [(13, 5), (14, bind5), (15, 0x1000), (16, 0), (17, 0x80000)] } }) with tags := [(5, g)], ev := { id := 9 } }
def live5 : Tag := { live := true, launch := 1, binding := bind5 }
theorem test_witness_TagInstructions : (tagS live5 id).mayIssue onCF [.x 13, .x 15, .x 1] = true ∧ (tagS live5 id).clearOf [.x 1] = true
    ∧ (tagS live5 id).bindingFault bind5 = none ∧ (tagS live5 id).bindingFault 0 = some cILLEGAL_USE
    ∧ ((tagS live5 id).tag 0).live = false ∧ ((tagS live5 id).tag 0).purging = false ∧ (tagS live5 id).tagMine ((tagS live5 id).x 13) = true
    ∧ (tagS live5 id).tagMine ((tagS live5 id).x 15) = false
    ∧ (∀ i, i < 64 → (tagS live5 id).sFault 0 (0x1000 + 64 * i) = none) ∧ (keyTile (0x1000 + 64 * 63) = keyTile 0x1000 ∧ clusterOf (keyTile 0x1000) = clusterOf 0)
    ∧ (tagS live5 id).cur.marked = true ∧ (tagS live5 fun u => u.modStrm .F fun z => { z with accs := [{}] }).cur.marked = false ∧ (tagS live5 id).me.shots.length < 4
    ∧ (bind5.getLsbD 44 = false ∧ keyTile (bind5.toNat % 2 ^ 32) = 0)
    ∧ ((tagS live5 fun u => { u with delivQ := [{ tagw := 5 }] }).me.delivQ.find? (fun r => r.tagw = 5)) = some { tagw := 5 }
    ∧ (tagS live5 id).tagPart 5 = (tagS live5 id).partOf 0 ∧ ({ tagS live5 id with parts := [] } : State).tagPart 5 = none
    ∧ (tagS live5 id).partOf 0 = some 0 := by
  and_intros <;> decide
/-- Every tag of cluster 0 is live: TAGALLOC finds none. -/
theorem test_witness_noTag (ts : List (Nat × Tag)) (h : ∀ j, j < 4096 → Map.get {} ts j = live5) :
    ∀ j, j < 4096 → ¬(({ tagS live5 id with tags := ts } : State).tag (0 * 2 ^ 15 + j)).live = false := by
  intro j hj
  have e : ({ tagS live5 id with tags := ts } : State).tag (0 * 2 ^ 15 + j) = live5 := by rw [Nat.zero_mul, Nat.zero_add]; exact h j hj
  rw [e]; decide
def shot5 : Shot := { tagw := 5, rows := [0], launch := 1, origin := 0 }
/-- The operand of tag 5 arrives at its meeting router, whose entries are `es`. -/
def meetS (g : Tag) (es : List (Nat × MatchEntry)) : State :=
  { tagS g (fun u => { u with shots := [{ id := 0, st := .F, shot := shot5 }] }) with msgs := [(9, .shot shot5 0x18)], routers := [(0x18, { entries := es })], clock := 300 }
theorem test_witness_RimshotSteps : Map.find (meetS live5 []).msgs 9 = some (.shot shot5 0x18) ∧ shot5.fromRouter = false ∧ some shot5.part = (meetS live5 []).tagPart 5
    ∧ (meetS live5 []).tagLive 5 = true ∧ shot5.rows.length = (bind5.extractLsb' 45 3).toNat + 1
    ∧ ((meetS live5 [(2, { shot := { shot5 with origin := 3 } })]).router 0x18).entries.find? (fun q => q.2.used 300 && q.2.waiting && q.2.shot.tagw = 5)
        = some (2, { shot := { shot5 with origin := 3 } })
    ∧ (meetS live5 []).freeEntry 0x18 = some 0 ∧ (meetS live5 ((List.range 16).map fun i => (i, {}))).freeEntry 0x18 = none
    ∧ (meetS live5 ((List.range 16).map fun i => (i, {}))).clock = 300
    ∧ ((meetS live5 []).tile 0).shots.find? (fun o => o.id = shot5.op) = some { id := 0, st := .F, shot := shot5 }
    ∧ (meetS { live5 with gen := 1 } []).tagLive 5 = false ∧ ({ shot5 with launch := 2 } : Shot).launch ≠ live5.launch
    ∧ (0 + 256 * (bind5.extractLsb' 32 12).toNat ≤ (meetS live5 []).clock) := by
  and_intros <;> decide
def delivS (g : Tag) (f : Tile → Tile) : State := { tagS g f with msgs := [(9, .deliver shot5 0)] }
theorem test_witness_Deliveries : (delivS live5 id).Inv ∧ (delivS live5 id).ev.num ≠ 1 ∧ Map.find (delivS live5 id).msgs 9 = some (.deliver shot5 0)
    ∧ (delivS live5 id).tagLive 5 = true ∧ ((delivS live5 id).tile 0).unit = some { launch := 1, idx := 0 } ∧ ((delivS live5 id).tag 5).outstanding = false
    ∧ ((delivS live5 id).tile 0).qTakes 3 1 = true ∧ keyTile ((bind5.setWidth 32).toNat) = 0 ∧ ((delivS { live5 with outstanding := true } id).tag 5).outstanding = true
    ∧ ((delivS live5 fun u => { u with unit := none }).tile 0).unit = none := by
  and_intros <;> first | decide | (unfold State.Inv; decide)

/-- C waits for the definition of group 3 of context 0, which is `g`. -/
def groupS (g : Group) : State := { runWith .C fun z => { z with waitN := some (collMark 3) } with ctxs := [(0, { groups := [(3, g)] })], ev := { id := 3 } }
theorem test_witness_Colldef : (groupS {}).mayIssue onC [.x 3, .x 1] = true ∧ (groupS {}).clearOf [.x 1] = true
    ∧ (((groupS {}).ctx ((groupS {}).tileCtx 0)).groups.find? fun p => (groupS {}).cur.waitN = some (collMark p.1)) = some (3, {})
    ∧ (groupS {}).group 0 3 = {} ∧ (groupS {}).clock < ({ peersAt := 5 } : Group).peersAt
    ∧ (run .C).collRefusal 0 0 = some 2 ∧ (run .C).cur.waitN = none ∧ ((run .C).ctx 0).groups = []
    ∧ Map.find ((groupS { peersAt := 5 }).ctx (groupS {}).ev.num).groups 3 = some { peersAt := 5 }
    ∧ ({ run .C with ctxs := [(0, { groups := [(7, { live := true })] })] } : State).group 0 (((run .C).x 6).toNat % 64) = { live := true } := by
  and_intros <;> decide
/-- A descriptor of one member whose table, of package `p` alone, lies at 100H of HBM, is entered. -/
def memberRow : Row := BitVec.ofNat 512 (2 ^ 9 + 2 ^ 11 + 2 ^ 22 + 2 ^ 33 + 2 ^ 224 + 0x100 * 2 ^ 256)
def memS (m : List Host.Cell) : State := { run .C with mem := m }
def memberMem (p : Nat) : List Host.Cell := [(keyHbm 0x100, BitVec.ofNat 8 (p % 256)), (keyHbm 0x101, BitVec.ofNat 8 (p / 256))]
theorem ok_of_toOption {ε α : Type} {x : Except ε α} {a : α} (h : x.toOption = some a) : x = .ok a := by
  cases x with
  | ok b => simp only [Except.toOption, Option.some.injEq] at h; rw [h]
  | error e => simp [Except.toOption] at h
theorem memS_useLeaf (m : List Host.Cell) (va : Nat) : (memS m).useLeaf 0 va 29 0x1B true false = (memS []).useLeaf 0 va 29 0x1B true false := by
  have c : (memS m).ctxPart 0 = (memS []).ctxPart 0 := rfl
  have o (p a : Nat) : (memS m).hbmOwned p a = (memS []).hbmOwned p a := rfl
  unfold State.useLeaf; simp only [c, o]
theorem memS_gKey (m : List Host.Cell) (va : Nat) (h : bits (BitVec.ofNat 64 va) 63 56 = 0)
    (hf : tlbFind tile0.tlb 0 (BitVec.ofNat 64 va).toNat = some { ctx := 0, va := 0, log2 := 29, leaf := 0x1B }) :
    (memS m).gKey 0 va true false = (memS []).useLeaf 0 (BitVec.ofNat 64 va).toNat 29 0x1B true false := by
  have e1 : ((memS m).tile 0).tlb = tile0.tlb := rfl
  have e2 : (memS m).tileCtx 0 = 0 := rfl
  unfold State.gKey State.translate
  rw [e1, e2, if_neg (by rw [h]; decide), hf]
  exact memS_useLeaf m _
theorem memS_low (m : List Host.Cell) : (memS m).gKey 0 0x100 true false = .ok ⟨keyHbm 0x100, false⟩ :=
  (memS_gKey m 0x100 (by decide) (by decide)).trans (ok_of_toOption (by decide))
theorem memS_high (m : List Host.Cell) : (memS m).gKey 0 0x101 true false = .ok ⟨keyHbm 0x101, false⟩ :=
  (memS_gKey m 0x101 (by decide) (by decide)).trans (ok_of_toOption (by decide))
theorem memberMem_low (p : Nat) : Mem.read (memberMem p) (keyHbm 0x100) = BitVec.ofNat 8 (p % 256) := rfl
theorem memberMem_high (p : Nat) : Mem.read (memberMem p) (keyHbm 0x101) = BitVec.ofNat 8 (p / 256) := rfl
theorem test_witness_memberTable (p : Nat) (h : p < 1058) : (memS (memberMem p)).memberTable 0 memberRow 1 = some [p] := by
  have a : bits memberRow 311 256 = 0x100 := by decide
  have e : (BitVec.ofNat 8 (p % 256)).toNat + 256 * (BitVec.ofNat 8 (p / 256)).toNat = p := by rw [BitVec.toNat_ofNat, BitVec.toNat_ofNat]; omega
  have m : (memS (memberMem p)).mem = memberMem p := rfl
  unfold State.memberTable
  simp only [show List.range 1 = [0] from rfl, List.mapM_cons, List.mapM_nil, a, Nat.mul_zero, Nat.add_zero, Nat.reduceAdd, memS_low, memS_high, m, memberMem_low, memberMem_high, e]
  rfl
theorem test_witness_collRefusal : (memS (memberMem Config.packageNumber.val)).collRefusal 0 memberRow = none := by
  have h1 : descBad memberRow = false := by decide
  have h2 : bits memberRow 21 11 * bits memberRow 32 22 * bits memberRow 43 33 = 1 := by decide
  have h3 : ((memS (memberMem Config.packageNumber.val)).ctx 0).groups = [] := rfl
  have h4 : (memS (memberMem Config.packageNumber.val)).memberTable (memS (memberMem Config.packageNumber.val)).ct memberRow 1 = some [Config.packageNumber.val] :=
    test_witness_memberTable _ Config.packageNumber.isLt
  have h5 (p : Nat) : [p].eraseDups.length = 1 := by simp [List.eraseDups_cons]
  unfold State.collRefusal
  simp only [h1, h2, h3, h4, h5]
  simp
/-- A collective of group 3 on tile 0. -/
def collRec : TaskRec := { eng := 5, p0 := 3, p3 := 0x2000, boxes := [some { handle := 1, iv := { h0 := 4 } }, some { handle := 2, write := true, iv := { h0 := 4 } }, none, none] }
def collTask : Task := { acc := 1, st := 2, record := collRec, bases := [0x1000, 0x3000], ivs := [{ h0 := 4 }, { h0 := 4 }] }
def collS (x : CollRun) : State :=
  { stepOn { id := 1, aux := 0 } { tile0 with eclk := 50, window := [collTask], handles := [(1, { shape := { ext0 := 4, base := 0x1000, fmt := 1 }, cur := 0x1000 }),
      (2, { shape := { ext0 := 4, base := 0x3000, fmt := 1 }, cur := 0x3000 })] }
    with ctxs := [(0, { groups := [(3, { live := true, runs := [x] })] })], fabric := 5 }
def run3 : CollRun := { acc := 1 }
theorem test_witness_Collectives : (collS run3).Inv ∧ (collS run3).collRun 0 1 = some (3, { live := true, runs := [run3] }, run3)
    ∧ (collS run3).group ((collS run3).tileCtx 0) 3 = { live := true, runs := [run3] } ∧ ((collS run3).tile 0).working 1 = some collTask
    ∧ (((collS run3).tile 0).side collTask 1).chunks ≤ 1 ∧ (collS run3).ev.num < 256 ∧ 0 + gTimeout 0 ≤ (collS run3).fabric
    ∧ (collS run3).fabric < 0 + gTimeout (BitVec.ofNat 512 (2 ^ 224)) ∧ (∀ j, j ∈ run3.got → False)
    ∧ ((collS run3).contribution 0 { live := true, runs := [run3] } collRec (((collS run3).tile 0).side collTask 0) (((collS run3).tile 0).side collTask 1) 0 0).toOption.isSome = true
    ∧ (collRec.collMode = 0 ∧ collRec.tlog = false) ∧ (collS { acc := 2 }).collRun 0 1 = none := by
  and_intros <;> first | decide | (unfold State.Inv; decide)

/-! ### Matrix engine and Roll mode -/

/-- C with a descriptor of the weight tile of handle 1 at 1000H (x5); with a mask in handle 2 when sparse. -/
def wloadRow (sp : Bool) : Row := if sp then BitVec.ofNat 512 (1 + 2 * 2 ^ 12 + 2 ^ 27) else 1
def wH : Handle := { shape := { fmt := 0x09, scaled := true, dims := 2, ext0 := 128, ext1 := 128, base := 0x4000 } }
def mH : Handle := { shape := { dims := 2, ext0 := 32, ext1 := 128, base := 0x20000 } }
def wloadS (sp : Bool) (f : Tile → Tile) : State :=
  { pkg .C (f { tile0 with handles := [(1, wH), (2, mH)] }) with mem := if sp then [(0x1000, 1), (0x1001, 0x20), (0x1003, 8)] else [(0x1000, 1)] }
theorem test_witness_WeightLoads (sp : Bool) : (wloadS sp id).sFault 0 0x1000 = none ∧ keyTile 0x1000 = 0 ∧ (wloadS sp id).ownRow 0x1000 = some (wloadRow sp)
    ∧ (wloadRow sp).toNat < 2 ^ 80 ∧ (wloadRow sp).extractLsb' 28 4 = 0 ∧ (wloadRow sp).getLsbD 27 = sp ∧ (wloadS sp id).me.handle ((wloadRow sp).extractLsb' 0 12).toNat = some wH
    ∧ (sp = true → (wloadS sp id).me.handle ((wloadRow sp).extractLsb' 12 12).toNat = some mH) ∧ (mH.shape.space = 0 ∧ mH.shape.fmt = 0) ∧ wH.shape.space = 0
    ∧ wH.shape.scaledMx = true ∧ (readPrec wH.shape.fmt 0).isSome = true ∧ (128 ≤ wH.shape.ext 0 ∧ 128 ≤ wH.shape.ext 1 ∧ 32 ≤ mH.shape.ext 0 ∧ 128 ≤ mH.shape.ext 1)
    ∧ (wloadS sp id).me.rolling = false ∧ (wloadS sp id).me.wload = none ∧ (wloadS sp id).me.released TaskRec.matmul = false ∧ (wloadS sp id).cur.marked = true
    ∧ (wloadS sp id).tileFault 0 1 = none ∧ (wloadS sp id).mayIssue onCF [.x 5, .x 3] = true := by
  cases sp <;> and_intros <;> decide
/-- A rolling array that still needs weights. -/
def rolling8 : Roll :=
  { state := 2, nW := 1, p0 := BitVec.ofNat 64 (64 + 2 * 2 ^ 16 + 2 ^ 32 + 8 * 2 ^ 40 + 8 * 2 ^ 49), p1 := BitVec.ofNat 64 (2 ^ 24), p2 := BitVec.ofNat 64 (1 + 0x09 * 2 ^ 8), launch := 1 }
theorem test_witness_WeightLoadsRolling : (wloadS false fun u => { u with roll := rolling8 }).me.rolling = true ∧ rolling8.wDelivered < rolling8.nW ∧ rolling8.sparse = false
    ∧ occupancy rolling8.pa 8 rolling8.srows ≤ rolling8.period ∧ (wloadS false fun u => { u with roll := rolling8 }).me.shadowFull = false := by decide
/-- A MATMUL of one pass of one row: the weights loaded or not, a row of the pipeline, a drain. -/
def matRec (kw : Bool) : TaskRec :=
  { eng := 2, p0 := BitVec.ofNat 64 (1 + 8 * 2 ^ 8 + 8 * 2 ^ 17 + (if kw then 2 ^ 33 else 0)), boxes := [some { handle := 1, iv := { h0 := 8 } }, some { handle := 1 }, some { handle := 3 }, none] }
def matTask (kw : Bool) : Task := { acc := 1, st := 2, record := matRec kw, bases := [0x4000, 0x4000, 0x6000], ivs := [{ h0 := 8 }, {}, {}] }
def matProg (ps : List PipeRow) : MatProg := { acc := 1, rows := List.replicate 6 1, counters := List.replicate 6 0, pipe := ps }
def matS (kw full : Bool) (ps : List PipeRow) : State :=
  stepOn { id := 1 } { tile0 with eclk := 50, window := [matTask kw], mat := some (matProg ps), shadowFull := full, plane := [(0x100, BitVec.ofNat 64 (0x09 + 2 ^ 23 + 4000 * 2 ^ 7))], handles := [(1, wH), (3, { shape := { fmt := 1, ext0 := 64, base := 0x6000 } })] }
theorem test_witness_MatrixSteps (kw full : Bool) : ((matS kw full []).tile 0).working 1 = some (matTask kw) ∧ ((matS kw full []).tile 0).mat = some (matProg [])
    ∧ (matProg []).finished = false ∧ (matProg []).passes = 0 ∧ ((matS kw full []).tile 0).shadowFull = full ∧ (∀ g, g ∈ ((matS kw full []).tile 0).planeS.bad → False)
    ∧ ((matS kw full []).tile 0).planeS.inScales = false ∧ (matS kw full []).boxInScales (((matS kw full []).tile 0).side (matTask kw) 0) 0 0 8 1 = false := by
  cases kw <;> cases full <;> and_intros <;> decide
theorem test_witness_PipeRows (d : Bool) : ((matProg [{ drain := d }]).pipe.find? fun y => y.step = 0 && y.idx = 0) = some { drain := d }
    ∧ ((matProg [{ drain := true, final := true }]).pipe.find? PipeRow.drain) = some { drain := true, final := true }
    ∧ (matProg []).drainedAt ≠ some ((matS true true []).tile 0).eclk ∧ ({ tile0 with wload := some {} } : Tile).wload = some {}
    ∧ (matS true true []).boxInScales (((matS true true []).tile 0).side (matTask true) 2) 0 0 8 1 = false
    ∧ (let b := ((matS true true []).tile 0).side (matTask true) 2
       let o := (matS true true []).drainTo (matRec true) b 0 0 8 0
       ((matS true true []).keyWrites 0 b.h (o.rows ++ o.scales)).toOption.isSome = true) := by
  cases d <;> and_intros <;> decide
theorem test_witness_SwapAndTopk : (run .C).mayIssue onC [] = true ∧ (run .C).me.rolling = false ∧ (run .C).me.wload = none ∧ (run .C).me.released TaskRec.matmul = false
    ∧ (wloadS false fun u => { u with roll := rolling8 }).me.rolling = true ∧ (pkg .C { tile0 with wload := some {} }).me.wload ≠ none ∧ (run .C).me.topBusy = false
    ∧ ({ tile0 with window := [{ st := 2, record := { matRec true with p3 := BitVec.allOnes 64, p2 := BitVec.allOnes 64, p1 := BitVec.allOnes 64, p0 := BitVec.allOnes 64 } }] } : Tile).topBusy = true
    ∧ (run .C).mayIssue onC [.x 3, .q 1] = true ∧ (run .C).clearOf [.q 1] = true ∧ (run .C).clearOf [.x 1] = true := by
  and_intros <;> decide
/-- F beside a rolling array whose bank at 1000H (x5) holds MXINT2 with block scales; x13 a demand for operands, x14 one to drain. -/
def rollS (f : Tile → Tile) : State :=
  pkg .F (f { tile0 with f := { st0 with x := [(5, 0x1000), (13, 0x100000000), (14, 0x8000000100000000)] }, roll := rolling8, plane := [(0x100, BitVec.ofNat 64 (0x09 + 2 ^ 23 + 4000 * 2 ^ 7))] })
theorem test_witness_RollInstructions : (rollS id).mayIssue onCF [.x 13, .x 5, .x 1] = true ∧ (rollS id).mayIssue onCF [.x 14, .x 5, .x 1] = true ∧ (rollS id).clearOf [.x 1] = true
    ∧ (rollS fun u => { u with demandQ := [5] }).me.demandQ = 5 :: [] ∧ (rollS id).me.demandQ = [] ∧ (rollS id).sFault 0 0x1000 = none
    ∧ (rollS id).elemNo 0x1000 = some 16384 ∧ ((rollS id).x 13).toNat / 2 ^ 62 = 0 ∧ ((rollS id).x 13).toNat / 2 ^ 32 % 2 ^ 8 = 1
    ∧ ((rollS id).fmtAt 0x1000).extractLsb' 0 5 = BitVec.ofNat 5 rolling8.afmt ∧ ((rollS id).fmtAt 0x1000).getLsbD 23 = true
    ∧ ((rollS id).fmtAt 0x1000).extractLsb' 21 2 = BitVec.ofNat 2 rolling8.ablk ∧ 16384 % rolling8.la = 0 ∧ 16384 + rolling8.klen ≤ (rollS id).elemCap 0x1000
    ∧ (rollS id).cur.marked = true ∧ ((rollS id).x 14).toNat / 2 ^ 62 = 2 ∧ elemOf ((rollS id).bankSide 0x1000).h.fmt ≠ .reserved
    ∧ ((rollS id).bankSide 0x1000).h.layout = false ∧ 16384 % blkLen ((rollS id).bankSide 0x1000).h.blk = 0 ∧ rolling8.nlen % blkLen ((rollS id).bankSide 0x1000).h.blk = 0
    ∧ rolling8.isOver 0 0 = false ∧ rolling8.isOver 1 0 = true ∧ rolling8.drained.contains 0 = false ∧ ({ rolling8 with drained := [0] } : Roll).drained.contains 0 = true
    ∧ (rollS id).tileFault 0 0 = none ∧ ({ rollS id with buses := [(0, { formed := true })] } : State).bus 0 = { formed := true } ∧ ((rollS id).bus 0).formed = false
    ∧ ({ rollS id with fenced := [0] } : State).tileFault 0 0 = some cTILE_FENCED := by
  and_intros <;> decide
/-- A roll that waits for its group of one, and the group at its decision point. -/
def waitRoll : Tile := { tile0 with window := [{ acc := 1, st := 2, record := { eng := 2, op := 1 } }], roll := { rolling8 with state := 1, acc := 1 } }
def busS (b : Bus) (f : Roll → Roll) : State := { stepOn { id := 0, num := b.beat } { tile0 with roll := f rolling8 } with buses := [(0, b)] }
theorem test_witness_RollForms : ((stepOn {} waitRoll).bus 0).formed = false ∧ (stepOn {} waitRoll).nextLaunch = 1
    ∧ findFrom (fun l => ({ stepOn {} waitRoll with nextLaunch := 2 } : State).complete (({ stepOn {} waitRoll with nextLaunch := 2 } : State).forming 0 l)) 0 2 = some 1
    ∧ ({ stepOn {} waitRoll with nextLaunch := 2 } : State).forming 0 1 = [0] := by
  and_intros <;> decide
theorem test_witness_RollBeats : ((busS { formed := true, members := [0] } id).bus 0).formed = true ∧ (busS { formed := true, members := [0], beat := 3 } id).ev.num = 3
    ∧ (busS { formed := true, members := [0] } id).rollers ((busS { formed := true, members := [0] } id).bus 0) = [0] ∧ rolling8.step ≠ rolling8.nsteps
    ∧ rolling8.lead ≤ 0 ∧ ((busS { formed := true, members := [0] } id).tile 0).rollReady = false ∧ ((busS { formed := true } id).tile 0).preemptReq = false
    ∧ ((busS {} fun r => { r with p0 := r.p0 ||| BitVec.ofNat 64 (2 ^ 61), slots := [{ rows := [0] }, {}] }).tile 0).rollReady = true
    ∧ ({ rolling8 with p1 := BitVec.ofNat 64 (2 ^ 24 + 4 + 2 ^ 12) } : Roll).lead = 4 ∧ ({ rolling8 with p1 := BitVec.ofNat 64 (2 ^ 24 + 4 + 2 ^ 12) } : Roll).restlim = 1
    ∧ ({ rolling8 with step := 2 } : Roll).step = rolling8.nsteps ∧ rolling8.restlim ≤ rolling8.rests
    ∧ (busS { formed := true, members := [0] } id).late = false
    ∧ ({ busS { formed := true, members := [0] } id with late := true } : State).rollers ((busS { formed := true, members := [0] } id).bus 0) = [0] := by
  and_intros <;> decide
theorem test_witness_RollSteps : ((stepOn {} { tile0 with roll := { rolling8 with demands := [{ word := 5 }] } }).launch 1).status = 0
    ∧ ((stepOn {} tile0).tile 0).qTakes 2 1 = true ∧ ({ tile0 with demandQ := List.replicate 2048 0 } : Tile).qTakes 2 1 = false
    ∧ (({ rolling8 with feeds := [{ id := 0 }] } : Roll).feeds.find? fun f => f.id = 0) = some { id := 0 } ∧ rolling8.isOver 0 0 = false
    ∧ (({ rolling8 with slots := [{ rows := [0] }, {}] } : Roll).slots.getD 0 {}).rows.contains 0 = true ∧ rolling8.isOver 7 0 = true
    ∧ (2 ≤ 3 ∧ rolling8.step + 1 < 3) ∧ rolling8.slots.length = 2
    ∧ (({ rolling8 with drains := [{ id := 0 }] } : Roll).drains.find? fun d => d.id = 0) = some { id := 0 }
    ∧ (({ rolling8 with drSlots := [{ captured := [(0, 9)] }] } : Roll).drSlots.find? fun x => x.step = 0 && x.doneAt.isNone) = some { captured := [(0, 9)] }
    ∧ rolling8.acc = 0 ∧ ((busS { formed := true, members := [0] } id).bus 0).members.contains 0 = true := by
  and_intros <;> decide

/-! ### Launches, the dispatcher, pre-emption -/

/-- The page map that the hub has cached: the first pages of HBM in context 0. -/
def hubT : List TlbEntry := [{ ctx := 0, va := 0, log2 := 29, leaf := 0x1B }]
/-- A launch record of one unit at 1000H of the tile's slice (x5), and C of a launch of class `c` with `n` entries to spare. -/
def recRow : Row := BitVec.ofNat 512 (2 ^ 228)
def launchS (c n : Nat) : State :=
  { run .C with mem := [(0x101C, 0x10)], nextLaunch := 2, launches := [(1, { cls := c, share := n, unitsLeft := 1, nunits := 1, admitted := true })] }
theorem test_witness_Launch : (launchS 0 4).mayIssue onC [.x 5, .x 1] = true ∧ (launchS 0 4).clearOf [.x 1] = true ∧ (launchS 0 4).cur.fenced 0 4 = true
    ∧ (launchS 0 4).sFault 0 0x1000 = none ∧ (launchS 0 4).sFault 0 0x1040 = none ∧ (launchS 0 4).ownRow 0x1000 = some recRow ∧ (launchS 0 4).ownRow 0x1040 = some 0
    ∧ recBad recRow 0 = false ∧ (recRow.getLsbD 220 = false ∧ recRow.getLsbD 219 = false) ∧ recDeps recRow 0 = [] ∧ (recRow.extractLsb' 244 12).toNat = 0
    ∧ 1 ≤ ((launchS 0 4).launch 1).share ∧ ((launchS 0 0).launch 1).share < 1 ∧ ((launchS 2 4).launch 1).cls = 2 ∧ recBad 0 0 = true ∧ (run .C).ownRow 0x1000 = some 0
    ∧ (launchS 0 4).me.launchNo ≠ (launchS 0 4).nextLaunch := by
  and_intros <;> decide
/-- A host queue of 4 records at 1000H of HBM, whose first record is `recRow`. -/
def queueS (h : HostQ) (pool : Nat) : State :=
  { run .C with mem := [(keyHbm 0x101C, 0x10)], hubTlbs := [(hubDisp, hubT)], hostQs := [(0, { h with base := 0x1000, log2n := 2, enable := true })], gate := true, poolFree := pool, ev := { id := 0 } }
theorem test_witness_Queues : ((queueS {} 9).hostQ 0).enable = true ∧ (queueS {} 9).serving = true ∧ (queueS {} 9).recovery = false ∧ 0 < 64
    ∧ ((queueS { tail := 1 } 9).hostQ 0).behind = 1 ∧ ((queueS {} 9).hostQ 0).behind = 0 ∧ 2 ^ 2 < ((queueS { tail := 5 } 9).hostQ 0).behind
    ∧ (queueS { tail := 1 } 9).hubRow 0 0x1000 = some recRow ∧ (queueS { tail := 1 } 9).hubRow 0 0x1040 = some 0 ∧ (queueS { tail := 2, head := 1 } 9).hubRow 0 0x1080 = some 0
    ∧ ((queueS {} 9).hostQ 0).hostDeps [] = some [] ∧ 1 ≤ (queueS {} 9).poolFree ∧ (queueS {} 0).poolFree < 1
    ∧ (Map.get {} ((queueS {} 9).openLevels 0).graphs ((((queueS {} 9).openLevels 0).hostQ 0).graph.getD 0) : Level).status = 0 := by
  and_intros <;> decide
/-- Launch 3 of one unit waits for admission; its image of one line lies at 2000H of HBM, or its PROG does not translate. -/
def newL (prog : Nat) : Launch := { prog := prog, args := 0x40, plane := 0x80, nunits := 1, unitsLeft := 1, waiting := [0], host := some (0, 0) }
def admitS (l : Launch) : State :=
  { queueS {} 9 with mem := [(keyHbm 0x2000, 1), (keyHbm 0x2004, 0xFF), (keyHbm 0x2005, 0xFF)], launches := [(1, {}), (3, l)], ev := { id := 3 } }
theorem test_witness_LaunchAdmit : (admitS (newL 0x2000)).serving = true ∧ Map.has (admitS (newL 0x2000)).launches 3 = true ∧ ((admitS (newL 0x2000)).launch 3).status = 0
    ∧ ((admitS (newL 0x2000)).launch 3).admitted = false ∧ ((admitS (newL 0x2000)).launch 3).cancelled = false ∧ (admitS (newL 0x2000)).admits (newL 0x2000) = true
    ∧ (admitS (newL 0x1000000000)).admits (newL 0x1000000000) = false := by
  and_intros <;> decide
/-- A launch with a completion address of 1000H in HBM. -/
theorem test_witness_CompletionWord : (queueS {} 9).Inv ∧ (queueS {} 9).gate = true ∧ (run .C).gate = false
    ∧ ((queueS {} 9).hubTranslate hubDisp 0 0x1000 false true).toOption = some ⟨keyHbm 0x1000, false⟩ := by
  and_intros <;> first | decide | (unfold State.Inv; decide)
/-- Launch 3 is admitted, and tile 1 is the first free one. -/
def roundS : State := admitS { newL 0x2000 with admitted := true }
theorem test_witness_Rounds : roundS.serving = true ∧ roundS.failDeps 0 = roundS ∧ (roundS.part 0).reservation = none ∧ (roundS.choose 0).2 = some 3 ∧ (roundS.launch 3).cls = 0
    ∧ (roundS.launch 3).place = 0 ∧ roundS.unplaced 3 = ([], [0]) ∧ (roundS.freeTiles 0).head? = some 1 := by
  and_intros <;> decide
/-- A plane that passes its checks under its checksum, one whose checksum differs, and one that does not pass. -/
theorem test_witness_Planes : planeBad ({ tile0 with unit := none } : Tile).planeReg2 = false ∧ planeBad ({ tile0 with plane2 := [(0x118, 0)] } : Tile).planeReg2 = true
    ∧ (planeCrc ({ tile0 with plane2 := [(0x118, 0)] } : Tile).planeReg2) ≠ planeCrc tile0.planeReg2
    ∧ ({ tile0 with planeEnd := some (3, planeCrc tile0.planeReg2) } : Tile).planeEnd = some (3, planeCrc tile0.planeReg2) := by
  and_intros <;> first | exact rfl | decide
/-- Tile 1 holds the plane for unit 0 of launch 3. -/
def placeS (x : List Saved) : State :=
  { roundS with tiles := [(0, tile0), (1, { placing := some (3, 0), flipped := true })], ev := { tile := 1, id := 3, num := 0 }, saved := x }
theorem test_witness_Placing : ((placeS []).tile 1).placing = some (3, 0) ∧ ((placeS []).tile 1).flipped = true ∧ ((placeS []).tile 1).unit = none ∧ ((placeS []).launch 3).status = 0
    ∧ ((placeS []).launch 3).cancelled = false ∧ (placeS []).late = false ∧ ((placeS []).image ((placeS []).launch 3)).isSome = true
    ∧ (((placeS []).image ((placeS []).launch 3)).map fun m => (m.entries.getD 0 1, m.entries.getD 1 1)) = some (0, 0xFFFF) := by
  and_intros <;> decide
theorem test_witness_Cores : ({ State.reset with active := true } : State).halted1 = false ∧ (State.reset.ev.num % 2 = 1 ↔ State.reset.active = true) ∧ State.reset.halted0 = false
    ∧ ¬(State.reset.ev.num % 2 = 1 ↔ ({ State.reset with active := true } : State).active = true) ∧ ({ State.reset with standby := true } : State).gate = false
    ∧ ({ State.reset with halted0 := true } : State).halted0 = true := by decide
/-- A unit that is asked to leave its tile; one in its handler; one that has been asked and is quiet, and one with a row not yet stored. -/
theorem test_witness_PreemptTake : ((stepOn {} overTile).tile 0).unitOver = true ∧ tile0.unitOver = false ∧ ((stepOn {} { tile0 with preemptAsk := true }).tile 0).preemptAsk = true
    ∧ ¬(tile0.c.priv ≠ 0) ∧ tile0.handling = none ∧ heldV.v.mode = .held ∧ tile0.v.mode ≠ .held
    ∧ ((stepOn {} { tile0 with preemptReq := true }).gangTiles 0) = [0] ∧ (stepOn {} { tile0 with preemptReq := true }).quiet 0 = true
    ∧ (stepOn {} { tile0 with preemptReq := true, f := { st0 with accs := [{}] } }).quiet 0 = false ∧ ((stepOn {} { tile0 with preemptReq := true }).launch 1).cls = 0 := by
  and_intros <;> decide
theorem test_witness_Resumption : ((placeS [{ launch := 3, tileNo := 1, tile := tile0 }]).saved.find? fun x => x.launch = 3 && x.idx = 0 && x.tileNo = 1)
      = some { launch := 3, tileNo := 1, tile := tile0 } ∧ ((placeS []).tile 1).parked = [] := by decide

/-! ### The management plane -/

/-- A command of partition 0 with its credential, one with another, and one of the machine's. -/
def mailS (cred : Word) (n : Nat) (w : Word) (d : BitVec 512) : State := { run .C with ev := { caller := ⟨0, cred⟩, num := n, w0 := w, wide := d } }
theorem test_witness_MailFor : (mailS 7 0 0 0).mailFor (some 0) ∧ (mailS 7 1 0 0).mailFor none := by
  constructor <;> exact ⟨by decide, by decide⟩
theorem test_witness_MailRefused : (mailS 8 0 0 0).recovery = false ∧ (∀ o, ¬ (mailS 8 0 0 0).mailFor o) ∧ ({ mailS 7 0 0 0 with recovery := true } : State).recovery = true := by
  refine ⟨by decide, ?_, by decide⟩
  intro o h
  cases o with
  | none => exact absurd h.2 (by decide)
  | some p =>
    obtain ⟨_, _, _, hp, _, _, hc⟩ := h
    have e : p = 0 := hp.symm
    subst e
    exact absurd hc (by decide)
theorem test_witness_Mailbox : (mailS 7 0 0 0).ctxPart 0 = some 0 ∧ (mailS 7 0 0 (2 ^ 53)).ctxPart 0 ≠ some 1 ∧ ((mailS 7 0 0 0).hostQ 0).behind = 0
    ∧ ({ mailS 7 0 0 0 with hostQs := [(0, { tail := 1, base := 128 })] } : State).hostQ 0 = { tail := 1, base := 128 } ∧ bits (0 : BitVec 512) 119 71 * 2 ^ 7 ≠ 128
    ∧ Map.has (mailS 7 0 0 0).hostQs 0 = false
    ∧ ({ mailS 7 0 0 0 with jobs := [(jobKey 1 0, {})] } : State).jobOf (some 0) 0 = none ∧ (mailS 7 0 0 0).jobOf (some 0) 0 = some 0
    ∧ ({ mailS 7 0 0 0 with jobs := [(0, newLevel 0)] } : State).jobs = [(0, newLevel 0)] ∧ (newLevel 0).isOpen = true ∧ (newLevel 0).status = 0
    ∧ (mailS 7 0 0 0).mboxBusy = false ∧ (mailS 7 0 0 0).mayTile (some 0) 0 = true ∧ ({ mailS 7 0 0 0 with parts := [] } : State).mayTile (some 0) 0 = false
    ∧ (bits (0x103 : Word) 15 12 = 0 ∧ bitAt (0x8100 : Word) 8 = true ∧ bits (0x8100 : Word) 15 12 = 8 ∧ bitAt (0x7000 : Word) 8 = false ∧ bits (0x7000 : Word) 15 12 = 7)
    ∧ (mailS 7 0 0 8).mailWord 0 = 8 ∧ (mailS 7 0 0 (8 * 2 ^ 64)).mailWord 1 = 8 ∧ (∀ k, k < 256 → (0 : BitVec 512).getLsbD k = false) := by
  and_intros <;> first | decide | (intro k _; exact BitVec.getLsbD_zero)
/-- A suspended copy of tile 0 in its partition's list. -/
def susPart : Part := { formed := true, clusters := BitVec.allOnes 32, suspends := [{ seq := 4, uid := 6 }] }
def susEv : EvArgs := { wide := 4, num := 1 }
def susS : State := { working { cpyTask 0 with seq := 4, uid := 6, suspended := true } with parts := [(0, susPart)], ev := susEv }
theorem test_witness_Suspended : (((List.range 8).flatMap fun i => (susS.part i).suspends).find? fun x => x.tile = 0 && x.seq = (susS.mailWord 0).setWidth 32 && (susS.partOf 0).isSome)
      = some { seq := 4, uid := 6 } ∧ ((susS.tile 0).window.find? fun k => k.uid = 6) = some { cpyTask 0 with seq := 4, uid := 6, suspended := true } ∧ susS.mayTile none 0 = true := by
  and_intros <;> decide
theorem test_witness_BringUp : State.reset.Inv ∧ ({ fuseTiles := [], keyHashes := [], revoked := 0, minSvn := 0, fuseOk := false, testFailTiles := [], hbmFailPch := [], slotA := [], slotB := [], downPorts := [], onePorts := [], coresOk := 3, routes := [], ideOk := true } : BootEnv).fuseOk = false
    ∧ State.reset.ev.boot.fuseOk = true ∧ State.reset.inReset = false ∧ State.reset.recovery = false ∧ ({ State.reset with recovery := true } : State).recovery = true
    ∧ ({ State.reset with session := true } : State).session = true ∧ State.reset.ev.id < 32 ∧ State.reset.session = false := by
  and_intros <;> first | decide | (unfold State.Inv; decide)
theorem test_witness_PartitionsAndPower : (State.reset.part 0).formed = false ∧ State.reset.idleClusters (BitVec.allOnes 32) = true ∧ (∀ g, g < 32 → State.reset.groupPch g ≠ 0)
    ∧ (∀ o, o < 8 → (State.reset.part o).formed = false) ∧ ((run .C).part 0).formed = true ∧ (run .C).idleClusters 1 = false
    ∧ (stepOn {} overTile).idleClusters 2 = true ∧ ({ run .C with tiles := [] } : State).idleClusters ((run .C).part 0).clusters = true
    ∧ (600 ≤ 1100 ∧ 1100 ≤ 1100 ∧ 1100 % 100 = 0) ∧ ¬(650 % 100 = 0) ∧ State.reset.atBoundary = true ∧ (busS { formed := true, members := [0] } id).atBoundary = false
    ∧ Map.has (run .C).launches 1 = true ∧ ((run .C).launch 1).status = 0 ∧ (run .C).resident 1 ≠ [] := by
  and_intros <;> decide
/-- Partition 0 with its Peal ring of 1,024 records at 1000H of HBM in context 0, sampling. -/
def pealS (q : List (Nat × BitVec 256)) (wr : Word) : State :=
  { stepOn {} { tile0 with pealQ := q } with
    hubTlbs := [(hubDisp, hubT)]
    parts := [(0, { formed := true, clusters := BitVec.allOnes 32, groups := BitVec.allOnes 32, ctxs := 1, pealPeriod := 5, pealSrc := 2, pealSize := 10, pealBase := 0x1000, pealWr := wr })] }
theorem test_witness_Observation : (pealS [] 0).partOf 0 = some 0 ∧ ((pealS [] 0).part 0).pealPeriod ≠ 0 ∧ ((pealS [] 0).tile 0).unit ≠ none
    ∧ ((pealS [] 0).part 0).pealSrc.getLsbD 1 = true ∧ ((pealS [] 0).tile 0).qTakes 5 2 = true ∧ ((run .C).part 0).pealPeriod = 0 ∧ ((pealS [(0, 7)] 0).tile 0).pealQ = (0, 7) :: []
    ∧ ((pealS [(0, 7)] 0).part 0).pealLost = 0 ∧ (pealS [(0, 7)] 0).Inv
    ∧ ((pealS [(0, 7)] 0).hubTranslate hubDisp (((pealS [(0, 7)] 0).part 0).ringCtx) 0x1000 false true).toOption = some ⟨keyHbm 0x1000, false⟩
    ∧ 2 ^ 10 < (((pealS [(0, 7)] 1024).part 0).pealWr - ((pealS [(0, 7)] 1024).part 0).pealRd).toNat + 1 ∧ (((run .C).part 0).pealSrc = 0 ∧ ((pealS [] 0).part 0).pealSrc ≠ 0)
    ∧ (∀ x, x ∈ (run .C).tiles → x.2.unit ≠ none → (run .C).tileCtx (BitVec.ofNat 8 x.1) ≠ 5) ∧ (run .C).tileCtx 0 = 0 := by
  and_intros <;> first | decide | (unfold State.Inv; decide)
theorem test_witness_LinksAndFetch : (runWith .C fun z => { z with waitN := some 1 }).cur.waitN = some 1
    ∧ Map.find ({ run .C with invals := [(4, { waiting := [0, 256] })] } : State).invals 4 = some { waiting := [0, 256] } ∧ (run .C).egress 0 9 = false
    ∧ Map.find ({ run .C with invals := [(4, {})] } : State).invals 4 = some {} ∧ Map.get 0 ({ run .C with flitRetries := [(3, 15)] } : State).flitRetries 3 = 15
    ∧ Map.get 0 (run .C).flitRetries 3 = 0 ∧ tile0.fetchedAt ≠ some tile0.ttick ∧ ({ tile0 with fetchQ := [.V] } : Tile).fetchQ = .V :: [] ∧ tile0.lateAt 101 = false
    ∧ ({ tile0 with c := { st0 with flights := [{ loads := [1], land := 100 }] } } : Tile).lateAt 101 = true := by
  and_intros <;> decide

/-! ### The machine -/

theorem test_witness_StepRunsDecoded : ({ run .C with agenda := [{ op := .wake }] } : State).agenda = { op := .wake } :: [] ∧ (run .C).holder { op := .wake } = none
    ∧ ({ run .C with slots := [(0, .C)] } : State).slots = (0, .C) :: [] ∧ (run .C).agenda = [] ∧ ((run .C).strmOf 0 .C).mode = .running ∧ ((run .C).strmOf 0 .C).rep = none
    ∧ ((run .C).strmOf 0 .C).check = none ∧ ((run .C).strmOf 0 .C).buf = some (0, line0) ∧ bits ((run .C).strmOf 0 .C).pc 15 3 = 0 ∧ bits ((run .C).strmOf 0 .C).pc 2 0 = 1
    ∧ nibble line0 1 = streamNo .C ∧ (run .C).slots = [] := by
  and_intros <;> decide
theorem test_witness_decoded : decode (line0.getD 1 0) (literals line0 .C 1) = .ok (.addi 5 4 64) ∧ decode 0x01000001 [] = .error .reservedField := by
  and_intros <;> exact rfl
theorem test_witness_DecodeEncode : (Instr.stq 3 0 2 100 (some ⟨.release, 1⟩)).wellFormed = true ∧ (encode (.stq 3 0 2 100 (some ⟨.release, 1⟩))).isSome = true
    ∧ (Instr.illegalOpcode 0).wellFormed = true := by decide
theorem test_witness_StepKeepsMemory : (run .C).Inv ∧ ∃ t, step (run .C) = .next t := by
  refine ⟨by unfold State.Inv; decide, _, rfl⟩
theorem test_witness_IssueFrame : isIssued .nop = true ∧ ∃ t, exec .nop (run .C) = .next t := by
  refine ⟨by decide, _, rfl⟩
/-- A word of zeros, an accumulator instruction on C and a privileged one at unit privilege. -/
theorem test_witness_OrderOfChecks : bits (0 : Lane) 31 24 = 0x00 ∧ decode 0xA223F000 [] = .ok (.vmuli 2 0x3F000) ∧ opLegal 0xA2 (run .C).cs = false
    ∧ decode 0x98000000 [] = .ok .rfe ∧ opPrivileged 0x98 = true ∧ (run .C).cs = .C ∧ (run .C).cur.priv = 0 := by
  and_intros <;> first | exact rfl | decide
/-- Held in reset nothing runs. -/
theorem test_witness_AlwaysNext : ({ State.reset with inReset := true } : State).agenda = [] ∧ ({ State.reset with inReset := true } : State).slots = []
    ∧ (match step { State.reset with inReset := true } with | .fault .heldInReset => true | _ => false) = true := by
  and_intros <;> first | exact rfl | decide

/-! ### Clauses of second answers: soft errors, waits that go on, sealed requests, invalidations in progress -/

/-- A soft error of kind `b` at key `k` of the tile's own memories, or of a row. -/
def badTile (k : Nat) (b : Bool) : Tile := { tile0 with ecc := [(k, b)] }
def badRow (s : State) (k : Nat) (b : Bool) : State := { s with ecc := [(k, b)] }
theorem test_witness_softErrors : Map.find (pkg .F (badTile (eccSpill 3) true)).me.ecc (eccSpill 3) = some true ∧ Map.find (run .F).me.ecc (eccSpill 3) = none
    ∧ Map.find (pkg .C (badTile (eccConst 4) true)).me.ecc (eccConst 4) = some true ∧ (pkg .V (badTile (eccAcc 5) true)).accRow 5 = 5
    ∧ Map.find (pkg .V (badTile (eccAcc 5) true)).me.ecc (eccAcc 5) = some true ∧ (etypeFmt (pkg .V (badTile (eccAcc 5) true)).me.vtype).isSome = true
    ∧ Map.find (badRow (loadS none) 0x1040 true).ecc (rowOf 0x1040) = some true ∧ (badRow (loadS none) 0x1040 true).accOf = some { id := 3, key := 0x1040, sink := some 2 }
    ∧ Map.find (badTile (eccLine 0) true).ecc (eccLine 0) = some true ∧ Map.find (badTile (eccLine 0) false).ecc (eccLine 0) = some false
    ∧ Map.find (badRow (working (cpyTask 0)) 0x1000 true).ecc 0x1000 = some true ∧ Map.find (badRow (tagS live5 id) 0x1000 true).ecc 0x1000 = some true := by
  and_intros <;> decide
theorem test_witness_accsSound : (vec 0).accsSound := fun _ => rfl
/-- The rows that POST, LAUNCH, SHAPE, COLLDEF and WLOAD read as a record. -/
theorem test_witness_recordRows : (postS 0).recordRows ((postS 0).x 5) [0x400, 0, 0] := by
  refine ⟨⟨by decide, by decide, by decide, ?_⟩, ?_⟩ <;> decide
/-- V's frame waits for one of its loads; C's own trap waits behind V's. -/
theorem test_witness_framed : (pkg .C { inHandler with v := { inHandler.v with frameWait := [4], awaits := [{ id := 4 }] } }).me.v.framed = false
    ∧ inHandler.v.framed = true ∧ targetFault ((pkg .C inHandler).me.line 0) .V 1 = some cBRANCH_TO_FOREIGN
    ∧ targetFault [0x03333231, 0x2029_0040] .V 1 = none ∧ ({ inHandler with c := { inHandler.c with ownTrap := true } } : Tile).c.ownTrap = true := by decide
/-- A G-space access that has waited for its translation, one that must walk, and one that faults. -/
theorem test_witness_translated : (runWith .F fun z => { z with gHold := some { va := 0x40 } }).cur.gHold.isSome = true
    ∧ (match (run .F).gResolve 0x40000000 true false with | .walk => true | _ => false) = true
    ∧ (match (run .F).gResolve 0x100000000000000 true false with | .fault _ => true | _ => false) = true
    ∧ ((runWith .C fun z => { z with waitN := some 1 }).gKey 0 0x40 true false).toOption.isSome = true
    ∧ ((runWith .C fun z => { z with waitN := some 1 }).gKey 0 0x40000000 true false).toOption.isSome = false := by
  and_intros <;> decide
/-- A remote operation to x0 that has issued: its result has not come, and has come. -/
theorem test_witness_issuedWait : (winT .F fun z => { z with issuedWait := some 4, awaits := [{ id := 4 }] }).cur.issuedWait = some 4
    ∧ ((winT .F fun z => { z with issuedWait := some 4, awaits := [{ id := 4 }] }).cur.awaits.any fun w => w.id = 4) = true
    ∧ ((winT .F fun z => { z with issuedWait := some 4 }).cur.awaits.any fun w => w.id = 4) = false := by decide
/-- Without a key of its slot a sealed request is not opened, with the current one it is. -/
theorem test_witness_sealed : (run .F).opens 3 (some 9) = false ∧ ({ run .F with keys := [(3, { current := some 9 })] } : State).opens 3 (some 9) = true := by decide
/-- The poster of a request of this package is resident, or gone. -/
theorem test_witness_posterLives : (postTo none).posterLives { postReq with srcPkg := Config.packageNumber.val, launch := 1 } = true
    ∧ (postTo none).posterLives { postReq with srcPkg := Config.packageNumber.val, launch := 2 } = false := by
  have e (b : Bool) : (decide (Config.packageNumber.val ≠ Config.packageNumber.val) || b) = b := by simp
  constructor <;> (unfold State.posterLives; simp only [e]; decide)
/-- A source that still waits for what it issued before, the agenda's delivery of a frozen tile's clock, the host without IDE, the cores' first start. -/
theorem test_witness_waits : (runWith .C fun z => { z with accs := [{ id := 2, key := 2 ^ 40, isStore := true }] }).egress 0 9 = true
    ∧ ({ op := .delivery } : Act).queueRank = some 2 ∧ (run .C).late = false ∧ (run .C).demandsFit 0 = true ∧ ({ pkg .C { tile0 with frozen := true } with late := true } : State).holder { op := .delivery } = some 0
    ∧ ({ run .C with ide := false } : State).ide = false ∧ ({ State.reset with ev := { num := 2 } } : State).ev.num = 2 := by
  and_intros <;> decide
/-- A row that an engine writes in part: without an error, and with an uncorrectable one. -/
theorem test_witness_readPart : ((working (cpyTask 0)).readPart 0 [(0x1000, 0xFF, 1)]).2 = false
    ∧ ((badRow (working (cpyTask 0)) 0x1000 true).readPart 0 [(0x1000, 0xFF, 1)]).2 = true := by decide

/-! ### Witnesses of the third answers -/

/-- F with a target that is a header: J, CALL and LOOP over 2^16 - 1 lanes back, RET to lane 6, behind which lane 7 is empty. -/
theorem test_witness_failedTargets : (run .C).targetBad ((run .C).cur.pc + (0xFFFFFF#24).setWidth 16) = some cBRANCH_TO_HEADER
    ∧ (run .C).targetBad (((run .C).x 6).setWidth 16) = some cBRANCH_TO_FOREIGN ∧ (run .C).x 6 ≠ 1 := by
  and_intros <;> decide
/-- Operands of the special functions: 1, 2, 2^-13, zero, an infinity, a NaN. -/
theorem test_witness_SpecialBounds : fp32.decode (0x3F800000#32).toNat = .fin false (2 ^ 23) (-23) ∧ fp32.decode (0x40000000#32).toNat = .fin false (2 ^ 23) (-22)
    ∧ fp32.decode (0x39000000#32).toNat = .fin false (2 ^ 23) (-36) ∧ fp32.decode (0#32).toNat = .fin false 0 (-149) ∧ fp32.decode (0xFF800000#32).toNat = .inf true
    ∧ fp32.decode (0x7FC00000#32).toNat = .nan ∧ fp32.decode (0xC1900000#32).toNat = .fin true (9 * 2 ^ 20) (-19) ∧ fp32.decode (0x42FE0000#32).toNat = .fin false (127 * 2 ^ 17) (-17) := by
  and_intros <;> decide
/-- A store to a row that stays with the stream's unacknowledged stores; one of the host, with the link established and without. -/
def addS (n : Nat) : State := { runWith .F fun z => { z with naOut := [4] } with ev := { st := .F, num := 3, aux := n, wide := 0x1040, w0 := 5 } }
theorem test_witness_additionStep : (∃ n, n ∈ ((addS 9).strmOf 0 .F).naOut ∧ n < (addS 9).ev.aux) ∧ (∀ n, n ∈ ((addS 2).strmOf 0 .F).naOut → (addS 2).ev.aux ≤ n)
    ∧ ¬(keyIsS (addS 2).ev.wide.toNat = true ∧ ((addS 2).tile (keyTile (addS 2).ev.wide.toNat)).frozen = true) := by
  refine ⟨⟨4, by decide⟩, by decide, by decide⟩
theorem test_witness_hostStore : (run .C).ide = true ∧ (∀ i, i < 8 → (run .C).inHbm (0x100 + i) = true) ∧ (run .C).inHbm (2 ^ 50) = false
    ∧ ({ run .C with ide := false } : State).ide = false := by
  and_intros <;> decide
/-- A load whose granules are empty, one that finds its bank in use, and one that takes its row. -/
def bankS (e : List (Nat × Nat)) (g : List Nat) : State := { loadS none with bankUse := e, tiles := [(0, { (loadS none).tile 0 with emptyGr := g })] }
def dueLoad (f : FullEmpty) : Access := { id := 3, key := 0x1040, sink := some 2, due := some 0, fe := f }
theorem test_witness_banks : (bankS [] []).feTakes (dueLoad .full) = true ∧ (bankS [] [0x104]).feTakes (dueLoad .full) = false ∧ (bankS [] []).bankLost (dueLoad .plain) = false
    ∧ ({ bankS [(0, 0)] [] with ev := { st := .F, id := 3 } } : State).bankLost (dueLoad .plain) = true ∧ (bankS [] []).bankWon = [] := by
  and_intros <;> decide
/-- A copy whose row lies in a bank that a load wins. -/
theorem test_witness_giveWay : (∃ b, b ∈ ({ run .C with bankUse := [(0, 2)] } : State).bankUse.drop (run .C).bankUse.length ∧ b ∈ ({ run .C with bankWon := [(0, 2)] } : State).bankWon)
    ∧ (∀ b, b ∈ ({ run .C with bankUse := [(0, 2)] } : State).bankUse.drop (run .C).bankUse.length → b ∉ (run .C).bankWon) :=
  ⟨⟨(0, 2), by decide⟩, by decide⟩
/-- Results of every kind that are due at once. -/
def landAll : State :=
  { run .V with
    tiles := [(0, tile0.modStrm .V fun z => { z with flights := [{ id := 1, dest := .q 1, data := 9, land := 100 }, { id := 2, dest := .q 1, data := 6, land := 100, bits := 3 },
      { id := 3, dest := .acc 7, land := 100 }, { id := 4, dest := .accs 250 9, land := 100 }, { id := 5, dest := .mask 1, land := 100 }, { id := 6, dest := .vtype, data := 3, land := 100 }] })]
    ev := { st := .V } }
theorem test_witness_allDue : ((landAll.strmOf 0 .V).flights.filter fun f => f.land ≤ (landAll.tile 0).ttick).length = 6
    ∧ (match exec .resultLand landAll with | .next t => (t.strmOf 0 .V).qr 1 = 10 && (t.tile 0).vtype = 3 && (t.strmOf 0 .V).flights = [] | _ => false) = true := by
  and_intros <;> decide
/-- A task that another has an open RAW edge to; SOFT tasks in hand or not; an empty, an own and a foreign deque. -/
def depS : State := stepOn { id := 1 } { tile0 with eclk := 50, window := [{ acc := 1, st := 2, ended := some 7, record := boxRec }, { acc := 2, st := 1, edges := [{ older := 1, kind := .raw, box := 0 }] }], handles := [(3, { shape := { ext0 := 4 } })] }
theorem test_witness_TaskFails : ((depS.tile 0).task 1).map Task.ended = some (some 7) ∧ (depS.tile 0).window.length ≤ 256
    ∧ (depS.tile 0).task 2 = some { acc := 2, st := 1, edges := [{ older := 1, kind := .raw, box := 0 }] } ∧ (7#16 ≠ cTRANSLATION) := by
  and_intros <;> decide
theorem test_witness_TaskAcquired : (taskS { acc := 1, record := softRec }).me.task 1 = some { acc := 1, record := softRec } ∧ (taskS {}).cs = .C
    ∧ ¬((taskS {}).me.softAt = some (taskS {}).me.eclk) := by
  and_intros <;> decide
def stealS (a b : UnitRes) (d : List Word) (e : Bool) : State :=
  { run .C with
    tiles := [(0, { tile0 with unit := some a, c := { st0 with awaits := [{ id := 5 }] } }), (1, { tile0 with unit := some b, deque := d, dequeEmpty := e, c := { st0 with awaits := [{ id := 6 }] } })]
    steals := [{ thief := 0, st := .C, id := 5, victim := 1 }, { thief := 1, st := .C, id := 6, victim := 1 }] }
theorem test_witness_Steals : ((stealS { launch := 1, idx := 0 } { launch := 1, idx := 1 } [9] false).tile 1).launchNo = ((stealS { launch := 1, idx := 0 } { launch := 1, idx := 1 } [9] false).tile 0).launchNo
    ∧ ((stealS { launch := 1, idx := 0 } { launch := 2, idx := 1 } [9] false).tile 1).launchNo ≠ ((stealS { launch := 1, idx := 0 } { launch := 2, idx := 1 } [9] false).tile 0).launchNo
    ∧ ((stealS { launch := 1, idx := 0 } { launch := 1, idx := 1 } [9] false).tile 1).deque = [9] ∧ ((stealS { launch := 1, idx := 0 } { launch := 1, idx := 1 } [] true).tile 1).deque = []
    ∧ (({ id := 5 } : Await) ∈ ((stealS { launch := 1, idx := 0 } { launch := 1, idx := 1 } [9] false).strmOf 0 .C).awaits)
    ∧ (({ id := 6 } : Await) ∈ ((stealS { launch := 1, idx := 0 } { launch := 1, idx := 1 } [9] false).strmOf 1 .C).awaits)
    ∧ ({ tile0 with frozen := true } : Tile).frozen = true := by
  and_intros <;> decide
/-- A message of another package: what it asks, its age, the cancelling of what its unit posted; a reply that waits for a frozen tile. -/
def peerE : EvArgs := { num := 8, aux := 1058, rows := [0, 0], w0 := 7 }
theorem test_witness_peers : peerE.rows ≠ [] ∧ peerE.num = 8 ∧ (peerRequest { peerE with num := 0, w1 := 5 }).time = 5 ∧ (peerPost { peerE with w1 := 5 }).time = 5
    ∧ ({ run .C with fabric := 500000 } : State).aged (peerRequest { peerE with num := 0, w1 := 5 }).time = true ∧ (run .C).aged (peerRequest { peerE with num := 0 }).time = false := by
  and_intros <;> decide
theorem test_witness_otherPackage : peerE.aux ≠ Config.packageNumber.val := fun h => absurd (Eq.subst (motive := fun n => n < 1058) h.symm Config.packageNumber.isLt) (by decide)
theorem test_witness_heldReply : Map.find (replyS 0 0).msgs 9 = some (.reply { req := rldqReq, status := 0 }) ∧ ({ replyS 0 0 with ev := { id := 9, num := 3 } } : State).ev.num = 3
    ∧ ({ pkg .C { tile0 with frozen := true } with msgs := (replyS 0 0).msgs } : State).tile 0 = { tile0 with frozen := true } ∧ (replyS 0 0).ev.id < (replyS 0 0).nextId + 10 := by
  and_intros <;> decide
/-- A handle's window that no path reaches and one that a path reaches; the table's entries, masked at reset and open; a SEND with rows unanswered. -/
theorem test_witness_ways : (run .C).choosePath 3 false = none ∧ (({ run .C with routes := [(3, [{ port := 1, hops := 1, via := none }])] } : State).choosePath 3 true).isSome = true
    ∧ ((run .C).msixWord 131).getLsbD 32 = true ∧ (({ run .C with msix := [(131, 0)] } : State).msixWord 131).getLsbD 32 = false
    ∧ ((run .C).msixWord 129).getLsbD 32 = true ∧ (({ run .C with msix := [(129, 0)] } : State).msixWord 129).getLsbD 32 = false ∧ (run .C).msixPend.contains 64 = false
    ∧ ({ run .C with msixPend := [64] } : State).msixPend.contains 64 = true
    ∧ (({ sendTask [] with prog := 1 } : Task).written.length < ({ sendTask [] with prog := 1 } : Task).prog) ∧ (sendTask []).prog ≤ (sendTask []).written.length := by
  and_intros <;> decide
/-- A sealed entry whose slot holds no key; one of another package that no path reaches. -/
theorem test_witness_refusedWays : wSealed (BitVec.ofNat 256 (2 ^ 10)) = true ∧ (run .C).seal 0 = none ∧ (({ run .C with keys := [(0, { current := some 9 })] } : State).seal 0).isSome = true := by
  and_intros <;> decide
/-- A row of a channel whose buffer row has an uncorrectable error. -/
theorem test_witness_channelErrors : (badRow (chanS { state := 1, wm := 4, start := 0x4000, rows := 4 }) 0x4040 true).chanAnswer chRow = 3
    ∧ (chanS { state := 1, wm := 4, start := 0x4000, rows := 4 }).chanAnswer chRow = 0 := by
  and_intros <;> decide
/-- A Knell for a collective that has been aborted or doomed, for one to come, and for one that is over. -/
def knellS (g : Group) (q : Word) : State := { run .C with ctxs := [(0, { groups := [(3, g)] })], ev := { w0 := 3, w1 := q, num := 2 } }
theorem test_witness_Knells : (knellS { live := true } 1).collRun 0 0 = none ∧ (knellS { live := true } 1).group 0 3 = { live := true }
    ∧ (5 : BitVec 32) ∈ ({ aborted := [5] } : Group).aborted ∧ ((1 : BitVec 32) - ({ seq := 0 } : Group).seq).toNat < 2 ^ 31
    ∧ 2 ^ 31 ≤ ((0 : BitVec 32) - ({ seq := 7 } : Group).seq).toNat ∧ ({ live := false } : Group).live = false := by
  and_intros <;> decide
/-- The member table of an address without a translation. -/
theorem test_witness_collRefusals : (memS []).collRefusal 0 0 = some 2 := by decide
theorem test_witness_noLate : collTask.late = [] ∧ ((collS run3).tile 0).task 1 = some collTask ∧ matTask true = { matTask true with late := [] } := by
  and_intros <;> decide
/-- A WLOAD whose tile's rows a channel fills: below its mark, at it, and poisoned; the same of FEED's row. -/
def chanRows (st : BitVec 2) (a wm : Nat) (u : Tile) : Tile := { u with chans := [(0, { state := st, start := a, rows := 8, wm := wm })] }
theorem test_witness_channelRows : (wloadS false (chanRows 1 0x4000 0x4200)).chanGate 0x4000 = .free ∧ (wloadS false (chanRows 1 0x4000 0x4000)).chanGate 0x4000 = .wait
    ∧ (wloadS false (chanRows 2 0x4000 0x4000)).chanGate 0x4000 = .poisoned ∧ (rollS (chanRows 1 0x1000 0x1000)).chanGate 0x1000 = .wait
    ∧ (rollS (chanRows 2 0x1000 0x1000)).chanGate 0x1000 = .poisoned ∧ (rollS id).chanGate 0x1000 = .free := by
  and_intros <;> decide
/-- A group that starves or has lost a member; a member without its task; a weight pair that the array does not hold. -/
theorem test_witness_rollEnds : ((busS { formed := true, members := [0], kind := .starved } id).bus 0).kind = .starved ∧ ((busS { formed := true, members := [0], lost := true } id).bus 0).lost = true
    ∧ ((busS { formed := true, members := [0] } id).rollers ((busS { formed := true, members := [0] } id).bus 0)).Nodup ∧ waitRoll.rollTask ≠ none ∧ tile0.rollTask = none
    ∧ ({ rolling8 with stopping := some 7 } : Roll).stopping = some 7 ∧ rolling8.pipe = [] ∧ rolling8.rests < ({ rolling8 with p1 := BitVec.ofNat 64 (2 ^ 24 + 2 ^ 12) } : Roll).restlim
    ∧ (0 / 256 < rolling8.nlen ∧ 0 % 256 < rolling8.klen) ∧ (∀ i, Map.find tile0.ecc (eccAcc i) = none) := by
  refine ⟨by decide, by decide, by decide, by decide, by decide, by decide, by decide, by decide, by decide, fun _ => rfl⟩
/-- A gang of two units, launch 3; its tiles fit, or all tiles but one are taken. Launch 3 of a listed tile, and one whose units are away. -/
def gangS (l : Launch) (x : List Saved) (o : Part → Part) : State :=
  { admitS l with launches := [(1, { pri := 0, order := 1 }), (3, { l with admitted := true, pri := 5 })], saved := x, ev := { num := 0 }
                  parts := [(0, o { formed := true, clusters := 1, groups := BitVec.allOnes 32, ctxs := 1, cred := 7 })]
                  hostQs := [(0, { base := 0x1000, log2n := 2, enable := true, pri := 5 })] }
def gang2 : Launch := { newL 0x2000 with cls := 1, nunits := 2, unitsLeft := 2, waiting := [0, 1] }
theorem test_witness_Gangs : (gangS gang2 [] id).serving = true ∧ (gangS gang2 [] id).failDeps 0 = gangS gang2 [] id ∧ ((gangS gang2 [] id).part 0).reservation = none
    ∧ ((gangS gang2 [] id).choose 0).2 = some 3 ∧ ((gangS gang2 [] id).launch 3).cls ≠ 0 ∧ (gangS gang2 [] id).unplaced 3 = ([], [0, 1])
    ∧ (((gangS gang2 [] id).freeTiles 0).take 2).length = 2 ∧ (((gangS gang2 [] id).freeTiles 0).take 2).Nodup
    ∧ ({ gangS gang2 [] id with fenced := [1, 2, 3, 4, 5, 6] } : State).freeTiles 0 = [7] := by
  and_intros <;> decide
/-- A listed tile that is free, and one that is not; a unit that is away; a launch of lower priority to pre-empt, and none. -/
def listed (t : TileNo) : Launch := { newL 0x2000 with place := 1, listTiles := [t] }
def awayUnit : Saved := { launch := 3, idx := 0, tileNo := 1, tile := tile0 }
theorem test_witness_Places : ((gangS (listed 2) [] id).launch 3).listTiles[0]? = some 2 ∧ (gangS (listed 2) [] id).isFree 0 2 = true ∧ (gangS (listed 0) [] id).isFree 0 0 = false
    ∧ (gangS { newL 0x2000 with waiting := [] } [awayUnit] id).unplaced 3 = ([awayUnit], []) ∧ (gangS { newL 0x2000 with waiting := [] } [awayUnit] id).isFree 0 awayUnit.tileNo = true
    ∧ ({ gangS (newL 0x2000) [] id with fenced := [1, 2, 3, 4, 5, 6, 7] } : State).freeTiles 0 = []
    ∧ ((gangS (newL 0x2000) [] id).launch 1).pri < ((gangS (newL 0x2000) [] id).launch 3).pri ∧ (gangS (newL 0x2000) [] id).resident 1 = [0]
    ∧ ((roundS.launch 1).pri < (roundS.launch 3).pri) = False ∧ (∀ q, q ∈ (gangS (newL 0x2000) [] id).tiles → q.2.preemptAsk = false ∧ q.2.preemptReq = false) := by
  and_intros <;> decide
/-- What the dispatcher reads for a launch: it translates, or its program does not. -/
theorem test_witness_Ranges : (placeS []).mapped ((placeS []).launch 3).ctx ((placeS []).imageRanges ((placeS []).launch 3)) = true
    ∧ (((placeS []).useRanges ((placeS []).launch 3).ctx ((placeS []).imageRanges ((placeS []).launch 3))).image ((placeS []).launch 3)).isSome = true
    ∧ (placeS []).mapped ((placeS []).launch 3).ctx ((placeS []).codeRanges ((placeS []).launch 3)) = true
    ∧ (admitS (newL 0x1000000000)).mapped 0 ((admitS (newL 0x1000000000)).codeRanges (newL 0x1000000000)) = false
    ∧ ((admitS (newL 0x2000)).useRanges 0 ((admitS (newL 0x2000)).admitRanges (newL 0x2000))).admits (newL 0x2000) = true
    ∧ ((admitS (newL 0x1000000000)).useRanges 0 ((admitS (newL 0x1000000000)).admitRanges (newL 0x1000000000))).admits (newL 0x1000000000) = false
    ∧ ((queueS { tail := 1 } 9).useRanges 0 [(0x1000, 128)]).hubRow 0 0x1000 = some recRow ∧ ((queueS { tail := 1 } 9).useRanges 0 [(0x1000, 128)]).hubRow 0 0x1040 = some 0
    ∧ ((queueS {} 9).hubTranslate hubDisp 0 0x1000000000 false true).toOption = none := by
  and_intros <;> decide
/-- A core that is halted while its take-over is pending; a copy's late rows; a thermal trip. -/
theorem test_witness_reloads : ({ State.reset with halted0 := true, standby := true } : State).gate = false ∧ (run .C).thermal = false ∧ ({ run .C with thermal := true } : State).thermal = true
    ∧ (∀ k, k ∈ (stepOn {} { tile0 with preemptReq := true, window := [cpyTask 0] }).me.window → k.late = []) ∧ ({ run .C with ev := { num := 1 } } : State).ev.num = 1 := by
  and_intros <;> decide
/-- An image's header and the firmware of a slot; a certificate chain. -/
theorem test_witness_Images : ((decodeImage (List.replicate 192 0x35)).map fun m => (m.body, m.keyidx)) = some ([], 0x35) ∧ decodeImage (List.replicate 191 0) = none
    ∧ slotOk [] State.reset.fuses = false ∧ ({ State.reset with fuses := { State.reset.fuses with certs := [1, 2, 3] } } : State).fuses.certs.length = 3 := by
  and_intros <;> decide
/-- A record that comes last to its queue; a record in a clock's late part; the host's write to the vector table. -/
theorem test_witness_lateRecords : (pealS [] 0).late = false ∧ ({ pealS [] 0 with late := true } : State).late = true ∧ ((pealS [] 0).tile 0).qTakes 5 2 = true
    ∧ ({ pealS [] 0 with ev := { aux := 2 } } : State).ev.aux = 2 ∧ (8 < 1056 ∧ 8 % 8 = 0) ∧ (run .C).ide = true
    ∧ ({ tile0 with pealQ := List.replicate 2048 (0, 0) } : Tile).qTakes 5 2 = false := by
  and_intros <;> decide
/-- A device held in reset with steps due, one of them the cold reset. -/
theorem test_witness_heldInReset : ({ State.reset with inReset := true, agenda := [{ op := .wake }] } : State).agenda = [{ op := .wake }] ∧ Instr.wake ≠ .coldReset
    ∧ (match step { State.reset with inReset := true, agenda := [{ op := .wake }] } with | .next t => t.inReset && t.agenda = [] | _ => false) = true := by
  and_intros <;> decide
/-- An encoding that no instruction has, outside a REP. -/
theorem test_witness_badEncoding : decode 0x01000001 [] = .error .reservedField ∧ (run .C).cur.rep = none :=
  ⟨rfl, by decide⟩
/-- The digest of the three bytes "abc" in the standard's first example (FIPS 180-4), its first byte lowest. -/
theorem test_sha256 : sha256 [0x61, 0x62, 0x63] = 0xad1500f261ff10b49c7a1796a36103b02322ae5dde404141eacf018fbf1678ba := by decide
end Sys2Proof.Tests
end

section
/-! PROOFS. O59: `exec` lets an instruction that has issued and only waits go on before it checks its stream (R143), so the order of R111 fails in some states. -/
namespace Sys2Proof.Machine

/-! ## A trap and an advance are told apart by the error reports -/

@[simp] theorem State.failUnit_reports (s : State) (t : TileNo) : (s.failUnit t).reports = s.reports := rfl

/-- R361: every trap is reported. -/
theorem State.takeTrap_reports_length (s : State) (t : TileNo) (st : Stream) (code : BitVec 16) (lane : LaneAddr) (addr info : Word) (next async : Bool) :
    (s.takeTrap t st code lane addr info next async).reports.length = s.reports.length + 1 := by
  simp only [State.takeTrap, apply_ite State.reports, State.failUnit_reports, ite_self]
  simp

theorem State.advance_ne_takeTrap (s : State) (t : TileNo) (st : Stream) (code : BitVec 16) (lane : LaneAddr) (addr info : Word) (next async : Bool) :
    s.advance ≠ s.takeTrap t st code lane addr info next async := by
  intro h
  have hlen := State.takeTrap_reports_length s t st code lane addr info next async
  rw [← h, State.advance_reports] at hlen
  omega

/-! ## LDQ.W behind its performed load -/

/-- R143: once its load is performed, LDQ.W is over, and the stream goes on. The model asks this before `State.guardI` looks at the stream. -/
theorem exec_ldqW_performed {s : State} {n : Nat} (wait : s.cur.issuedWait = some n) (performed : ∀ a ∈ s.cur.accs, a.id ≠ n)
    (q : QReg) (m : BitVec 3) (b : Reg) (i : BitVec 13) (ql : Option Qual) : exec (.ldqW q m b i ql) s = .next s.advance := by
  have gone : (s.cur.accs.any fun a => a.id = n) = false := by simpa using performed
  change s.loadFull .full q m b i ql = s.done
  simp [State.loadFull, wait, gone]

/-- The V stream runs and holds the mark of a full/empty load that has been performed: the counterexample of O59. -/
def performedLoadOnV : State :=
  { State.reset with cs := .V }.modCur fun z => { z with mode := .running, issuedWait := some 0 }

theorem performedLoadOnV_issuedWait : performedLoadOnV.cur.issuedWait = some 0 := by decide
theorem performedLoadOnV_accs : performedLoadOnV.cur.accs = [] := by decide

theorem decode_ldqW_word : decode 0x41000000 [] = .ok (.ldqW 0 0 0 0 none) := rfl

/-- Refutes O59: its fourth clause asks ILLEGAL_STREAM in every state, reached by a run or not. LDQ.W (0x41) is not legal on V (R114), but where V holds
the mark of a performed full/empty load, `exec` lets V go on behind the instruction and traps nothing. The clause lacks the hypothesis that the stream has
no issued instruction to wait for (`s.cur.issuedWait = none`), under which O10 and O34 state the ordinary issue of these instructions. -/
theorem not_orderOfChecks : ¬ Obligations.OrderOfChecks := by
  unfold Obligations.OrderOfChecks
  intro h
  obtain ⟨-, -, -, checks, -⟩ := h performedLoadOnV 0x41000000 [] (.ldqW 0 0 0 0 none)
  have traps := (checks (by decide) decode_ldqW_word).1 (by decide)
  have goesOn := exec_ldqW_performed performedLoadOnV_issuedWait (by simp [performedLoadOnV_accs]) 0 0 0 0 none
  rw [goesOn] at traps
  exact State.advance_ne_takeTrap _ _ _ _ _ _ _ _ _ (by injection traps)

end Sys2Proof.Machine
end

section
/-! PROOFS. O42: WSWAP, TOPKCLR, TOPKRD and TOPKRD.N (R242 to R244). -/
namespace Sys2Proof.Machine

/-! ## The words of a row register -/

/-- The digits of a number in base 2^64, lowest first, are the words that it was put together from. -/
theorem foldr_words_digit (ws : List Word) (j : Nat) :
    ws.foldr (fun w a => a * 2 ^ 64 + w.toNat) 0 / 2 ^ (64 * j) % 2 ^ 64 = (ws.getD j 0).toNat := by
  induction ws generalizing j with
  | nil => simp
  | cons w ws ih =>
    have hw := w.isLt
    cases j with
    | zero => simp [Nat.mod_eq_of_lt hw]
    | succ j =>
      have step : (ws.foldr (fun w a => a * 2 ^ 64 + w.toNat) 0 * 2 ^ 64 + w.toNat) / 2 ^ 64 = ws.foldr (fun w a => a * 2 ^ 64 + w.toNat) 0 := by omega
      rw [List.foldr_cons, Nat.mul_succ, Nat.add_comm (64 * j), Nat.pow_add, ← Nat.div_div_eq_div_mul, step, ih, List.getD_cons_succ]

/-- A field that lies inside a cut number is the field of the number. -/
theorem extractLsb'_ofNat_inside (n : Nat) {k w m : Nat} (h : k + w ≤ m) : (BitVec.ofNat m n).extractLsb' k w = BitVec.ofNat w (n / 2 ^ k) := by
  ext i hi
  simp [← BitVec.getLsbD_eq_getElem, BitVec.getLsbD_ofNat, Nat.testBit_div_two_pow, Nat.add_comm i, hi, show k + i < m by omega]

/-- Word j of a row of eight words (R125). -/
theorem rowWord_rowOfWords (ws : List Word) {j : Nat} (hj : j < 8) : rowWord (rowOfWords ws) j = ws.getD j 0 := by
  rw [rowWord, rowOfWords, extractLsb'_ofNat_inside _ (by omega)]
  apply BitVec.eq_of_toNat_eq
  rw [BitVec.toNat_ofNat, foldr_words_digit]
  simp [List.getD_eq_getElem?_getD, List.getElem?_take_of_lt hj]

/-- A field of a row that lies in one word is the field of the word. -/
theorem extractLsb'_rowWord (r : Row) (j k : Nat) (h : k ≤ 32) : (rowWord r j).extractLsb' k 32 = r.extractLsb' (64 * j + k) 32 := by
  ext i hi
  simp [rowWord, Nat.add_assoc, show k + i < 64 by omega]

/-! ## The entries of the top-k store (R238) -/

/-- An entry as TOPKRD answers it: the index above the value (R243). -/
def TopEntry.word (e : TopEntry) : Word := zext64 e.i <<< 32 ||| zext64 e.v

@[simp] theorem TopEntry.word_value (e : TopEntry) : e.word.extractLsb' 0 32 = e.v := by
  ext i hi
  simp [TopEntry.word, zext64, hi, show i < 64 by omega]

@[simp] theorem TopEntry.word_index (e : TopEntry) : e.word.extractLsb' 32 32 = e.i := by
  ext i hi
  simp [TopEntry.word, zext64, hi, show 32 + i < 64 by omega]

/-- The row that TOPKRD answers for group `g` of a top-k row: its entries 8g to 8g + 7 (R243). -/
def topGroup (es : List TopEntry) (g : Nat) : Row := rowOfWords ((List.range 8).map fun j => (es.getD (8 * g + j) {}).word)

theorem rowWord_topGroup (es : List TopEntry) (g : Nat) {j : Nat} (hj : j < 8) : rowWord (topGroup es g) j = (es.getD (8 * g + j) {}).word := by
  simp [topGroup, rowWord_rowOfWords _ hj, hj]

theorem topGroup_value (es : List TopEntry) (g : Nat) {j : Nat} (hj : j < 8) :
    (topGroup es g).extractLsb' (64 * j) 32 = (es.getD (8 * g + j) {}).v := by
  rw [← TopEntry.word_value, ← rowWord_topGroup es g hj, extractLsb'_rowWord _ _ _ (by omega), Nat.add_zero]

theorem topGroup_index (es : List TopEntry) (g : Nat) {j : Nat} (hj : j < 8) :
    (topGroup es g).extractLsb' (64 * j + 32) 32 = (es.getD (8 * g + j) {}).i := by
  rw [← TopEntry.word_index, ← rowWord_topGroup es g hj, extractLsb'_rowWord _ _ _ (by omega)]

/-! ## The fields of TOPKRD's operand -/

theorem bits_topRow (w : Word) : bits w 6 0 = w.toNat % 128 := by simp [bits]
theorem bits_topGroup (w : Word) : bits w 8 7 = w.toNat / 128 % 4 := by simp [bits, Nat.shiftRight_eq_div_pow]

/-! ## What the four instructions do where they may issue -/

theorem exec_wswap {s : State} (may : s.mayIssue onC [] = true) :
    exec .wswap s = if s.me.rolling then s.trap cILLEGAL_USE
      else if s.me.wload.isSome || s.me.released TaskRec.matmul then s.stall rINTERLOCK
      else .next (s.modMe fun u => { u with planeA := u.planeS, planeS := u.planeA }).advance := by
  change execWswap s = _
  rw [execWswap, State.guard_run may]
  rfl

theorem exec_topkclr {s : State} (may : s.mayIssue onC [] = true) :
    exec .topkclr s = if s.me.topBusy then s.stall rINTERLOCK else .next (s.modMe fun u => { u with topk := [] }).advance := by
  change execTopkclr s = _
  rw [execTopkclr, State.guard_run may]
  rfl

theorem exec_topkrd {s : State} {q : QReg} {a : Reg} (may : s.mayIssue onC [.x a, .q q] = true) (clear : s.clearOf [.q q] = true) :
    exec (.topkrd q a) s = if s.me.topBusy then s.stall rINTERLOCK
      else .next (s.answers [.q q]
        [(topGroup (Map.get [] s.me.topk ((s.x a).toNat % 128)) ((s.x a).toNat / 128 % 4)).setWidth 4096]).advance := by
  change execTopkrd q a s = _
  rw [execTopkrd, State.guardI_run may clear, bits_topRow, bits_topGroup]
  rfl

theorem exec_topkrdN {s : State} {d a : Reg} (may : s.mayIssue onC [.x a, .x d] = true) (clear : s.clearOf [.x d] = true) :
    exec (.topkrdN d a) s = if s.me.topBusy then s.stall rINTERLOCK
      else .next (s.answer d (BitVec.ofNat 64 (Map.get [] s.me.topk ((s.x a).toNat % 128)).length)).advance := by
  change execTopkrdN d a s = _
  rw [execTopkrdN, State.guardI_run may clear, bits_topRow]
  rfl

/-! ## What TOPKCLR leaves unchanged -/

/-- A change of the current tile changes no other. -/
theorem State.onlyTile_modMe (s : State) (g : Tile → Tile) : s.onlyTile (s.modMe g) s.ct :=
  ⟨rfl, fun k hk => by rw [State.tile_modMe, if_neg (Ne.symm hk)]⟩

/-- The streams of a tile do not depend on its top-k store. -/
theorem Tile.strm_topk (u : Tile) (m : Map (List TopEntry)) (st : Stream) : ({ u with topk := m } : Tile).strm st = u.strm st := by
  cases st <;> rfl

theorem State.cur_modMe_topk (s : State) (m : Map (List TopEntry)) : (s.modMe fun u => { u with topk := m }).cur = s.cur := by
  rw [State.cur, State.me_modMe, State.modMe_cs, Tile.strm_topk, State.cur]

/-- Settles O42: each instruction is its equation above, read in the case that its clause names. -/
theorem swapAndTopk : Obligations.SwapAndTopk := by
  unfold Obligations.SwapAndTopk
  intro s q d a
  refine ⟨fun may => ⟨?rolling, ?swap, ?wait, ?clear, ?clearBusy⟩, fun may clear => ⟨?readBusy, ?read⟩, fun may clear => ⟨?countBusy, ?count⟩⟩
  case rolling => intro roll; simp [exec_wswap may, roll]
  case swap => intro roll noLoad idle; simp [exec_wswap may, roll, noLoad, idle]
  case wait =>
    intro roll works
    have works : (s.me.wload.isSome || s.me.released TaskRec.matmul) = true := by simpa [Option.isSome_iff_ne_none] using works
    simp [exec_wswap may, roll, works]
  case clear =>
    intro idle
    exact ⟨_, by simp [exec_topkclr may, idle], State.onlyTile_modMe s _, by rw [State.me_modMe], State.cur_modMe_topk s []⟩
  case clearBusy => intro busy; simp [exec_topkclr may, busy]
  case readBusy => intro busy; simp [exec_topkrd may clear, busy]
  case read =>
    intro idle
    exact ⟨_, by simp [exec_topkrd may clear, idle], fun j hj => ⟨topGroup_value _ _ hj, topGroup_index _ _ hj⟩⟩
  case countBusy => intro busy; simp [exec_topkrdN may clear, busy]
  case count => intro idle; simp [exec_topkrdN may clear, idle]

end Sys2Proof.Machine
end
